-- ==== Sys2Proof/Word.lean ====
section
/-! DEFINITION. The word types of the module and their plainest helpers. Registers are 64 bits wide (R375),
lanes and FP32 codes 32 bits, memory is byte addressed, and bits are numbered from 0 at the least
significant end (R4). -/

namespace Sys2Proof

/-- One byte of memory, flash or a frame. -/
abbrev Byte := BitVec 8

/-- A 32-bit lane, an FP32 code, a scale or exponent word. -/
abbrev W32 := BitVec 32

/-- A 64-bit register or a word of a message, descriptor or record. -/
abbrev Word := BitVec 64

/-- A 128-bit step-table entry (R46) or digest half. -/
abbrev W128 := BitVec 128

/-- A 128-byte flit (R309). -/
abbrev Flit := BitVec 1024

/-- What an optical lane carries in one slot (R306): 544 symbols of ten bits, the first lowest, or the 2,720 PAM4 levels of them. -/
abbrev Codeword := BitVec 5440

end Sys2Proof
end

