-- ==== Sys2Proof/Syntax.lean ====
section
/-! DEFINITION. The commands the module takes, one constructor of `Instr` for each row of the opcode table, with
the data each row carries: the core, slot or port it names, the register offset and value written, the message that
arrives, the reading that a sensor or a link gives. -/

namespace Sys2Proof

/-- A core, 0-255 (Table 0-3). -/
abbrev CoreId := Fin 256
/-- A job slot, 0-3. -/
abbrev SlotId := Fin 4
/-- A matrix array of a core, 0 for MA0 and 1 for MA1. -/
abbrev ArrayId := Fin 2
/-- A unit of a core by its UNIT code, 0-6 (Table 2-3). -/
abbrev UnitId := Fin 7
/-- A fabric port, 0-15. -/
abbrev PortId := Fin 16
/-- An ingest ring, 0-7. -/
abbrev RingId := Fin 8
/-- An HBM stack and its base die, 0-7. -/
abbrev StackId := Fin 8
/-- A row engine, 0-127 (16 per base die). -/
abbrev EngineId := Fin 128
/-- A power domain, 0-49. -/
abbrev DomainId := Fin 50
/-- An optical engine and its laser unit, 0-3. -/
abbrev EngineUnit := Fin 4

/-- A fabric message: the four envelope words of Table 12-1 and the body words (R338). -/
structure Message where
  w0 : Word := 0
  w1 : Word := 0
  w2 : Word := 0
  w3 : Word := 0
  body : List Word := []
  deriving DecidableEq, Repr

/-- What a read of host memory returned: the bytes, or an error, poisoned data or a timeout (R382, R402). -/
inductive ReadResult where
  | ok (bytes : List Byte)
  | failed
  deriving DecidableEq, Repr

/-- A landed sample: microbatch index and index within the microbatch (R19). -/
structure SampleRef where
  mb : Nat := 0
  j : Nat := 0
  deriving DecidableEq, Repr

/-- What a regulator's rail shows at the end of its ramp, in mV (Table 15-2). -/
structure RailReading where
  target : Nat := 0
  output : Nat := 0
  remote : Nat := 0
  localMv : Nat := 0
  deriving DecidableEq, Repr

/-- One domain's calibration readings (R507): the lowest monitor pace at the lower and upper rail limit, and the trim. -/
structure CalReading where
  low : Nat := 0
  high : Nat := 0
  trim : Int := 0
  deriving DecidableEq, Repr

/-- An IDENT control flit (R316), its one-way delay measured by echo, and whether it acknowledges the own IDENT. -/
structure Ident where
  magic : Nat := 0
  version : Nat := 0
  serial : Nat := 0
  fabricId : Nat := 0
  port : Nat := 0
  rxOk : Bool := false
  delayNs : Nat := 0
  acked : Bool := false
  deriving DecidableEq, Repr

/-- What a memory line suffers as a request reaches it: nothing; an error that its code corrects, or does not (R294); a slate
request that fails, or is only slow (R296, R297). -/
inductive LineFate where
  | sound
  | correctable
  | uncorrectable
  | fails
  | slow
  deriving DecidableEq, Repr

/-- A request to a memory controller or the slate-tier controller (R276, R289): the line address, the first byte and
length, the class, the job slot, and whether the service complex or Flint issues it. `core` and `unit` name the requester.
`waits` says that the request arrives behind others and waits for its channel's scheduler (R290), `fate` what its line suffers. -/
structure MemRequest where
  addr : Nat := 0
  len : Nat := 64
  cls : Nat := 1
  slot : SlotId := 0
  service : Bool := false
  test : Bool := false
  unit : Nat := 13
  core : Nat := 0
  waits : Bool := false
  fate : LineFate := .sound
  deriving DecidableEq, Repr

/-- One core's beat count and monitor count in a window (R502). -/
structure PaceCount where
  beats : Nat := 0
  monitor : Nat := 0
  deriving DecidableEq, Repr

/-- The optical powers of a port's four lanes, received and transmitted, in hundredths of a dBm (R337). -/
structure LanePowers where
  rx : List Int := []
  tx : List Int := []
  deriving DecidableEq, Repr

/-- What the lock of a port's lanes found: which lanes are inverted, a bit for each, and the equaliser settings (R315, R317). -/
structure LaneLock where
  polarity : Nat := 0
  calib : List Word := []
  deriving DecidableEq, Repr

/-- The levels of a codeword as a receive lane got them (R306). -/
structure LaneCodeword where
  lane : Fin 4 := 0
  levels : Codeword := 0
  deriving DecidableEq, Repr

/-- A REG_READ over SMBus: its offset and, where the controller sends one, the packet error code of the written part (R543, R545). -/
structure SmbRead where
  off : Nat := 0
  pec : Option Byte := none
  deriving DecidableEq, Repr

/-- A stalled crossing (R491): its boundary class of Table 17-7 and the partner domain, by kind of Table 16-7. -/
structure Crossing where
  cls : Fin 11 := 0
  domain : DomainId := 0
  index : Nat := 0
  deriving DecidableEq, Repr

/-- What a JTAG DEBUG read addresses (R549). -/
inductive DebugSpace where
  | bar0
  | coreStore (c : CoreId)
  | stepTable (c : CoreId)
  | moduleMemory
  | fuses
  deriving DecidableEq, Repr

/-- The commands of the module, one constructor for each row of the opcode table. -/
inductive Instr where
  /-- SQ_DISPATCH (R47). -/
  | sqDispatch (c : CoreId) (s : SlotId)
  /-- ENTRY_COMPLETE (R54). -/
  | entryComplete (c : CoreId) (u : UnitId)
  /-- NOP (R47). -/
  | nop (c : CoreId) (s : SlotId)
  /-- LOOP (R58). -/
  | loop (c : CoreId) (s : SlotId)
  /-- FENCE (R47). -/
  | fence (c : CoreId) (s : SlotId)
  /-- RSIG (R54). -/
  | rsig (c : CoreId) (s : SlotId)
  /-- STEP_END (R50). -/
  | stepEnd (c : CoreId) (s : SlotId)
  /-- WATCHDOG_EXPIRY (R72). -/
  | watchdogExpiry (c : CoreId)
  /-- LOCAL_REEXECUTION (R473). -/
  | localReexecution (s : SlotId) (phase : Nat)
  /-- FILLER_CHUNK_START (R74). -/
  | fillerChunkStart (c : CoreId) (u : UnitId)
  /-- FILLER_CHUNK_END (R75). -/
  | fillerChunkEnd (c : CoreId) (u : UnitId)
  /-- SK_MOVE (R65). -/
  | skMove (c : CoreId) (s : SlotId)
  /-- CLEAR (R93). -/
  | clear (c : CoreId) (a : ArrayId) (s : SlotId)
  /-- DRAIN (R92). -/
  | drain (c : CoreId) (a : ArrayId) (s : SlotId)
  /-- PASS (R76). -/
  | pass (c : CoreId) (a : ArrayId) (s : SlotId)
  /-- TILE_DRAIN (R92). -/
  | tileDrain (c : CoreId) (a : ArrayId)
  /-- ADD (R116). -/
  | veAdd (c : CoreId) (s : SlotId)
  /-- SUB (R116). -/
  | veSub (c : CoreId) (s : SlotId)
  /-- MUL (R116). -/
  | veMul (c : CoreId) (s : SlotId)
  /-- AXPY (R116). -/
  | axpy (c : CoreId) (s : SlotId)
  /-- DIV (R116). -/
  | veDiv (c : CoreId) (s : SlotId)
  /-- MIN (R116). -/
  | veMin (c : CoreId) (s : SlotId)
  /-- MAX (R116). -/
  | veMax (c : CoreId) (s : SlotId)
  /-- ABS (R117). -/
  | veAbs (c : CoreId) (s : SlotId)
  /-- NEG (R117). -/
  | veNeg (c : CoreId) (s : SlotId)
  /-- SQRT (R116). -/
  | sqrt (c : CoreId) (s : SlotId)
  /-- RSQRT (R116). -/
  | rsqrt (c : CoreId) (s : SlotId)
  /-- EXP (R116). -/
  | veExp (c : CoreId) (s : SlotId)
  /-- LOG (R116). -/
  | veLog (c : CoreId) (s : SlotId)
  /-- SIGMOID (R116). -/
  | sigmoid (c : CoreId) (s : SlotId)
  /-- TANH (R116). -/
  | tanh (c : CoreId) (s : SlotId)
  /-- CVT (R116). -/
  | cvt (c : CoreId) (s : SlotId)
  /-- CMP_LT (R117). -/
  | cmpLt (c : CoreId) (s : SlotId)
  /-- CMP_LE (R117). -/
  | cmpLe (c : CoreId) (s : SlotId)
  /-- CMP_EQ (R117). -/
  | cmpEq (c : CoreId) (s : SlotId)
  /-- CMP_UN (R117). -/
  | cmpUn (c : CoreId) (s : SlotId)
  /-- SELECT (R116). -/
  | veSelect (c : CoreId) (s : SlotId)
  /-- IADD (R118). -/
  | iadd (c : CoreId) (s : SlotId)
  /-- ISUB (R118). -/
  | isub (c : CoreId) (s : SlotId)
  /-- IADD_SAT (R118). -/
  | iaddSat (c : CoreId) (s : SlotId)
  /-- ISUB_SAT (R118). -/
  | isubSat (c : CoreId) (s : SlotId)
  /-- UADD_SAT (R118). -/
  | uaddSat (c : CoreId) (s : SlotId)
  /-- AND (R118). -/
  | veAnd (c : CoreId) (s : SlotId)
  /-- OR (R118). -/
  | veOr (c : CoreId) (s : SlotId)
  /-- XOR (R118). -/
  | veXor (c : CoreId) (s : SlotId)
  /-- NOT (R118). -/
  | veNot (c : CoreId) (s : SlotId)
  /-- SHL (R118). -/
  | shl (c : CoreId) (s : SlotId)
  /-- SHR (R118). -/
  | shr (c : CoreId) (s : SlotId)
  /-- SAR (R118). -/
  | sar (c : CoreId) (s : SlotId)
  /-- IMIN (R118). -/
  | imin (c : CoreId) (s : SlotId)
  /-- IMAX (R118). -/
  | imax (c : CoreId) (s : SlotId)
  /-- UMIN (R118). -/
  | umin (c : CoreId) (s : SlotId)
  /-- UMAX (R118). -/
  | umax (c : CoreId) (s : SlotId)
  /-- ADD64 (R118). -/
  | add64 (c : CoreId) (s : SlotId)
  /-- RSUM_ROW (R119). -/
  | rsumRow (c : CoreId) (s : SlotId)
  /-- RMAX_ROW (R119). -/
  | rmaxRow (c : CoreId) (s : SlotId)
  /-- RMIN_ROW (R119). -/
  | rminRow (c : CoreId) (s : SlotId)
  /-- RMAXABS_ROW (R119). -/
  | rmaxabsRow (c : CoreId) (s : SlotId)
  /-- RSUM_COL (R120). -/
  | rsumCol (c : CoreId) (s : SlotId)
  /-- RMAX_COL (R120). -/
  | rmaxCol (c : CoreId) (s : SlotId)
  /-- RMAXABS_COL (R120). -/
  | rmaxabsCol (c : CoreId) (s : SlotId)
  /-- HIST_LOG2 (R158). -/
  | histLog2 (c : CoreId) (s : SlotId)
  /-- SOFTMAX (R121). -/
  | softmax (c : CoreId) (s : SlotId)
  /-- CVT_TO_SB (R150). -/
  | cvtToSb (c : CoreId) (s : SlotId)
  /-- CVT_FROM_SB (R126). -/
  | cvtFromSb (c : CoreId) (s : SlotId)
  /-- CVT_BI32 (R152). -/
  | cvtBi32 (c : CoreId) (s : SlotId)
  /-- VLOAD (R105). -/
  | vload (c : CoreId) (s : SlotId)
  /-- VSTORE (R105). -/
  | vstore (c : CoreId) (s : SlotId)
  /-- BAG_SCAN (R207). -/
  | bagScan (c : CoreId) (s : SlotId) (samples : List SampleRef)
  /-- KEY_MERGE (R208). -/
  | keyMerge (c : CoreId) (s : SlotId)
  /-- SPILL_CHUNK_GRANT (R209). -/
  | spillChunkGrant (c : CoreId)
  /-- RESP_EXPAND (R217). -/
  | respExpand (c : CoreId) (s : SlotId)
  /-- GRAD_SCAN (R225). -/
  | gradScan (c : CoreId) (s : SlotId)
  /-- GRAD_FLUSH (R227). -/
  | gradFlush (c : CoreId) (s : SlotId)
  /-- GRAD_MERGE (R228). -/
  | gradMerge (c : CoreId) (s : SlotId)
  /-- EXCH_CLOSE (R348). -/
  | exchClose (c : CoreId) (s : SlotId)
  /-- AGREE_MAX (R169). -/
  | agreeMax (c : CoreId) (s : SlotId)
  /-- REDUCE_SCATTER (R351). -/
  | reduceScatter (c : CoreId) (s : SlotId)
  /-- ALL_GATHER (R352). -/
  | allGather (c : CoreId) (s : SlotId)
  /-- DENSE_GATHER_SERVE (R263). -/
  | denseGatherServe (s : SlotId) (g : Nat)
  /-- MESSAGE_FORWARD (R344). -/
  | messageForward (k : Nat)
  /-- MESSAGE_HOLD_DROP (R484). -/
  | messageHoldDrop (k : Nat)
  /-- COUNT (R346). -/
  | countMsg (m : Message)
  /-- ROW_REQUEST (R214). -/
  | rowRequest (m : Message)
  /-- ROW_RESPONSE (R213). -/
  | rowResponse (m : Message)
  /-- GRAD_BATCH (R232). -/
  | gradBatch (m : Message)
  /-- REDUCE_UP (R350). -/
  | reduceUp (m : Message)
  /-- BCAST_DOWN (R352). -/
  | bcastDown (m : Message)
  /-- VOTE_UP (R350). -/
  | voteUp (m : Message)
  /-- RESULT_DOWN (R356). -/
  | resultDown (m : Message)
  /-- MIRROR_DIGEST (R274). -/
  | mirrorDigest (m : Message)
  /-- MIRROR_DIGEST_TIMEOUT (R274). -/
  | mirrorDigestTimeout (s : SlotId)
  /-- HOLD_UP (R360). -/
  | holdUp (m : Message)
  /-- HOLD_DOWN (R360). -/
  | holdDown (m : Message)
  /-- HOLD_NOTICE_TIMER (R360). -/
  | holdNoticeTimer (s : SlotId)
  /-- INGEST_HOLD_TIMEOUT (R360). -/
  | ingestHoldTimeout (c : CoreId)
  /-- PERMUTE (R365). -/
  | permute (m : Message)
  /-- PERMUTE_COMPLETE (R365). -/
  | permuteComplete (s : SlotId)
  /-- GUIDON_VOTE (R25). -/
  | guidonVote (s : SlotId)
  /-- CLOSING_VOTE (R354). -/
  | closingVote (s : SlotId)
  /-- VOTE_TIMEOUT (R359). -/
  | voteTimeout (s : SlotId)
  /-- ROW_UPDATE (R238). -/
  | rowUpdate (e : EngineId)
  /-- RECORD_WRITE_ACCEPT (R241). -/
  | recordWriteAccept (st : StackId)
  /-- PHASE9_COMPLETE (R262). -/
  | phase9Complete (s : SlotId)
  /-- COMMIT_POINT (R28). -/
  | commitPoint (s : SlotId)
  /-- IDLE_COMMIT_POINT (R403). -/
  | idleCommitPoint
  /-- ROLLBACK_DRAIN_END (R483). -/
  | rollbackDrainEnd
  /-- ROLLBACK_WAIT (R486). -/
  | rollbackWait
  /-- FLINT_POINT_END (R493). -/
  | flintPointEnd (passed : Bool)
  /-- FLINT_RETEST (R494). -/
  | flintRetest
  /-- FILLER_FLINT (R496). -/
  | fillerFlint (passed : Bool)
  /-- RING_DOORBELL (R379). -/
  | ringDoorbell (r : RingId) (v : Word)
  /-- RING_CONFIG (R382). -/
  | ringConfig (r : RingId) (v : Word)
  /-- DESCRIPTOR_READ (R382). -/
  | descriptorRead (r : RingId) (res : ReadResult)
  /-- FRAME_READ (R382). -/
  | frameRead (r : RingId) (res : ReadResult)
  /-- RING_RESUME (R382). -/
  | ringResume (r : RingId) (v : Word)
  /-- FRAME_LANDING (R383). -/
  | frameLanding (r : RingId)
  /-- INGEST_FENCE (R387). -/
  | ingestFence
  /-- BAR2_WRITE (R373). -/
  | bar2Write (off : Nat) (bytes : List Byte)
  /-- BAR2_EARLY_READ (R447). -/
  | bar2EarlyRead (off : Nat)
  /-- BAR0_BAD_READ (R375). -/
  | bar0BadRead (off : Nat) (len : Nat)
  /-- REGISTER_WRITE (R8). -/
  | registerWrite (off : Nat) (v : Word)
  /-- LIVE_SETTING_WRITE (R403). -/
  | liveSettingWrite (off : Nat) (v : Word)
  /-- HL_LIVE_HOLD (R435). -/
  | hlLiveHold (v : Word)
  /-- EXPORT_ROW (R390). -/
  | exportRow (s : SlotId)
  /-- EXPORT_SWEEP (R390). -/
  | exportSweep (s : SlotId)
  /-- EXPORT_DENSE (R391). -/
  | exportDense (s : SlotId) (g : Nat)
  /-- EXPORT_NUMERICS (R392). -/
  | exportNumerics (s : SlotId)
  /-- EXPORT_MAP (R393). -/
  | exportMap (s : SlotId)
  /-- EXPORT_MANIFEST (R394). -/
  | exportManifest (s : SlotId)
  /-- EXPORT_RELEASE (R388). -/
  | exportRelease (v : Word)
  /-- EXPORT_FENCE (R395). -/
  | exportFence
  /-- ACK_STEP (R396). -/
  | ackStep (s : SlotId) (v : Word)
  /-- NEED_ENTRY_WRITE (R400). -/
  | needEntryWrite
  /-- NEED_LIST_CONFIG (R400). -/
  | needListConfig (off : Nat) (v : Word)
  /-- NEED_RELEASE (R400). -/
  | needRelease (v : Word)
  /-- RESTORE_DOORBELL (R401). -/
  | restoreDoorbell (v : Word)
  /-- RESTORE_RECORD (R401). -/
  | restoreRecord
  /-- RESTORE_DONE (R401). -/
  | restoreDone (v : Word)
  /-- REPLAY_ACK (R398). -/
  | replayAck (v : Word)
  /-- MAILBOX_ARGUMENT_READ (R402). -/
  | mailboxArgumentRead (res : ReadResult)
  /-- ATTEST (R441). -/
  | attest
  /-- IMAGE_WRITE (R438). -/
  | imageWrite (res : ReadResult)
  /-- ACTIVATE (R439). -/
  | activate
  /-- CONFIRM (R439). -/
  | confirm
  /-- ABANDON (R439). -/
  | abandon
  /-- RESTORE (R561). -/
  | mboxRestore
  /-- GROW (R363). -/
  | grow
  /-- SHUTDOWN_DRAIN (R463). -/
  | shutdownDrain
  /-- SHUTDOWN_IMMEDIATE (R463). -/
  | shutdownImmediate
  /-- SHUTDOWN_TIMEOUT (R463). -/
  | shutdownTimeout
  /-- ERRLOG (R497). -/
  | errlog
  /-- MAILBOX_RESERVED_CODE (R402). -/
  | mailboxReservedCode
  /-- PERST_ASSERT (R404). -/
  | perstAssert
  /-- PERST_DEASSERT (R404). -/
  | perstDeassert
  /-- FUNCTION_LEVEL_RESET (R404). -/
  | functionLevelReset
  /-- D3HOT_ENTRY (R404). -/
  | d3hotEntry
  /-- LINK_LEAVES_L0 (R404). -/
  | linkLeavesL0
  /-- LINK_RETURN (R404). -/
  | linkReturn
  /-- LINK_LOSS_TIMEOUT (R404). -/
  | linkLossTimeout
  /-- FUNCTION_READY (R404). -/
  | functionReady (rate : Nat) (width : Nat)
  /-- INPUT_RISE (R535). -/
  | inputRise (straps : Nat)
  /-- UNDER_VOLTAGE (R535). -/
  | underVoltage
  /-- LOSS_OF_INPUT (R535). -/
  | lossOfInput
  /-- OVER_VOLTAGE (R535). -/
  | overVoltage
  /-- OVER_VOLTAGE_CLEAR (R535). -/
  | overVoltageClear
  /-- PWR_EN_ASSERT (R443). -/
  | pwrEnAssert
  /-- PWR_EN_DEASSERT (R464). -/
  | pwrEnDeassert
  /-- SOFT_START_END (R444). -/
  | softStartEnd (d : DomainId) (rail : RailReading)
  /-- SHORTED_OUTPUT (R444). -/
  | shortedOutput (d : DomainId)
  /-- IMAGE_SELECTION (R409). -/
  | imageSelection
  /-- JOURNAL_RESTORE (R450). -/
  | journalRestore
  /-- PACE_CALIBRATION (R507). -/
  | paceCalibration (readings : List CalReading)
  /-- HBM_INITIALISED (R446). -/
  | hbmInitialised
  /-- SLATE_INITIALISED (R446). -/
  | slateInitialised
  /-- JOURNAL_FLUSH (R452). -/
  | journalFlush
  /-- LASER_FAIL (R302). -/
  | laserFail (k : EngineUnit)
  /-- LIGHT_CHECK (R315). -/
  | lightCheck (p : PortId) (powers : LanePowers) (reverse : List Int)
  /-- LIGHT_PARTIAL_TIMEOUT (R315). -/
  | lightPartialTimeout (p : PortId)
  /-- LOCK_COMPLETE (R315). -/
  | lockComplete (p : PortId) (lock : LaneLock)
  /-- LOCK_TIMEOUT (R315). -/
  | lockTimeout (p : PortId)
  /-- ALIGN_COMPLETE (R315). -/
  | alignComplete (p : PortId) (marks : List (Codeword × Nat))
  /-- ALIGN_TIMEOUT (R315). -/
  | alignTimeout (p : PortId)
  /-- IDENT_SEND (R316). -/
  | identSend (p : PortId)
  /-- IDENT_FLIT (R316). -/
  | identFlit (p : PortId) (ident : Ident)
  /-- IDENT_TIMEOUT (R315). -/
  | identTimeout (p : PortId)
  /-- QUALIFY_END (R315). -/
  | qualifyEnd (p : PortId) (ppm : Nat) (calib : List Word)
  /-- RETRAIN_TIMEOUT (R315). -/
  | retrainTimeout (p : PortId)
  /-- EXCLUDED_RETRY (R315). -/
  | excludedRetry (p : PortId)
  /-- FLIT_RECEIVE (R310). -/
  | flitReceive (p : PortId) (got : LaneCodeword) (pos : Fin 5)
  /-- NAK (R311). -/
  | nak (p : PortId) (seq : Nat)
  /-- NAK_REPEAT (R310). -/
  | nakRepeat (p : PortId)
  /-- ACK_TIMER (R312). -/
  | ackTimer (p : PortId)
  /-- LOSS_OF_SIGNAL (R313). -/
  | lossOfSignal (p : PortId) (lane : Nat)
  /-- LOSS_OF_ALIGNMENT (R313). -/
  | lossOfAlignment (p : PortId) (lane : Nat)
  /-- ACK_PROGRESS_TIMEOUT (R313). -/
  | ackProgressTimeout (p : PortId)
  /-- BEACON (R323). -/
  | beacon (p : PortId) (m : Message)
  /-- DATABASE_QUIET (R325). -/
  | databaseQuiet
  /-- MAP_STALL (R326). -/
  | mapStall
  /-- MEMORY_READ (R294). -/
  | memoryRead (q : MemRequest)
  /-- MEMORY_WRITE (R276). -/
  | memoryWrite (q : MemRequest) (bytes : List Byte)
  /-- CLASS1_READ_AGE (R291). -/
  | class1ReadAge (st : StackId) (pc : Nat)
  /-- SCRUB (R295). -/
  | scrub (st : StackId)
  /-- PROMOTE_WINDOW (R284). -/
  | promoteWindow
  /-- PAGE_PROMOTION (R286). -/
  | pagePromotion
  /-- SLATE_LATE (R297). -/
  | slateLate (k : Nat)
  /-- SLATE_RETRY (R297). -/
  | slateRetry (k : Nat) (ok : Bool)
  /-- SLATE_TEST_TIMEOUT (R297). -/
  | slateTestTimeout (k : Nat)
  /-- PACE_WINDOW (R502). -/
  | paceWindow (counts : List PaceCount)
  /-- GOVERNOR_TICK (R505). -/
  | governorTick
  /-- SLOPE_CEILING_TICK (R510). -/
  | slopeCeilingTick
  /-- POWER_SAMPLE (R514). -/
  | powerSample (watts : Nat) (volts : Nat)
  /-- POWER_DECREASE_TICK (R514). -/
  | powerDecreaseTick
  /-- POWER_INCREASE_TICK (R514). -/
  | powerIncreaseTick
  /-- SENSOR_READ (R517). -/
  | sensorRead (junction : List Int) (hbm : List Int)
  /-- THERMAL_TRIP (R518). -/
  | thermalTrip (d : DomainId)
  /-- TRIP_RECOVERY (R518). -/
  | tripRecovery
  /-- CROSSING_TIMEOUT (R491). -/
  | crossingTimeout (x : Crossing)
  /-- PARTNER_DEAD (R492). -/
  | partnerDead (x : Crossing)
  /-- CAPABILITY (R544). -/
  | smbCapability
  /-- FAULT_SUMMARY (R545). -/
  | smbFaultSummary
  /-- IDENT (R544). -/
  | smbIdent
  /-- START (R544). -/
  | smbStart
  /-- TEMPERATURE (R544). -/
  | smbTemperature
  /-- POWER (R544). -/
  | smbPower
  /-- PACE (R544). -/
  | smbPace
  /-- REG_READ (R545). -/
  | smbRegRead (read : SmbRead)
  /-- SCL_LOW_TIMEOUT (R546). -/
  | sclLowTimeout
  /-- SDA_LOW_TIMEOUT (R546). -/
  | sdaLowTimeout
  /-- BUS_CLEAR (R546). -/
  | busClear (longLow : Bool)
  /-- IDCODE (R547). -/
  | idcode
  /-- SAMPLE_PRELOAD (R547). -/
  | samplePreload (data : Nat)
  /-- EXTEST (R548). -/
  | extest
  /-- HIGHZ (R548). -/
  | highz
  /-- CLAMP (R548). -/
  | clamp
  /-- DEBUG (R549). -/
  | jtagDebug (space : DebugSpace) (off : Nat)
  /-- BYPASS (R547). -/
  | bypass (code : Nat)
  /-- NARROWER_WRITE (R375). -/
  | narrowerWrite (off : Nat) (len : Nat) (v : Word)
  /-- LOW_POWER_WARNING (R320). -/
  | lowPowerWarning (p : PortId) (powers : LanePowers)
  /-- RESIZABLE_BAR (R373). -/
  | resizableBar (gib : Nat)
  /-- SMBUS_OTHER_CODE (R544). -/
  | smbusOtherCode (code : Nat)
  /-- TRST_ASSERT (R547). -/
  | trstAssert
  deriving DecidableEq, Repr

end Sys2Proof
end

