-- ==== Sys2Proof/Machine/Map.lean ====
section
/-! DEFINITION. Finite maps from numbers as rising association lists, memories in canonical form, and the
bit-field and byte-order helpers (R4, R5) that every family uses. -/

namespace Sys2Proof.Machine

/-- A finite map: (key, value) pairs, keys strictly rising. -/
abbrev SMap (α : Type) := List (Nat × α)

/-- The value at a key, if the map lists it. -/
def SMap.find? {α : Type} : SMap α → Nat → Option α
  | [], _ => none
  | (k, v) :: m, a => if a = k then some v else SMap.find? m a

/-- The value at a key, `d` where the map lists none. -/
def SMap.getD {α : Type} (m : SMap α) (a : Nat) (d : α) : α := (SMap.find? m a).getD d

/-- Sets a key, keeping the keys rising. -/
def SMap.put {α : Type} : SMap α → Nat → α → SMap α
  | [], a, x => [(a, x)]
  | (k, v) :: m, a, x =>
    if a < k then (a, x) :: (k, v) :: m
    else if a = k then (a, x) :: m
    else (k, v) :: SMap.put m a x

/-- Removes a key. -/
def SMap.del {α : Type} : SMap α → Nat → SMap α
  | [], _ => []
  | (k, v) :: m, a => if a = k then SMap.del m a else (k, v) :: SMap.del m a

/-- Changes the value at a key, starting from `d` where none is listed. -/
def SMap.upd {α : Type} (m : SMap α) (a : Nat) (d : α) (f : α → α) : SMap α :=
  SMap.put m a (f (SMap.getD m a d))

/-- Keys strictly rising. -/
def SMap.sorted {α : Type} : SMap α → Bool
  | [] => true
  | [_] => true
  | (k, _) :: (k', v') :: m => decide (k < k') && SMap.sorted ((k', v') :: m)

/-- Sets a word of a map whose absent words read 0, keeping zeros unlisted. -/
def SMap.setW (m : SMap W32) (a : Nat) (v : W32) : SMap W32 := if v = 0 then SMap.del m a else SMap.put m a v

/-- A byte memory: the listed bytes; an unlisted byte reads as the fill value of the memory. -/
abbrev Mem := List Host.Cell

/-- One byte of a memory whose unlisted bytes read as `fill`. -/
def Mem.getF (fill : Byte) (m : Mem) (a : Nat) : Byte := SMap.getD m a fill

/-- Writes one byte and keeps the canonical form: a byte equal to the fill is not listed. -/
def Mem.setF (fill : Byte) (m : Mem) (a : Nat) (b : Byte) : Mem :=
  if b = fill then SMap.del m a else SMap.put m a b

/-- The canonical form: addresses strictly rising and no listed byte equal to the fill. -/
def Mem.wfF (fill : Byte) (m : Mem) : Bool := SMap.sorted m && m.all (fun c => decide (c.2 ≠ fill))

/-- One byte of a memory that reads 0 where nothing is listed. -/
def Mem.get (m : Mem) (a : Nat) : Byte := Mem.getF 0 m a

/-- Writes one byte of such a memory. -/
def Mem.set (m : Mem) (a : Nat) (b : Byte) : Mem := Mem.setF 0 m a b

/-- The canonical form of such a memory. -/
def Memory.wf (m : Mem) : Bool := Mem.wfF 0 m

/-- `n` bytes from address `a`, lowest address first. -/
def Mem.bytes (m : Mem) (a n : Nat) : List Byte := (List.range n).map (fun i => Mem.get m (a + i))

/-- Writes bytes at rising addresses from `a`. -/
def Mem.putBytes (m : Mem) (a : Nat) : List Byte → Mem
  | [] => m
  | b :: bs => Mem.putBytes (Mem.set m a b) (a + 1) bs

/-- Bits [h:l] of a word, as a number (R4). -/
def bits (w h l : Nat) : Nat := (w >>> l) % 2 ^ (h + 1 - l)

/-- Bits [h:l] of a 64-bit word. -/
def Word.fld (w : Word) (h l : Nat) : Nat := bits w.toNat h l

/-- A 64-bit word with bits [h:l] replaced by the low bits of `v`. -/
def Word.putFld (w : Word) (h l v : Nat) : Word :=
  BitVec.ofNat 64 (w.toNat - Word.fld w h l * 2 ^ l + (v % 2 ^ (h + 1 - l)) * 2 ^ l)

/-- The number whose little-endian bytes are given (R5). -/
def leNat : List Byte → Nat
  | [] => 0
  | b :: bs => b.toNat + 256 * leNat bs

/-- `n` little-endian bytes of a number (R5). -/
def leBytes : Nat → Nat → List Byte
  | 0, _ => []
  | n + 1, v => BitVec.ofNat 8 v :: leBytes n (v / 256)

/-- A signed reading of the low `n` bits. -/
def sint (n v : Nat) : Int :=
  let m := v % 2 ^ n
  if 2 * m < 2 ^ n then (m : Int) else (m : Int) - 2 ^ n

/-- The low `n` bits of an integer in two's complement. -/
def ofInt (n : Nat) (x : Int) : Nat := (x % (2 ^ n : Int)).toNat

/-- Ceiling division. -/
def cdiv (a b : Nat) : Nat := (a + (b - 1)) / b

/-- `a` rounded up to a multiple of `b`. -/
def roundUp (a b : Nat) : Nat := cdiv a b * b

/-- A number cut to a range. -/
def clampInt (lo hi x : Int) : Int := if x < lo then lo else if hi < x then hi else x

/-- The elements of a list of words as bytes, each word little-endian (R5). -/
def wordsBytes (ws : List Word) : List Byte := ws.flatMap (fun w => leBytes 8 w.toNat)

/-- Bytes taken eight at a time as little-endian words; a short tail is padded with zeros. -/
def bytesWordsAux : Nat → List Byte → List Word
  | 0, _ => []
  | n + 1, bs => match bs with
    | [] => []
    | _ => BitVec.ofNat 64 (leNat (bs.take 8)) :: bytesWordsAux n (bs.drop 8)

/-- Bytes as little-endian words. -/
def bytesWords (bs : List Byte) : List Word := bytesWordsAux bs.length bs

/-- Bytes padded with zeros to a multiple of `k`. -/
def padTo (k : Nat) (bs : List Byte) : List Byte := bs ++ List.replicate (roundUp bs.length k - bs.length) 0

/-- Inserts into a list that rises under `lt`, after equal elements (a stable sort). -/
def insertBy {α : Type} (lt : α → α → Bool) (x : α) : List α → List α
  | [] => [x]
  | y :: ys => if lt x y then x :: y :: ys else y :: insertBy lt x ys

/-- A stable sort. -/
def sortBy {α : Type} (lt : α → α → Bool) (l : List α) : List α := l.foldl (fun acc x => insertBy lt x acc) []

/-- The list with its element at index `i` changed. -/
def modAt {α : Type} (l : List α) (i : Nat) (f : α → α) : List α :=
  match l, i with
  | [], _ => []
  | x :: xs, 0 => f x :: xs
  | x :: xs, i + 1 => x :: modAt xs i f

/-- The element at an index, `d` past the end. -/
def atD {α : Type} (l : List α) (i : Nat) (d : α) : α := (l[i]?).getD d

end Sys2Proof.Machine
end

