-- ==== Sys2Proof/Machine/Fec.lean ====
section
/-! DEFINITION. The coding of an optical lane (R306 to R308): PAM4 levels, the RS(544,514) code over GF(2^10), codewords of five
flits, alignment codewords, and the frame of a port. -/

namespace Sys2Proof.Machine

open Sys2Proof

/-! GF(2^10), with x^10 + x^3 + 1 and the root 2 (log entry 155). -/

/-- Twice an element. -/
def gfDouble (a : Nat) : Nat := if a < 512 then 2 * a else 2 * a ^^^ 1033

/-- The product, over the low `n` bits of the second factor. -/
def gfMulBits : Nat → Nat → Nat → Nat
  | 0, _, _ => 0
  | n + 1, a, b => (if b % 2 = 1 then a else 0) ^^^ gfMulBits n (gfDouble a) (b / 2)

/-- The product of two elements. -/
def gfMul (a b : Nat) : Nat := gfMulBits 10 a b

/-- Powers. -/
def gfPow (a : Nat) : Nat → Nat
  | 0 => 1
  | n + 1 => gfMul a (gfPow a n)

/-- The inverse of a nonzero element: its 1022nd power, from squares. -/
def gfInv (a : Nat) : Nat := ((List.range 9).foldl (fun (x : Nat × Nat) _ => let q := gfMul x.1 x.1; (q, gfMul x.2 q)) (a, 1)).2

/-- The power of the root with an exponent. -/
def gfRoot (e : Nat) : Nat := gfPow 2 (e % 1023)

/-- The value of a polynomial, its highest coefficient first. -/
def gfEval (l : List Nat) (x : Nat) : Nat := l.foldl (fun a c => gfMul a x ^^^ c) 0

/-- The product of a polynomial, its lowest coefficient first, and x + a. -/
def gfTimesRoot (l : List Nat) (a : Nat) : List Nat := (List.range (l.length + 1)).map (fun i =>
  (if i = 0 then 0 else atD l (i - 1) 0) ^^^ gfMul (atD l i 0) a)

/-! The code (R306): the generator has the roots 2^0 to 2^29, and the first symbol of a codeword has the highest power. -/

/-- The generator, its lowest coefficient first. -/
def rsGenerator : List Nat := (List.range 30).foldl (fun l j => gfTimesRoot l (gfRoot j)) [1]

/-- The low 30 coefficients of the generator times 1, 2, 4, ... 512, the lowest in the lowest ten bits. -/
def rsRows : List Nat :=
  [0x8fe282ece68a0011b235468f99448417ad07bd81eb9f7dcd69c5262305881fcb927880d0a0b,
   0x1dc595d9cc16402360638d1f22ad082f1a9f7b02d57eebbed2884cd60b103f9724f100a341f,
   0x3b8b2bb3982c8046c0c6187e455a105e352ed60da8fd575dad12d9ac12297f2e49e20044c3e,
   0x771647473959008d818c30bc1ab029bc2add8c1353fa3ebb5a25b348045bfe1c13e4098987c,
   0xee2c8e8a7bb2010b27186138b544527a553b3c26a7b4fd56bd4b26102cb6fe7827c812114f8,
   0xde599d34ff6642066e39c231fa88a4f4aa665c4c4d697a8d73960cb0596cfef0df9024229f0,
   0xbef32a4dfecc840cd87b8663753548eb545cb8989a92753ee62e5960b2d8ffe13f0448453e0,
   0x7fe6d4bffc9b480994f60ec67a6a90d4e8a955303764ea79c55cb2c161b9fdc2fe2c908a3c9,
   0xff8d397bf134d0030dec1d8ce4f529abd1d28e606e8954d78ab92512c372f9c5ec7d201679b,
   0xfd5a62d7eb69a0061bd83b19c9ea5255e3a518c9dd12a9ab1d704ab582edf1cbc8de402cb3f]

/-- The generator times a symbol: the rows of its bits, added. -/
def rsFold : List Nat → Nat → Nat → Nat
  | [], _, a => a
  | r :: rs, b, a => rsFold rs (b / 2) (if b % 2 = 1 then a ^^^ r else a)

/-- The remainder by the generator of a polynomial, its highest symbol first, as 30 packed symbols. -/
def rsRem (l : List Nat) : Nat := l.foldl (fun r c => rsFold rsRows (r / 2 ^ 290) (r % 2 ^ 290 * 1024 + c)) 0

/-- Ten-bit symbols of a number, the lowest first. -/
def symbols (n w : Nat) : List Nat := (List.range n).map (fun i => w / 1024 ^ i % 1024)

/-- Symbols as a number, the first lowest. -/
def symbolsNat : List Nat → Nat
  | [] => 0
  | x :: xs => x + 1024 * symbolsNat xs

/-- The codeword of 5,140 data bits: the data, then the parity symbols, the highest first. -/
def rsEncode (d : Nat) : Codeword :=
  let ds := symbols 514 d
  BitVec.ofNat 5440 (d % 2 ^ 5140 + symbolsNat (symbols 30 (rsRem (ds ++ List.replicate 30 0))).reverse * 2 ^ 5140)

/-! Decoding: syndromes, the error locator, its roots and the error values. -/

/-- What the search for the error locator holds: the present and the last polynomial, lowest coefficient first, the length, the
steps since the last change and the discrepancy then. -/
structure Locator where
  c : List Nat := [1]
  b : List Nat := [1]
  len : Nat := 0
  m : Nat := 1
  d : Nat := 1
  deriving DecidableEq, Repr

/-- The sum of two polynomials, the second scaled and shifted. -/
def gfAddShift (c b : List Nat) (k m : Nat) : List Nat :=
  (List.range (max c.length (b.length + m))).map (fun i => atD c i 0 ^^^ (if i < m then 0 else gfMul k (atD b (i - m) 0)))

/-- One syndrome more. -/
def Locator.next (x : Locator) (syn : List Nat) (n : Nat) : Locator :=
  let d := (List.range (x.len + 1)).foldl (fun a i => a ^^^ gfMul (atD x.c i 0) (atD syn (n - i) 0)) 0
  if d = 0 then { x with m := x.m + 1 }
  else
    let c := gfAddShift x.c x.b (gfMul d (gfInv x.d)) x.m
    if 2 * x.len ≤ n then { c := c, b := x.c, len := n + 1 - x.len, m := 1, d := d } else { x with c := c, m := x.m + 1 }

/-- The error locator of the syndromes. -/
def errorLocator (syn : List Nat) : Locator := (List.range syn.length).foldl (fun x n => x.next syn n) {}

/-- The error that the locator finds in the symbol of power `e`. -/
def errorAt (syn : List Nat) (loc : Locator) (e : Nat) : Nat :=
  let x := gfRoot (1023 - e % 1023)
  if gfEval loc.c.reverse x ≠ 0 then 0
  else
    let om := (List.range 30).map (fun i => (List.range (i + 1)).foldl (fun a j => a ^^^ gfMul (atD loc.c j 0) (atD syn (i - j) 0)) 0)
    let dv := (List.range loc.c.length).map (fun i => if i % 2 = 0 then atD loc.c (i + 1) 0 else 0)
    gfMul (gfRoot e) (gfMul (gfEval om.reverse x) (gfInv (gfEval dv.reverse x)))

/-- R306: the 5,140 data bits of a received codeword and the symbols corrected; none where more than 15 are wrong. -/
def rsDecode (w : Codeword) : Option (Nat × Nat) :=
  let l := symbols 544 w.toNat
  if rsRem l = 0 then some (w.toNat % 2 ^ 5140, 0)
  else
    let syn := (List.range 30).map (fun j => gfEval l (gfRoot j))
    let loc := errorLocator syn
    let es := if loc.len ≤ 15 then (List.range 544).map (fun i => errorAt syn loc (543 - i)) else []
    let fixed := l.zipWith (· ^^^ ·) es
    let n := (es.filter (fun x => decide (x ≠ 0))).length
    if fixed.length = 544 ∧ n ≤ 15 ∧ rsRem fixed = 0 then some (symbolsNat (fixed.take 514), n) else none

/-! PAM4 (R306, Table 11-4). -/

/-- The lower bit of every pair. -/
def pairMask : Nat := (2 ^ 5440 - 1) / 3

/-- The levels of a codeword, two bits each: level 0, 1, 2, 3 for the bit pairs 00, 01, 11, 10, the first bit first (log entry
155). -/
def toLevels (w : Codeword) : Codeword :=
  let a := w.toNat &&& pairMask
  let b := w.toNat / 2 &&& pairMask
  BitVec.ofNat 5440 (2 * a + (a ^^^ b))

/-- The codeword of received levels; the receiver mirrors the levels of a lane whose polarity is inverted (R320). -/
def ofLevels (mirrored : Bool) (v : Codeword) : Codeword :=
  let n := if mirrored then (~~~v).toNat else v.toNat
  let a := n / 2 &&& pairMask
  BitVec.ofNat 5440 (a + 2 * (a ^^^ (n &&& pairMask)))

/-! Codewords (R307, R308). -/

/-- The data of a codeword: its control field and five flits. -/
def codewordData (lane seq : Nat) (fs : List Flit) : Nat :=
  seq % 65536 * 16 + lane % 4 * 4 + ((List.range 5).map (fun k => (atD fs k 0).toNat * 2 ^ (20 + 1024 * k))).foldl (· + ·) 0

/-- Flit `k` of a codeword's data. -/
def codewordFlit (d k : Nat) : Flit := BitVec.ofNat 1024 (d / 2 ^ (20 + 1024 * k))

/-- R308: the levels of the four lanes of a slot that carries a port's 20-flit frame. -/
def frameLanes (seq : Nat) (fs : List Flit) : List Codeword :=
  (List.range 4).map (fun l => toLevels (rsEncode (codewordData l seq ((List.range 5).map (fun k => atD fs (4 * k + l) 0)))))

/-- The unit that an alignment codeword repeats: the pattern, the lane number in 2 bits, the port number in 4 and the codeword
sequence in 16 (log entry 156). -/
def alignUnit (lane port seq : Nat) : Nat := 0x1E9A53C60F2DB471 + lane % 4 * 2 ^ 64 + port % 16 * 2 ^ 66 + seq % 65536 * 2 ^ 70

/-- R307: the data of an alignment codeword. -/
def alignData (lane port seq : Nat) : Nat :=
  ((List.range 60).foldl (fun a i => a + alignUnit lane port seq * 2 ^ (86 * i)) 0) % 2 ^ 5140

/-- The levels of the four lanes of an alignment slot. -/
def alignLanes (port seq : Nat) : List Codeword := (List.range 4).map (fun l => toLevels (rsEncode (alignData l port seq)))

/-- The lane, port and sequence of a received alignment codeword. -/
def readAlign (w : Codeword) : Option (Nat × Nat × Nat) :=
  match rsDecode w with
  | none => none
  | some (d, _) =>
    let x := (bits d 65 64, bits d 69 66, bits d 85 70)
    if d = alignData x.1 x.2.1 x.2.2 then some x else none

/-- R308: lanes with these slots and sequences have no more than 16 slots of skew. -/
def deskews (l : List (Nat × Nat)) : Bool :=
  let late := l.map (fun x => (x.1 + 65536 - x.2 % 65536) % 65536)
  late.all (fun a => late.all (fun b => decide ((a + 65536 - b) % 65536 ≤ 16) || decide ((b + 65536 - a) % 65536 ≤ 16)))

end Sys2Proof.Machine
end

