-- ==== Sys2Proof/Machine/Crypto.lean ====
section
/-! DEFINITION. The checks and ciphers the spec takes from named standards: CRC-32C (R199, RFC 3720), the ChaCha20
block function of the Pennant stream (R154, RFC 8439 section 2.3), SHA-512 (R557, FIPS 180-4) and pure Ed25519
(R417, RFC 8032). PRESUMED: the standards' own texts are not in the spec (log entry 8). -/

namespace Sys2Proof.Machine

/-- One bit step of the reflected CRC-32C register: polynomial 0x1EDC6F41 reflected is 0x82F63B78. -/
def crcBit (c : Nat) : Nat := if c % 2 = 1 then (c / 2) ^^^ 0x82F63B78 else c / 2

/-- One byte into the CRC register. -/
def crcByte (c : Nat) (b : Byte) : Nat :=
  crcBit (crcBit (crcBit (crcBit (crcBit (crcBit (crcBit (crcBit (c ^^^ b.toNat))))))))

/-- CRC-32C over bytes: initial value all ones, final inversion (R199). -/
def crc32c (bs : List Byte) : Nat := (bs.foldl crcByte 0xFFFFFFFF) ^^^ 0xFFFFFFFF

/-- 32-bit addition on numbers. -/
def add32 (a b : Nat) : Nat := (a + b) % 0x100000000

/-- Rotation left of a 32-bit number. -/
def rotl32 (x n : Nat) : Nat := ((x <<< n) % 0x100000000) ||| (x >>> (32 - n))

/-- A quarter round on four words (RFC 8439 section 2.1). -/
def quarter (a b c d : Nat) : Nat × Nat × Nat × Nat :=
  let a := add32 a b; let d := rotl32 (d ^^^ a) 16
  let c := add32 c d; let b := rotl32 (b ^^^ c) 12
  let a := add32 a b; let d := rotl32 (d ^^^ a) 8
  let c := add32 c d; let b := rotl32 (b ^^^ c) 7
  (a, b, c, d)

/-- A quarter round on positions of the 16-word state. -/
def quarterAt (i j k l : Nat) (st : List Nat) : List Nat :=
  let (a, b, c, d) := quarter (atD st i 0) (atD st j 0) (atD st k 0) (atD st l 0)
  (((st.set i a).set j b).set k c).set l d

/-- A column round and a diagonal round. -/
def doubleRound (st : List Nat) : List Nat :=
  let st := quarterAt 0 4 8 12 st
  let st := quarterAt 1 5 9 13 st
  let st := quarterAt 2 6 10 14 st
  let st := quarterAt 3 7 11 15 st
  let st := quarterAt 0 5 10 15 st
  let st := quarterAt 1 6 11 12 st
  let st := quarterAt 2 7 8 13 st
  quarterAt 3 4 9 14 st

/-- Runs a function a number of times. -/
def iter {α : Type} (f : α → α) : Nat → α → α
  | 0, x => x
  | n + 1, x => iter f n (f x)

/-- The ChaCha20 block function: 20 rounds, then the input state added (R154). -/
def chacha20 (st : List Nat) : List Nat :=
  List.zipWith add32 (iter doubleRound 10 st) st

/-- 64-bit addition on numbers. -/
def add64 (a b : Nat) : Nat := (a + b) % 0x10000000000000000

/-- Rotation right of a 64-bit number. -/
def rotr64 (x n : Nat) : Nat := (x >>> n) ||| ((x <<< (64 - n)) % 0x10000000000000000)

/-- The 80 round constants of SHA-512. -/
def sha512K : List Nat :=
    [0x428a2f98d728ae22, 0x7137449123ef65cd, 0xb5c0fbcfec4d3b2f, 0xe9b5dba58189dbbc]
    ++ [0x3956c25bf348b538, 0x59f111f1b605d019, 0x923f82a4af194f9b, 0xab1c5ed5da6d8118]
    ++ [0xd807aa98a3030242, 0x12835b0145706fbe, 0x243185be4ee4b28c, 0x550c7dc3d5ffb4e2]
    ++ [0x72be5d74f27b896f, 0x80deb1fe3b1696b1, 0x9bdc06a725c71235, 0xc19bf174cf692694]
    ++ [0xe49b69c19ef14ad2, 0xefbe4786384f25e3, 0x0fc19dc68b8cd5b5, 0x240ca1cc77ac9c65]
    ++ [0x2de92c6f592b0275, 0x4a7484aa6ea6e483, 0x5cb0a9dcbd41fbd4, 0x76f988da831153b5]
    ++ [0x983e5152ee66dfab, 0xa831c66d2db43210, 0xb00327c898fb213f, 0xbf597fc7beef0ee4]
    ++ [0xc6e00bf33da88fc2, 0xd5a79147930aa725, 0x06ca6351e003826f, 0x142929670a0e6e70]
    ++ [0x27b70a8546d22ffc, 0x2e1b21385c26c926, 0x4d2c6dfc5ac42aed, 0x53380d139d95b3df]
    ++ [0x650a73548baf63de, 0x766a0abb3c77b2a8, 0x81c2c92e47edaee6, 0x92722c851482353b]
    ++ [0xa2bfe8a14cf10364, 0xa81a664bbc423001, 0xc24b8b70d0f89791, 0xc76c51a30654be30]
    ++ [0xd192e819d6ef5218, 0xd69906245565a910, 0xf40e35855771202a, 0x106aa07032bbd1b8]
    ++ [0x19a4c116b8d2d0c8, 0x1e376c085141ab53, 0x2748774cdf8eeb99, 0x34b0bcb5e19b48a8]
    ++ [0x391c0cb3c5c95a63, 0x4ed8aa4ae3418acb, 0x5b9cca4f7763e373, 0x682e6ff3d6b2b8a3]
    ++ [0x748f82ee5defb2fc, 0x78a5636f43172f60, 0x84c87814a1f0ab72, 0x8cc702081a6439ec]
    ++ [0x90befffa23631e28, 0xa4506cebde82bde9, 0xbef9a3f7b2c67915, 0xc67178f2e372532b]
    ++ [0xca273eceea26619c, 0xd186b8c721c0c207, 0xeada7dd6cde0eb1e, 0xf57d4f7fee6ed178]
    ++ [0x06f067aa72176fba, 0x0a637dc5a2c898a6, 0x113f9804bef90dae, 0x1b710b35131c471b]
    ++ [0x28db77f523047d84, 0x32caab7b40c72493, 0x3c9ebe0a15c9bebc, 0x431d67c49c100d4c]
    ++ [0x4cc5d4becb3e42b6, 0x597f299cfc657e2a, 0x5fcb6fab3ad6faec, 0x6c44198c4a475817]

/-- The initial hash value of SHA-512. -/
def sha512H : List Nat :=
    [0x6a09e667f3bcc908, 0xbb67ae8584caa73b, 0x3c6ef372fe94f82b, 0xa54ff53a5f1d36f1]
    ++ [0x510e527fade682d1, 0x9b05688c2b3e6c1f, 0x1f83d9abfb41bd6b, 0x5be0cd19137e2179]

/-- The next message-schedule word from the last sixteen, newest first. -/
def sha512Next (w : List Nat) : Nat :=
  let x := atD w 14 0
  let y := atD w 1 0
  let s0 := rotr64 x 1 ^^^ rotr64 x 8 ^^^ (x >>> 7)
  let s1 := rotr64 y 19 ^^^ rotr64 y 61 ^^^ (y >>> 6)
  add64 (add64 (atD w 15 0) s0) (add64 (atD w 6 0) s1)

/-- One round on the eight working variables. -/
def sha512Round (v : List Nat) (k w : Nat) : List Nat :=
  match v with
  | [a, b, c, d, e, f, g, h] =>
    let s1 := rotr64 e 14 ^^^ rotr64 e 18 ^^^ rotr64 e 41
    let ch := (e &&& f) ^^^ ((0xFFFFFFFFFFFFFFFF ^^^ e) &&& g)
    let t1 := add64 (add64 h s1) (add64 ch (add64 k w))
    let s0 := rotr64 a 28 ^^^ rotr64 a 34 ^^^ rotr64 a 39
    let mj := (a &&& b) ^^^ (a &&& c) ^^^ (b &&& c)
    [add64 t1 (add64 s0 mj), a, b, c, add64 d t1, e, f, g]
  | v => v

/-- The rounds over the schedule: `w` holds the last sixteen schedule words, newest first. -/
def sha512Rounds : List Nat → List Nat → List Nat → List Nat → List Nat
  | [], _, _, v => v
  | k :: ks, [], w, v =>
    let x := sha512Next w
    sha512Rounds ks [] (x :: w.take 15) (sha512Round v k x)
  | k :: ks, m :: ms, w, v => sha512Rounds ks ms (m :: w) (sha512Round v k m)

/-- A big-endian number. -/
def beNat (bs : List Byte) : Nat := bs.foldl (fun a b => a * 256 + b.toNat) 0

/-- `n` big-endian bytes of a number. -/
def beBytes (n v : Nat) : List Byte := (leBytes n v).reverse

/-- One 128-byte block into the hash value. -/
def sha512Block (h : List Nat) (blk : List Byte) : List Nat :=
  let ms := (List.range 16).map (fun i => beNat ((blk.drop (8 * i)).take 8))
  List.zipWith add64 h (sha512Rounds sha512K ms [] h)

/-- Blocks of 128 bytes, as many as the count. -/
def sha512Blocks : Nat → List Byte → List Nat → List Nat
  | 0, _, h => h
  | n + 1, bs, h => sha512Blocks n (bs.drop 128) (sha512Block h (bs.take 128))

/-- SHA-512 of a byte string: the 64-byte digest in its output order (R557). -/
def sha512 (bs : List Byte) : List Byte :=
  let zeros := (111 + 128 - bs.length % 128) % 128
  let m := bs ++ [0x80] ++ List.replicate zeros 0 ++ beBytes 16 (8 * bs.length)
  (sha512Blocks (m.length / 128) m sha512H).flatMap (beBytes 8)

/-! Ed25519 (RFC 8032 section 5.1) on numbers. -/

/-- The field prime. -/
def edP : Nat := 2 ^ 255 - 19

/-- The order of the base point. -/
def edL : Nat := 2 ^ 252 + 27742317777372353535851937790883648493

/-- Modular exponentiation by the bits of the exponent, `n` of them. -/
def powModAux (m : Nat) : Nat → Nat → Nat → Nat → Nat
  | 0, _, _, acc => acc
  | n + 1, b, e, acc => powModAux m n (b * b % m) (e / 2) (if e % 2 = 1 then acc * b % m else acc)

/-- `b ^ e mod m` for exponents below 2 ^ 256. -/
def powMod (b e m : Nat) : Nat := powModAux m 256 (b % m) e (1 % m)

/-- Inverse in the field. -/
def edInv (x : Nat) : Nat := powMod x (edP - 2) edP

/-- The curve constant d = -121665/121666. -/
def edD : Nat := (edP - 121665) * edInv 121666 % edP

/-- A square root of -1. -/
def edI : Nat := powMod 2 ((edP - 1) / 4) edP

/-- Subtraction in the field. -/
def edSub (a b : Nat) : Nat := (a + (edP - b % edP)) % edP

/-- Point addition in extended coordinates (X, Y, Z, T). -/
def edAdd (p q : Nat × Nat × Nat × Nat) : Nat × Nat × Nat × Nat :=
  let (x1, y1, z1, t1) := p
  let (x2, y2, z2, t2) := q
  let a := edSub y1 x1 * edSub y2 x2 % edP
  let b := (y1 + x1) * (y2 + x2) % edP
  let c := 2 * t1 % edP * t2 % edP * edD % edP
  let d := 2 * z1 * z2 % edP
  let e := edSub b a
  let f := edSub d c
  let g := (d + c) % edP
  let h := (b + a) % edP
  (e * f % edP, g * h % edP, f * g % edP, e * h % edP)

/-- Scalar multiplication by the bits of the scalar. -/
def edMulAux : Nat → Nat → Nat × Nat × Nat × Nat → Nat × Nat × Nat × Nat → Nat × Nat × Nat × Nat
  | 0, _, _, acc => acc
  | n + 1, k, p, acc => edMulAux n (k / 2) (edAdd p p) (if k % 2 = 1 then edAdd acc p else acc)

/-- `k` times a point. -/
def edMul (k : Nat) (p : Nat × Nat × Nat × Nat) : Nat × Nat × Nat × Nat := edMulAux 520 k p (0, 1, 1, 0)

/-- The x coordinate with the given sign for a y coordinate, if there is one. -/
def edRecoverX (y sign : Nat) : Option Nat :=
  let x2 := edSub (y * y % edP) 1 * edInv ((edD * (y * y % edP) + 1) % edP) % edP
  if edP ≤ y then none
  else if x2 = 0 then (if sign = 1 then none else some 0)
  else
    let r := powMod x2 ((edP + 3) / 8) edP
    let x := if r * r % edP = x2 then r else r * edI % edP
    if x * x % edP ≠ x2 then none
    else if x % 2 ≠ sign then some (edP - x) else some x

/-- The point a 32-byte string encodes, if it encodes one. -/
def edDecompress (bs : List Byte) : Option (Nat × Nat × Nat × Nat) :=
  let v := leNat bs
  let y := v % 2 ^ 255
  let sign := v / 2 ^ 255 % 2
  if bs.length ≠ 32 then none
  else (edRecoverX y sign).map (fun x => (x, y, 1, x * y % edP))

/-- The 32-byte encoding of a point. -/
def edCompress (p : Nat × Nat × Nat × Nat) : List Byte :=
  let (x, y, z, _) := p
  let zi := edInv z
  let x := x * zi % edP
  let y := y * zi % edP
  leBytes 32 (y + (x % 2) * 2 ^ 255)

/-- The base point. -/
def edB : Nat × Nat × Nat × Nat :=
  let y := 4 * edInv 5 % edP
  let x := (edRecoverX y 0).getD 0
  (x, y, 1, x * y % edP)

/-- Equality of two points in extended coordinates. -/
def edEq (p q : Nat × Nat × Nat × Nat) : Bool :=
  decide (edSub (p.1 * q.2.2.1 % edP) (q.1 * p.2.2.1 % edP) = 0) &&
  decide (edSub (p.2.1 * q.2.2.1 % edP) (q.2.1 * p.2.2.1 % edP) = 0)

/-- The clamped secret scalar of a seed. -/
def edScalar (h : List Byte) : Nat :=
  let v := leNat (h.take 32)
  v % 2 ^ 254 / 8 * 8 + 2 ^ 254

/-- A pure Ed25519 signature under a seed. -/
def edSign (seed msg : List Byte) : List Byte :=
  let h := sha512 seed
  let a := edScalar h
  let pub := edCompress (edMul a edB)
  let r := leNat (sha512 (h.drop 32 ++ msg)) % edL
  let rs := edCompress (edMul r edB)
  let k := leNat (sha512 (rs ++ pub ++ msg)) % edL
  rs ++ leBytes 32 ((r + k * a) % edL)

/-- Verification of a pure Ed25519 signature (R417). -/
def edVerify (pub msg sig : List Byte) : Bool :=
  match edDecompress pub, edDecompress (sig.take 32) with
  | some a, some r =>
    let sv := leNat (sig.drop 32)
    let k := leNat (sha512 (sig.take 32 ++ pub ++ msg)) % edL
    decide (sig.length = 64) && decide (sv < edL) && edEq (edMul sv edB) (edAdd r (edMul k a))
  | _, _ => false

end Sys2Proof.Machine
end

