-- ==== Sys2Proof/Machine/Flags.lean ====
section
/-! DEFINITION. The exception events of R127 and R146 as counts, and their sums. An operation on one element answers
its result together with the events that element raised; the units add them to their counters. -/

namespace Sys2Proof.Machine

/-- Counts of the exception events that a piece of work raised (R127, R146, Table 4-9). -/
structure Flags where
  invalid : Nat := 0
  divzero : Nat := 0
  overflow : Nat := 0
  underflow : Nat := 0
  intSat : Nat := 0
  cvtSat : Nat := 0
  deriving DecidableEq, Repr

/-- No event. -/
def Flags.zero : Flags := {}

/-- The sum of two counts. -/
def Flags.add (a b : Flags) : Flags :=
  { invalid := a.invalid + b.invalid, divzero := a.divzero + b.divzero, overflow := a.overflow + b.overflow,
    underflow := a.underflow + b.underflow, intSat := a.intSat + b.intSat, cvtSat := a.cvtSat + b.cvtSat }

/-- The events of one lane: a lane is flagged once for each kind (Table 4-9, DEDUCED, log entry 26). -/
def Flags.lane (a : Flags) : Flags :=
  { invalid := min a.invalid 1, divzero := min a.divzero 1, overflow := min a.overflow 1, underflow := min a.underflow 1,
    intSat := min a.intSat 1, cvtSat := min a.cvtSat 1 }

/-- The sum of a list of counts. -/
def Flags.sum (l : List Flags) : Flags := l.foldl Flags.add Flags.zero

/-- The VE_STATUS bits that the events set (Table 4-10): INVALID 1, DIVZERO 2, OVERFLOW 3, UNDERFLOW 4,
INT_SAT 5, CVT_SAT 6. -/
def Flags.statusBits (f : Flags) : Nat :=
  (if f.invalid = 0 then 0 else 2) + (if f.divzero = 0 then 0 else 4) + (if f.overflow = 0 then 0 else 8) +
  (if f.underflow = 0 then 0 else 16) + (if f.intSat = 0 then 0 else 32) + (if f.cvtSat = 0 then 0 else 64)

end Sys2Proof.Machine
end

