-- ==== Sys2Proof/Machine/Formats.lean ====
section
/-! DEFINITION. The number formats of Table 5-1, the exact value of every code (R131), and the conversion procedure of
R145 with the results of Tables 5-4 and 5-5. A finite value is a sign, a natural significand and a power of two, so
nothing is rounded before the one rounding the rules name. -/

namespace Sys2Proof.Machine

/-- The exact value of a code: NaN, an infinity, or (-1)^neg * m * 2^e (R131). -/
inductive FV where
  | nan
  | inf (neg : Bool)
  | fin (neg : Bool) (m : Nat) (e : Int)
  deriving DecidableEq, Repr

/-- The element formats of Table 4-3. -/
inductive Fmt where
  | fp32 | bf16 | fp16 | e4m3 | e5m2 | int32 | int16 | int8 | uint8 | mask1 | bi32 | sb8 | sb4
  deriving DecidableEq, Repr

/-- Table 4-3: the format of a code; 13 to 15 are reserved. -/
def fmtOfCode : Nat → Option Fmt
  | 0 => some .fp32 | 1 => some .bf16 | 2 => some .fp16 | 3 => some .e4m3 | 4 => some .e5m2 | 5 => some .int32
  | 6 => some .int16 | 7 => some .int8 | 8 => some .uint8 | 9 => some .mask1 | 10 => some .bi32 | 11 => some .sb8
  | 12 => some .sb4 | _ => none

/-- Twice the element size in bytes, so that SB4's half byte is 1 (Table 4-3); MASK1 elements are addressed by words. -/
def Fmt.size2 : Fmt → Nat
  | .fp32 | .int32 | .bi32 => 8
  | .bf16 | .fp16 | .int16 => 4
  | .e4m3 | .e5m2 | .int8 | .uint8 | .sb8 => 2
  | .sb4 => 1
  | .mask1 => 0

/-- The integer formats of Table 4-3. -/
def Fmt.isInt : Fmt → Bool
  | .int32 | .int16 | .int8 | .uint8 => true
  | _ => false

/-- The floating formats that an operand may hold (codes 0-4). -/
def Fmt.isFloat : Fmt → Bool
  | .fp32 | .bf16 | .fp16 | .e4m3 | .e5m2 => true
  | _ => false

/-- A binary code with `eb` exponent bits, `mb` mantissa bits and a bias; `special` says that the all-ones exponent
encodes infinities and NaNs (R131). -/
def decodeBin (eb mb : Nat) (bias : Int) (special : Bool) (code : Nat) : FV :=
  let neg := decide (code / 2 ^ (eb + mb) % 2 = 1)
  let ex := code / 2 ^ mb % 2 ^ eb
  let ma := code % 2 ^ mb
  if special && decide (ex = 2 ^ eb - 1) then (if ma = 0 then .inf neg else .nan)
  else if ex = 0 then .fin neg ma (1 - bias - mb)
  else .fin neg (2 ^ mb + ma) (ex - bias - mb)

/-- FP32 (Table 5-1). -/
def dec32 (c : W32) : FV := decodeBin 8 23 127 true c.toNat

/-- E4M3: only the magnitude code 0x7F is NaN and there is no infinity (R131). -/
def decE4M3 (code : Nat) : FV := if code % 128 = 127 then .nan else decodeBin 4 3 7 false code

/-- The value of a 4- or 8-bit SB element code before its scale; `none` for the escape code (R131, R139). -/
def decSBElem (f : Fmt) (code : Nat) : Option FV :=
  match f with
  | .sb8 => if code % 128 = 127 then none else some (decodeBin 3 4 7 false code)
  | _ => if code % 8 = 7 then none else some (decodeBin 2 1 1 false code)

/-- The exact value of an element of one of the formats 0-8 (R131; integers by value, UINT8 unsigned). -/
def decElem (f : Fmt) (code : Nat) : FV :=
  match f with
  | .fp32 => decodeBin 8 23 127 true code
  | .bf16 => decodeBin 8 7 127 true code
  | .fp16 => decodeBin 5 10 15 true code
  | .e4m3 => decE4M3 code
  | .e5m2 => decodeBin 5 2 15 true code
  | .int32 => let x := sint 32 code; .fin (decide (x < 0)) x.natAbs 0
  | .int16 => let x := sint 16 code; .fin (decide (x < 0)) x.natAbs 0
  | .int8 => let x := sint 8 code; .fin (decide (x < 0)) x.natAbs 0
  | .uint8 => .fin false (code % 256) 0
  | _ => .fin false 0 0

/-- The rounding mode of R145: to nearest with ties to even, or stochastic with the element's 24-bit Pennant value. -/
inductive RMode where
  | nearest
  | stochastic (u : Nat)
  deriving DecidableEq, Repr

/-- floor(log2 a) of a value m * 2^e with m not 0. -/
def ilog2 (m : Nat) (e : Int) : Int := (Nat.log2 m : Int) + e

/-- R145: the significand kept at weight 2^q of the value m * 2^e, rounded once. -/
def roundAt (mode : RMode) (m : Nat) (e q : Int) : Nat :=
  if q ≤ e then m * 2 ^ (e - q).toNat
  else
    let sh := (q - e).toNat
    let k := m / 2 ^ sh
    let r := m % 2 ^ sh
    match mode with
    | .nearest =>
      if 2 * r > 2 ^ sh || (decide (2 * r = 2 ^ sh) && decide (k % 2 = 1)) then k + 1 else k
    | .stochastic u => if r * 2 ^ 24 / 2 ^ sh + u ≥ 2 ^ 24 then k + 1 else k

/-- Rounding parameters of Table 5-3: significand bits, least exponent, and the largest value as m * 2^e. -/
structure RParam where
  p : Nat
  emin : Int
  maxM : Nat
  maxE : Int
  eb : Nat
  deriving DecidableEq, Repr

/-- Table 5-3, with the exponent bits of Table 5-1. -/
def rparam : Fmt → RParam
  | .bf16 => ⟨8, -126, 255, 120, 8⟩
  | .fp16 => ⟨11, -14, 2047, 5, 5⟩
  | .e4m3 => ⟨4, -6, 14, 5, 4⟩
  | .e5m2 => ⟨3, -14, 7, 13, 5⟩
  | .sb8 => ⟨5, -6, 30, -4, 3⟩
  | .sb4 => ⟨2, 0, 2, 1, 2⟩
  | _ => ⟨24, -126, 16777215, 104, 8⟩

/-- Comparison of m1 * 2^e1 with m2 * 2^e2. -/
def magLt (m1 : Nat) (e1 : Int) (m2 : Nat) (e2 : Int) : Bool :=
  let e := min e1 e2
  decide (m1 * 2 ^ (e1 - e).toNat < m2 * 2 ^ (e2 - e).toNat)

/-- The code of sign and magnitude k * 2^q for a format, k at most 2^p (R145, last line). -/
def encodeMag (r : RParam) (neg : Bool) (k : Nat) (q : Int) : Nat :=
  let (k, q) := if k = 2 ^ r.p then (k / 2, q + 1) else (k, q)
  let s := if neg then 2 ^ (r.eb + r.p - 1) else 0
  if k < 2 ^ (r.p - 1) then s + k
  else s + ((q + (r.p - 1) - r.emin + 1).toNat) * 2 ^ (r.p - 1) + (k - 2 ^ (r.p - 1))

/-- What a rounding of a finite value gives before Tables 5-4 and 5-5 apply. -/
inductive Rounded where
  | code (c : Nat) (underflow : Bool)
  | beyond (neg : Bool)
  deriving DecidableEq, Repr

/-- R145 on a finite value for a floating or SB element format. -/
def roundFin (r : RParam) (mode : RMode) (neg : Bool) (m : Nat) (e : Int) : Rounded :=
  if m = 0 then .code (encodeMag r neg 0 0) false
  else
    let q := max (ilog2 m e) r.emin - ((r.p : Int) - 1)
    let k := roundAt mode m e q
    if magLt r.maxM r.maxE k q then .beyond neg
    else .code (encodeMag r neg k q) (magLt k q 1 r.emin)

/-- The canonical NaN that the module writes (Table 5-1). -/
def nanCode : Fmt → Nat
  | .bf16 => 0x7FC0 | .fp16 => 0x7E00 | .e4m3 => 0x7F | .e5m2 => 0x7E | _ => 0x7FC00000

/-- The infinity code of a floating format (Table 5-1); E4M3 has none. -/
def infCode (f : Fmt) (neg : Bool) : Nat :=
  match f with
  | .bf16 => if neg then 0xFF80 else 0x7F80
  | .fp16 => if neg then 0xFC00 else 0x7C00
  | .e5m2 => if neg then 0xFC else 0x7C
  | _ => if neg then 0xFF800000 else 0x7F800000

/-- Table 5-4: the result beyond the largest code of a floating format. -/
def beyondResult (f : Fmt) (e5m2Ovf : Bool) (neg : Bool) : Nat × Flags :=
  match f with
  | .e4m3 => (if neg then 0xFE else 0x7E, { cvtSat := 1 })
  | .e5m2 => if e5m2Ovf then (infCode .e5m2 neg, { overflow := 1 }) else (if neg then 0xFB else 0x7B, { cvtSat := 1 })
  | f => (infCode f neg, { overflow := 1 })

/-- Conversion to a floating format of codes 0-4 (R145-R148, Tables 5-4 and 5-5). -/
def convFloat (f : Fmt) (e5m2Ovf : Bool) (mode : RMode) (x : FV) : Nat × Flags :=
  match x with
  | .nan => (nanCode f, Flags.zero)
  | .inf neg =>
    match f with
    | .e4m3 => (0x7F, { cvtSat := 1 })
    | f => (infCode f neg, Flags.zero)
  | .fin neg m e =>
    match roundFin (rparam f) mode neg m e with
    | .beyond neg => beyondResult f e5m2Ovf neg
    | .code c uf => (c, if uf && decide (m ≠ 0) then { underflow := 1 } else Flags.zero)

/-- The least and largest integer of an integer format. -/
def intRange : Fmt → Int × Int
  | .int32 => (-2147483648, 2147483647)
  | .int16 => (-32768, 32767)
  | .int8 => (-128, 127)
  | _ => (0, 255)

/-- Twice-bytes width of an integer format in bits. -/
def intBits (f : Fmt) : Nat := f.size2 * 4

/-- R145 with q = 0: a finite value rounded to an integer. -/
def roundInt (mode : RMode) (neg : Bool) (m : Nat) (e : Int) : Int :=
  let k := roundAt mode m e 0
  if neg then -(k : Int) else k

/-- Conversion to an integer format (R145, Tables 5-4 and 5-5). -/
def convInt (f : Fmt) (mode : RMode) (x : FV) : Nat × Flags :=
  let (lo, hi) := intRange f
  match x with
  | .nan => (0, { invalid := 1 })
  | .inf neg => (ofInt (intBits f) (if neg then lo else hi), { cvtSat := 1 })
  | .fin neg m e =>
    let v := roundInt mode neg m e
    let c := clampInt lo hi v
    (ofInt (intBits f) c, if c = v then Flags.zero else { cvtSat := 1 })

/-- Conversion of an exact value to one of the formats 0-8 (R125, R145). -/
def convElem (f : Fmt) (e5m2Ovf : Bool) (mode : RMode) (x : FV) : Nat × Flags :=
  if f.isInt then convInt f mode x else convFloat f e5m2Ovf mode x

/-- The nearest FP32 code of an exact value, with the events of R127 except INVALID and DIVZERO. -/
def rn32 (x : FV) : W32 × Flags :=
  let (c, f) := convFloat .fp32 false .nearest x
  (BitVec.ofNat 32 c, f)

/-- Widening of an element to FP32 under R149: exact for floating formats, NaN payloads kept for FP32 and BF16. -/
def widen32 (f : Fmt) (code : Nat) : W32 :=
  match f with
  | .fp32 => BitVec.ofNat 32 code
  | .bf16 => BitVec.ofNat 32 (code * 65536)
  | f => (rn32 (decElem f code)).1

/-- The value of an element times a power of two. -/
def FV.scale (x : FV) (k : Int) : FV :=
  match x with
  | .fin s m e => .fin s m (e + k)
  | x => x

/-! Scaled-block formats (R132-R139, R150). -/

/-- Elements of a block in its data bytes (R132). -/
def sbCodes (f : Fmt) (bs : List Byte) : List Nat :=
  match f with
  | .sb8 => bs.map BitVec.toNat
  | _ => bs.flatMap (fun b => [b.toNat % 16, b.toNat / 16])

/-- The data bytes of a block's element codes (R132). -/
def sbPack (f : Fmt) (cs : List Nat) : List Byte :=
  match f with
  | .sb8 => cs.map (BitVec.ofNat 8)
  | _ => (List.range (cs.length / 2)).map (fun i => BitVec.ofNat 8 (atD cs (2 * i) 0 % 16 + 16 * (atD cs (2 * i + 1) 0 % 16)))

/-- The escape code test of R131 and R139. -/
def sbIsEsc (f : Fmt) (code : Nat) : Bool :=
  match f with
  | .sb8 => decide (code % 128 = 127)
  | _ => decide (code % 8 = 7)

/-- The scale word of Table 5-2. -/
def scaleWord (escCount sideFirst ser scale : Nat) : Nat :=
  escCount * 2 ^ 20 + sideFirst * 2 ^ 16 + ser * 2 ^ 8 + scale

/-- The checks of R138 on a scale word against the expected serial and the block's data. -/
def scaleOk (f : Fmt) (w expect : Nat) (codes : List Nat) : Bool :=
  decide (bits w 13 8 = expect % 64) && decide (bits w 31 24 = 0) && decide (bits w 15 14 = 0) &&
  decide (bits w 19 16 + bits w 23 20 ≤ 8) && decide (bits w 23 20 = (codes.filter (sbIsEsc f)).length)

/-- R133, R136, R149: the exact values of a block under a scale word that passed its checks; `side` is the group's side list. -/
def sbDecode (f : Fmt) (w : Nat) (side : List Nat) (codes : List Nat) : List FV :=
  let c := bits w 7 0
  let step := fun (st : Nat × List FV) (code : Nat) =>
    let (next, acc) := st
    if sbIsEsc f code then
      (next + 1, (if c = 255 then FV.nan else dec32 (BitVec.ofNat 32 (atD side next 0))) :: acc)
    else
      let v := if c = 255 then FV.nan else ((decSBElem f code).getD (.fin false 0 0)).scale ((c : Int) - 127)
      (next, v :: acc)
  (codes.foldl step (bits w 19 16, [])).2.reverse

/-- The state of an SB encoding: the side entries the group has filled so far (R150, R151). -/
structure SBEnc where
  codes : List Nat := []
  esc : Nat := 0
  side : List Nat := []
  lost : Bool := false
  flags : Flags := {}
  deriving DecidableEq, Repr

/-- The scale code that R150 finds for a block. -/
def sbScale (f : Fmt) (xs : List FV) : Nat :=
  let t : Int := match f with | .sb8 => 0 | _ => 1
  let best := xs.foldl (fun (acc : Option (Nat × Int)) x =>
    match x with
    | .fin _ m e => if m = 0 then acc else
        match acc with
        | none => some (m, e)
        | some (m', e') => if magLt m' e' m e then some (m, e) else acc
    | _ => acc) none
  match best with
  | none => 127
  | some (m, e) => (max (ilog2 m e - t + 127) 0).toNat

/-- R150 on one element of sign `sign`: its FP32 widening is kept when it escapes. -/
def sbEncElem (f : Fmt) (c : Nat) (st : SBEnc) (x : FV) (wide : Nat) (sign : Bool) (mode : RMode) : SBEnc :=
  let r := rparam f
  let neg := match x with | .fin s _ _ => s | .inf s => s | .nan => sign
  let signBit := match f with | .sb8 => if neg then 128 else 0 | _ => if neg then 8 else 0
  let escCode := match f with | .sb8 => 127 | _ => 7
  match x with
  | .fin s m e =>
    match roundFin r mode s m (e - ((c : Int) - 127)) with
    | .code k _ =>
      let above := match f with
        | .sb8 => false
        | _ => decide (c = 253) && decide (k % 8 = 6)
      if above then
        if st.side.length < 8 then { st with codes := escCode :: st.codes, esc := st.esc + 1, side := st.side ++ [wide] }
        else { st with codes := (signBit + 5) :: st.codes, flags := st.flags.add { cvtSat := 1 } }
      else
        let z := match f with | .sb8 => k % 128 | _ => k % 8
        let fl : Flags := if decide (z = 0) && decide (m ≠ 0) then { underflow := 1 } else {}
        { st with codes := k :: st.codes, flags := st.flags.add fl }
    | .beyond _ =>
      if st.side.length < 8 then { st with codes := escCode :: st.codes, esc := st.esc + 1, side := st.side ++ [wide] }
      else
        let top := match f with | .sb8 => 0x7E | _ => if c = 253 then 5 else 6
        { st with codes := (signBit + top) :: st.codes, flags := st.flags.add { cvtSat := 1 } }
  | _ =>
    if st.side.length < 8 then { st with codes := escCode :: st.codes, esc := st.esc + 1, side := st.side ++ [wide] }
    else { st with codes := signBit :: st.codes, lost := true, flags := st.flags.add { cvtSat := 1 } }

/-- R150: one block. `side` holds the group's entries so far; the answer is the element codes, the scale word, the new
side entries and the events. `xs` gives each element's exact value, FP32 widening, sign and rounding mode. -/
def sbEncode (f : Fmt) (ser : Nat) (side : List Nat) (xs : List (FV × Nat × Bool × RMode)) : List Nat × Nat × List Nat × Flags :=
  let c := sbScale f (xs.map (·.1))
  let st := xs.foldl (fun st x => sbEncElem f c st x.1 x.2.1 x.2.2.1 x.2.2.2) { side := side : SBEnc }
  let c' := if st.lost then 255 else c
  (st.codes.reverse, scaleWord st.esc side.length (ser % 64) c', st.side, st.flags)

/-! Block-integer formats (R140-R144, R152). -/

/-- R152: a contribution at an agreed exponent, rounded to an integer. -/
def toBI (mode : RMode) (ex : Int) (x : FV) : Int :=
  match x with
  | .fin neg m e => roundInt mode neg m (e + (18 - ex))
  | _ => 0

/-- R175: a total at weight 2^(E-18) converted to FP32. -/
def fromBI (mode : RMode) (ex : Int) (t : Int) : W32 × Flags :=
  let (c, f) := convFloat .fp32 false mode (.fin (decide (t < 0)) t.natAbs (ex - 18))
  if t = 0 then (0, Flags.zero) else (BitVec.ofNat 32 c, f)

/-- The exponent an exponent word holds, if its fields are legal (R142, R143): `none` for a bad word. -/
def expWord (w expect : Nat) : Option Int :=
  let e := sint 16 w
  if bits w 31 22 ≠ 0 || bits w 21 16 ≠ expect % 64 then none
  else if e = 0x7FFF || (decide (-150 ≤ e) && decide (e ≤ 127)) then some e else none

/-- R169: the code of a module's largest magnitude in a block. -/
def maxCode (xs : List FV) : Nat :=
  xs.foldl (fun acc x => max acc (match x with
    | .fin _ m e => if m = 0 then 0 else (ilog2 m e + 151).toNat
    | _ => 0xFFFF)) 0

/-- R169: the exponent a code stands for. -/
def decodeMaxCode (c : Nat) : Int := if c = 0 then -150 else if c = 0xFFFF then 0x7FFF else (c : Int) - 151

end Sys2Proof.Machine
end

