-- ==== Sys2Proof/Machine/Float.lean ====
section
/-! DEFINITION. FP32 arithmetic as R88, R116, R117 and Table 4-4 state it: every result is the correctly rounded value
of the exact one, ties to even, nothing is flushed, and a NaN result is 0x7FC0_0000. The elementary functions are
evaluated in fixed point with 320 fraction bits and an error bound, and rounded. -/

namespace Sys2Proof.Machine

/-- The canonical NaN (R89, R117). -/
def qnan : W32 := 0x7FC00000

/-- An infinity. -/
def inf32 (neg : Bool) : W32 := if neg then 0xFF800000 else 0x7F800000

/-- A zero. -/
def zero32 (neg : Bool) : W32 := if neg then 0x80000000 else 0

/-- 1.0 -/
def one32 : W32 := 0x3F800000

/-- The code is a NaN. -/
def isNan32 (c : W32) : Bool := decide (dec32 c = .nan)

/-- The code is an infinity. -/
def isInf32 (c : W32) : Bool := decide (c.toNat % 2 ^ 31 = 0x7F800000)

/-- The code is finite. -/
def isFin32 (c : W32) : Bool := decide (c.toNat % 2 ^ 31 < 0x7F800000)

/-- The signed significand of a finite value at weight 2^e0. -/
def scaledInt (neg : Bool) (m : Nat) (e e0 : Int) : Int :=
  let k := m * 2 ^ (e - e0).toNat
  if neg then -(k : Int) else k

/-- The exact sum of two values as a value; a NaN marks an invalid sum (R89). An exact zero sum takes the IEEE sign. -/
def addFV (a b : FV) : FV :=
  match a, b with
  | .nan, _ => .nan
  | _, .nan => .nan
  | .inf s, .inf t => if s = t then .inf s else .nan
  | .inf s, _ => .inf s
  | _, .inf t => .inf t
  | .fin s m e, .fin t n f =>
    let e0 := min e f
    let x := scaledInt s m e e0 + scaledInt t n f e0
    if x = 0 then .fin (if decide (m = 0) && decide (n = 0) then s && t else false) 0 0
    else .fin (decide (x < 0)) x.natAbs e0

/-- The exact product. -/
def mulFV (a b : FV) : FV :=
  match a, b with
  | .nan, _ => .nan
  | _, .nan => .nan
  | .inf s, .inf t => .inf (s != t)
  | .inf s, .fin t n _ => if n = 0 then .nan else .inf (s != t)
  | .fin s m _, .inf t => if m = 0 then .nan else .inf (s != t)
  | .fin s m e, .fin t n f => .fin (s != t) (m * n) (e + f)

/-- The value is a NaN. -/
def FV.isNan : FV → Bool
  | .nan => true
  | _ => false

/-- The value is finite. -/
def FV.isFin : FV → Bool
  | .fin _ _ _ => true
  | _ => false

/-- Negation. -/
def FV.neg : FV → FV
  | .nan => .nan
  | .inf s => .inf (!s)
  | .fin s m e => .fin (!s) m e

/-- The result of an operation on inputs: INVALID is a NaN made from non-NaN inputs, OVERFLOW an infinity from finite ones (R127). -/
def finish (ins : List FV) (x : FV) : W32 × Flags :=
  let (c, f) := rn32 x
  if x.isNan then (qnan, if ins.all (fun i => !i.isNan) then { invalid := 1 } else Flags.zero)
  else if ins.all FV.isFin then (c, f) else (c, { f with overflow := 0 })

/-- fusedMultiplyAdd on exact values: one rounding (R88). -/
def fmaFV (a b c : FV) : W32 × Flags := finish [a, b, c] (addFV (mulFV a b) c)

/-- fma32 of R88. -/
def fma32 (a b c : W32) : W32 × Flags := fmaFV (dec32 a) (dec32 b) (dec32 c)

/-- X + Z -/
def fadd (a b : W32) : W32 × Flags := finish [dec32 a, dec32 b] (addFV (dec32 a) (dec32 b))

/-- X - Z -/
def fsub (a b : W32) : W32 × Flags := finish [dec32 a, dec32 b] (addFV (dec32 a) (dec32 b).neg)

/-- X * Z -/
def fmul (a b : W32) : W32 × Flags := finish [dec32 a, dec32 b] (mulFV (dec32 a) (dec32 b))

/-- The quotient of two positive significands with a sticky bit: enough bits that one rounding of it is the rounding of
the exact quotient. -/
def divSticky (m : Nat) (e : Int) (n : Nat) (f : Int) : Nat × Int :=
  let s := 128 + Nat.log2 n
  let q := m * 2 ^ s / n
  let r := m * 2 ^ s % n
  (2 * q + (if r = 0 then 0 else 1), e - f - s - 1)

/-- X / Z, correctly rounded; a finite non-zero X over a zero sets DIVZERO (Table 4-4; log entries 27, 149). -/
def fdiv (a b : W32) : W32 × Flags :=
  match dec32 a, dec32 b with
  | .nan, _ => (qnan, Flags.zero)
  | _, .nan => (qnan, Flags.zero)
  | .inf _, .inf _ => (qnan, { invalid := 1 })
  | .inf s, .fin t n _ => (inf32 (s != t), if n = 0 then { divzero := 1 } else Flags.zero)
  | .fin s _ _, .inf t => (zero32 (s != t), Flags.zero)
  | .fin s m e, .fin t n f =>
    if n = 0 then (if m = 0 then (qnan, { invalid := 1, divzero := 1 }) else (inf32 (s != t), { divzero := 1, overflow := 1 }))
    else if m = 0 then (zero32 (s != t), Flags.zero)
    else let (q, g) := divSticky m e n f; rn32 (.fin (s != t) q g)

/-- The integer square root by its bits, from bit `n - 1` down. -/
def isqrtAux (x : Nat) : Nat → Nat → Nat
  | 0, r => r
  | n + 1, r => isqrtAux x n (if (r + 2 ^ n) * (r + 2 ^ n) ≤ x then r + 2 ^ n else r)

/-- floor(sqrt x) -/
def isqrt (x : Nat) : Nat := isqrtAux x (Nat.log2 x / 2 + 1) 0

/-- A positive value as m * 2^e with e even and m at least 2^256. -/
def evenScale (m : Nat) (e : Int) : Nat × Int :=
  let s : Nat := 256
  if (e - s) % 2 = 0 then (m * 2 ^ s, e - s) else (m * 2 ^ (s + 1), e - s - 1)

/-- The square root of a positive value with a sticky bit. -/
def sqrtSticky (m : Nat) (e : Int) : Nat × Int :=
  let (x, f) := evenScale m e
  let r := isqrt x
  (2 * r + (if r * r = x then 0 else 1), f / 2 - 1)

/-- The square root of X, correctly rounded (Table 4-4). -/
def fsqrt (a : W32) : W32 × Flags :=
  match dec32 a with
  | .nan => (qnan, Flags.zero)
  | .inf s => if s then (qnan, { invalid := 1 }) else (a, Flags.zero)
  | .fin s m e =>
    if m = 0 then (a, Flags.zero)
    else if s then (qnan, { invalid := 1 })
    else let (r, g) := sqrtSticky m e; rn32 (.fin false r g)

/-- 1 over the square root of X, correctly rounded (Table 4-4); of a zero it counts OVERFLOW too (log entry 149). -/
def frsqrt (a : W32) : W32 × Flags :=
  match dec32 a with
  | .nan => (qnan, Flags.zero)
  | .inf s => if s then (qnan, { invalid := 1 }) else (0, Flags.zero)
  | .fin s m e =>
    if m = 0 then (inf32 s, { divzero := 1, overflow := 1 })
    else if s then (qnan, { invalid := 1 })
    else
      let (x, f) := if e % 2 = 0 then (m, e) else (2 * m, e - 1)
      let t := 2 ^ 512 / x
      let r := isqrt t
      let exact := decide (r * r * x = 2 ^ 512)
      rn32 (.fin false (2 * r + (if exact then 0 else 1)) (-256 - f / 2 - 1))

/-- The order of two codes that are not NaN: the sign of X - Z, with -0 equal to +0. -/
def cmpFV (a b : FV) : Ordering :=
  match a, b with
  | .inf s, .inf t => if s = t then .eq else if s then .lt else .gt
  | .inf s, _ => if s then .lt else .gt
  | _, .inf t => if t then .gt else .lt
  | .fin s m e, .fin t n f =>
    let e0 := min e f
    compare (scaledInt s m e e0) (scaledInt t n f e0)
  | _, _ => .eq

/-- A selected operand as a rounded result: a subnormal counts as an underflow (R116, R127). -/
def selected (a : W32) : W32 × Flags := (a, (rn32 (dec32 a)).2)

/-- The IEEE 754-2019 minimum: NaN propagates, -0 < +0. -/
def fmin (a b : W32) : W32 × Flags :=
  if isNan32 a || isNan32 b then (qnan, Flags.zero)
  else match cmpFV (dec32 a) (dec32 b) with
    | .lt => selected a
    | .gt => selected b
    | .eq => selected (if a.toNat / 2 ^ 31 = 1 then a else b)

/-- The IEEE 754-2019 maximum. -/
def fmax (a b : W32) : W32 × Flags :=
  if isNan32 a || isNan32 b then (qnan, Flags.zero)
  else match cmpFV (dec32 a) (dec32 b) with
    | .gt => selected a
    | .lt => selected b
    | .eq => selected (if a.toNat / 2 ^ 31 = 1 then b else a)

/-- ABS: the sign bit cleared, payloads kept (R117). -/
def fabs (a : W32) : W32 × Flags := (a &&& 0x7FFFFFFF, Flags.zero)

/-- NEG: the sign bit inverted, payloads kept (R117). -/
def fneg (a : W32) : W32 × Flags := (a ^^^ 0x80000000, Flags.zero)

/-- ReLU of R117. -/
def frelu (a : W32) : W32 × Flags :=
  if isNan32 a then (qnan, Flags.zero)
  else if a.toNat / 2 ^ 31 = 1 || decide (a.toNat = 0) then (0, Flags.zero) else (a, Flags.zero)

/-! The elementary functions. A real is held as an integer number of units of 2^-320. -/

/-- Fraction bits of the fixed-point reals. -/
def fxBits : Nat := 320

/-- floor(ln 2 * 2^320). -/
def fxLn2 : Nat := 1480553391661173448385607439722553250922680800745876974795605978609098082859138712941075737848984

/-- The Taylor sum of e^r for 0 <= r < 1 in units of 2^-320: `n` more terms, the current term, the next index. -/
def fxExpAux (r : Nat) : Nat → Nat → Nat → Nat → Nat
  | 0, _, _, acc => acc
  | n + 1, t, k, acc => fxExpAux r n (t * r / 2 ^ fxBits / k) (k + 1) (acc + t)

/-- e^x for x in units of 2^-320, as a significand near 2^320 and the binary exponent of its unit; the error is below
2^16 units. -/
def fxExp (x : Int) : Nat × Int :=
  let n := x / (fxLn2 : Int)
  let r := (x % (fxLn2 : Int)).toNat
  (fxExpAux r 100 (2 ^ fxBits) 1 0, n - fxBits)

/-- 2 * atanh(a / b) for 0 <= a/b <= 0.2 in units of 2^-320. -/
def fxAtanhAux (z2 : Nat) : Nat → Nat → Nat → Nat → Nat
  | 0, _, _, acc => acc
  | n + 1, t, k, acc => fxAtanhAux z2 n (t * z2 / 2 ^ fxBits) (k + 2) (acc + t / k)

/-- The natural logarithm of a positive value in units of 2^-320, with an error below 2^16 units. -/
def fxLog (m : Nat) (e : Int) : Int :=
  let l := Nat.log2 m
  -- m * 2^e = c * 2^k with c in [0.75, 1.5), c = a / b
  let k0 : Int := (l : Int) + e
  let high := decide (2 * m ≥ 3 * 2 ^ l)
  let k := if high then k0 + 1 else k0
  let a := m
  let b := if high then 2 ^ (l + 1) else 2 ^ l
  let neg := decide (a < b)
  let num := if neg then b - a else a - b
  let z := num * 2 ^ fxBits / (a + b)
  let z2 := z * z / 2 ^ fxBits
  let s := 2 * fxAtanhAux z2 80 z 1 0
  k * (fxLn2 : Int) + (if neg then -(s : Int) else s)

/-- A value at a fixed-point significand: the nearest FP32 code of anything within the error bound of it. The two ends of
the bound round alike unless the exact value lies within 2^-280 of a tie, which no FP32 argument of these functions gives
(DEDUCED, log entry 9). -/
def rnNear (neg : Bool) (m : Nat) (e : Int) : W32 × Flags := rn32 (.fin neg (2 * m + 1) (e - 1))

/-- The exact value of a finite code in units of 2^-320; FP32 needs no more than 149 fraction bits. -/
def toFx (neg : Bool) (m : Nat) (e : Int) : Int :=
  let k := if 0 ≤ e + fxBits then m * 2 ^ (e + fxBits).toNat else 0
  if neg then -(k : Int) else k

/-- EXP: e^X, correctly rounded. -/
def fexp (a : W32) : W32 × Flags :=
  match dec32 a with
  | .nan => (qnan, Flags.zero)
  | .inf s => (if s then 0 else a, Flags.zero)
  | .fin s m e =>
    if m = 0 then (one32, Flags.zero)
    else if magLt 128 0 m e then (if s then (0, { underflow := 1 }) else (inf32 false, { overflow := 1 }))
    else let (k, q) := fxExp (toFx s m e); rnNear false k q

/-- LOG: ln X, correctly rounded; of a zero it counts OVERFLOW too (log entry 149). -/
def flog (a : W32) : W32 × Flags :=
  match dec32 a with
  | .nan => (qnan, Flags.zero)
  | .inf s => if s then (qnan, { invalid := 1 }) else (a, Flags.zero)
  | .fin s m e =>
    if m = 0 then (inf32 true, { divzero := 1, overflow := 1 })
    else if s then (qnan, { invalid := 1 })
    else if a = one32 then (0, Flags.zero)
    else let x := fxLog m e; rnNear (decide (x < 0)) x.natAbs (-fxBits)

/-- The quotient of two fixed-point numbers as a significand with 320 more bits. -/
def fxDiv (n d : Nat) (e : Int) : W32 × Flags := rnNear false (n * 2 ^ fxBits / d) (e - fxBits)

/-- e^(-x) for x at least 0 and at most 220, in units of 2^-640. -/
def fxExpNeg (x : Int) : Nat :=
  let (k, q) := fxExp (-x)
  k * 2 ^ (q + 2 * fxBits).toNat

/-- SIGMOID: 1/(1 + e^-X), correctly rounded. -/
def fsigmoid (a : W32) : W32 × Flags :=
  match dec32 a with
  | .nan => (qnan, Flags.zero)
  | .inf s => (if s then 0 else one32, Flags.zero)
  | .fin s m e =>
    if m = 0 then (0x3F000000, Flags.zero)
    else if magLt 200 0 m e then (if s then (0, { underflow := 1 }) else (one32, Flags.zero))
    else
      let t := fxExpNeg (toFx false m e)
      let one := 2 ^ (2 * fxBits)
      if s then fxDiv t (one + t) 0 else fxDiv one (one + t) 0

/-- TANH: tanh X, correctly rounded. -/
def ftanh (a : W32) : W32 × Flags :=
  match dec32 a with
  | .nan => (qnan, Flags.zero)
  | .inf s => (one32 ||| zero32 s, Flags.zero)
  | .fin s m e =>
    if m = 0 then (a, Flags.zero)
    else if magLt 100 0 m e then (one32 ||| zero32 s, Flags.zero)
    else
      let t := fxExpNeg (2 * toFx false m e)
      let one := 2 ^ (2 * fxBits)
      let (c, f) := fxDiv (one - t) (one + t) 0
      (c ||| zero32 s, f)

/-- Powers of a value below one, truncated to 512 bits where they grow longer. -/
def powTrunc : Nat → Nat × Int → Nat → Nat × Int → Nat × Int
  | 0, _, _, acc => acc
  | n + 1, b, k, acc =>
    let tr := fun (x : Nat × Int) =>
      let l := Nat.log2 x.1
      if l > 600 then (x.1 / 2 ^ (l - 512), x.2 + ((l - 512 : Nat) : Int)) else x
    let sq := tr (b.1 * b.1, 2 * b.2)
    powTrunc n sq (k / 2) (if k % 2 = 1 then tr (acc.1 * b.1, acc.2 + b.2) else acc)

/-- cr32(1 - beta^c) for beta in [0, 1) and c up to 2^24 (R238, R268). -/
def cr32OneMinusPow (beta : W32) (c : Nat) : W32 :=
  match dec32 beta with
  | .fin _ m e =>
    if m = 0 then one32
    else
      let (p, q) := powTrunc 25 (m, e) c (1, 0)
      let q' := max q (-4096)
      let p' := if q < -4096 then p / 2 ^ (-4096 - q).toNat else p
      let d := 2 ^ (-q').toNat - p'
      (rn32 (.fin false (2 * d + (if q < -4096 then 1 else 0)) (q' - 1))).1
  | _ => qnan

/-! Signed integer lanes and small helpers. -/

/-- FP32 values folded by addition in order (R205). -/
def foldAdd : List W32 → W32 → W32
  | [], acc => acc
  | x :: xs, acc => foldAdd xs (fadd acc x).1

end Sys2Proof.Machine
end

