-- ==== Sys2Proof/Machine/CoreTypes.lean ====
section
/-! DEFINITION. The plain-data types of one core: step-table entries and descriptors, the dispatch state of a job slot,
the entries a unit runs, the accumulator tiles and the tile queue (Cores and step tables, Matrix arrays). -/

namespace Sys2Proof.Machine

/-- A step-table entry, field by field (Table 2-2). -/
structure Entry where
  unit : Nat := 0
  op : Nat := 0
  dv : Bool := false
  desc : Nat := 0
  waitA : Nat := 0
  waitB : Nat := 0
  sigA : Nat := 0
  sigB : Nat := 0
  phase : Nat := 0
  next : Bool := false
  imm : Nat := 0
  oper : Nat := 0
  deriving DecidableEq, Repr

/-- One loop in progress (R58, R59): its body's first entry and the entry after it, its count and its iteration. -/
structure LoopFrame where
  start : Nat := 0
  stop : Nat := 0
  count : Nat := 0
  index : Nat := 0
  mb : Bool := false
  deriving DecidableEq, Repr

/-- A dispatched entry: its table number, the loop indices innermost first, the flattened iteration of R124, the
microbatch index where a microbatch loop encloses it (R59), its descriptor words, the step it belongs to (R46) and its
place in the slot's dispatch order. -/
structure QEntry where
  num : Nat := 0
  entry : Entry := {}
  idx : List Nat := []
  flat : Nat := 0
  mb : Option Nat := none
  desc : List Nat := []
  step : Nat := 0
  seq : Nat := 0
  deriving DecidableEq, Repr

/-- A byte range of a core store held by an executing entry (R44). -/
structure CsRange where
  core : Nat := 0
  lo : Nat := 0
  hi : Nat := 0
  write : Bool := false
  deriving DecidableEq, Repr

/-- An entry that has started and not completed (R48), with the ranges it holds (R44) and its beats (R74).
`beats` are those not yet counted as busy. `dead` says that it never completes (R86, R126); `drain` names the tile whose drain it waits for (R93), and
`final` says that a pass that drains has its result final in the accumulator (R97). -/
structure RunEntry where
  slot : Nat := 0
  q : QEntry := {}
  beats : Nat := 0
  dead : Bool := false
  drain : Option Nat := none
  final : Bool := false
  ranges : List CsRange := []
  quad : Bool := false
  deriving DecidableEq, Repr

/-- One unit of a core: the entries started and not completed, oldest first, the beat counts P and F of R74, the slot
served last, the filler slot whose chunk runs, and the filler slot suspended (R75). -/
structure UnitState where
  running : List RunEntry := []
  primaryBeats : Nat := 0
  fillerBeats : Nat := 0
  lastSlot : Nat := 0
  chunk : Option Nat := none
  suspended : List Nat := []
  deriving DecidableEq, Repr

/-- What a core holds for one job slot: its regions of the step-table memory (R45), the dispatch position, loop stack
and prologue mode (R51, R58), the step of the iteration in dispatch, the token counters T0-T31 (R52) and the dispatch
queue of each unit (R47). -/
structure CoreSlot where
  loaded : Bool := false
  entryLine : Nat := 0
  entryLines : Nat := 0
  descLine : Nat := 0
  descLines : Nat := 0
  pc : Nat := 0
  loops : List LoopFrame := []
  prologue : Bool := false
  iter : Nat := 0
  dispatched : Nat := 0
  tokens : SMap Nat := []
  queues : SMap (List QEntry) := []
  deriving DecidableEq, Repr

/-- A matrix array: accumulator tiles (element 1024*t + 32*i + j; absent is +0), parity marks (Table 16-1) and the
tiles whose drain is pending or in progress, in the order their drains were requested (R92, R93). -/
structure ArrayState where
  tiles : SMap W32 := []
  parity : List Nat := []
  drains : List Nat := []
  deriving DecidableEq, Repr

/-- One tile-queue entry: its producer (0 or 1), the job slot, the phase, NEXT and step of the entry that drained it, whether an
element's parity fails (Table 16-1), and its 1,024 elements in row order (R70, R92). -/
structure TileEntry where
  producer : Nat := 0
  slot : Nat := 0
  phase : Nat := 0
  next : Bool := false
  step : Nat := 0
  bad : Bool := false
  data : List W32 := []
  deriving DecidableEq, Repr

/-- A core store or other SECDED memory: bytes, and per 64-bit word whether it holds a correctable (false) or an
uncorrectable (true) error (R558, Table 16-1). -/
structure EccMem where
  bytes : Mem := []
  err : SMap Bool := []
  deriving DecidableEq, Repr

end Sys2Proof.Machine
end

