-- ==== Sys2Proof/Machine/Operands.lean ====
section
/-! DEFINITION. Operand forms of step-table entries: the fields of entries and descriptors (Tables 2-2, 2-6, 3-2, 3-3,
4-1, 4-2), the address advance of R60, the element reads and writes over a SECDED memory (R114, R558) and the Pennant
words of R153 and R154. -/

namespace Sys2Proof.Machine

/-- The distinct numbers of a list, rising. -/
def distinctUp (l : List Nat) : List Nat := (l.foldl (fun m x => SMap.put m x ()) ([] : SMap Unit)).map (·.1)

/-! Reads and writes of a SECDED memory. -/

/-- `n` bytes from an address. -/
def EccMem.read (m : EccMem) (a n : Nat) : List Byte := Mem.bytes m.bytes a n

/-- A little-endian number of `n` bytes (R5). -/
def EccMem.num (m : EccMem) (a n : Nat) : Nat := leNat (m.read a n)

/-- Whether a byte range holds an uncorrectable word, the read fault of R114 and Table 16-1. -/
def EccMem.bad (m : EccMem) (a n : Nat) : Bool :=
  m.err.any (fun e => e.2 && decide (e.1 < (a + n + 7) / 8) && decide (a / 8 ≤ e.1) && decide (0 < n))

/-- The address of the first uncorrectable word in the 64-byte lines of a list of ranges, which an error record names
(Table 16-3); `d` where there is none. -/
def EccMem.badAt (m : EccMem) (rs : List (Nat × Nat)) (d : Nat) : Nat :=
  match List.find? (fun (e : Nat × Bool) => e.2 && rs.any (fun r => decide (0 < r.2) && decide (e.1 / 8 < (r.1 + r.2 + 63) / 64) && decide (r.1 / 64 ≤ e.1 / 8))) m.err with
  | some e => 8 * e.1
  | none => d

/-- R558 on one 64-bit word: `full` says that the write covers the whole word. -/
def EccMem.writeWord (m : EccMem) (a : Nat) (bs : List Byte) : EccMem × Bool :=
  let w := a / 8
  if bs.length = 8 then ({ bytes := Mem.putBytes m.bytes a bs, err := SMap.del m.err w }, false)
  else
    match SMap.find? m.err w with
    | some true => (m, true)
    | _ => ({ bytes := Mem.putBytes m.bytes a bs, err := SMap.del m.err w }, false)

/-- R558 on a run of bytes, word by word; the answer says whether a partial write met an uncorrectable word. -/
def EccMem.writeAux : Nat → EccMem → Nat → List Byte → EccMem × Bool
  | 0, m, _, _ => (m, false)
  | n + 1, m, a, bs =>
    if bs.isEmpty then (m, false)
    else
      let k := min (8 - a % 8) bs.length
      let r := m.writeWord a (bs.take k)
      let r' := EccMem.writeAux n r.1 (a + k) (bs.drop k)
      (r'.1, r.2 || r'.2)

/-- R558 on a run of bytes. -/
def EccMem.write (m : EccMem) (a : Nat) (bs : List Byte) : EccMem × Bool := EccMem.writeAux (bs.length + 1) m a bs

/-- Writes a number as `n` little-endian bytes. -/
def EccMem.putNum (m : EccMem) (a n v : Nat) : EccMem × Bool := m.write a (leBytes n v)

/-- Element `c` of a row at address `a` of elements of half-size `h` (R108; SB4 elements are half bytes, R132). -/
def EccMem.elem (m : EccMem) (h a c : Nat) : Nat :=
  if h = 1 then ((Mem.get m.bytes (a + c / 2)).toNat / 16 ^ (c % 2)) % 16 else m.num (a + c * (h / 2)) (h / 2)

/-- Writes element `c` of a row. -/
def EccMem.putElem (m : EccMem) (h a c v : Nat) : EccMem × Bool :=
  if h = 1 then
    let old := (Mem.get m.bytes (a + c / 2)).toNat
    m.write (a + c / 2) [BitVec.ofNat 8 (if c % 2 = 0 then old / 16 * 16 + v % 16 else old % 16 + v % 16 * 16)]
  else m.putNum (a + c * (h / 2)) (h / 2) v

/-! Step-table entries. -/

/-- A token field of Table 2-2: the token it names when it is enabled. -/
def tokenOf (f : Nat) : Option Nat := if f / 32 = 1 then some (f % 32) else none

/-- Table 2-2: the fields of the 128 bits of an entry. -/
def decodeEntry (w : Nat) : Entry :=
  { unit := bits w 127 124, op := bits w 123 116, dv := decide (bits w 115 115 = 1), desc := bits w 114 105,
    waitA := bits w 104 99, waitB := bits w 98 93, sigA := bits w 92 87, sigB := bits w 86 81,
    phase := bits w 80 77, next := decide (bits w 76 76 = 1), imm := bits w 75 64, oper := bits w 63 0 }

/-- Table 2-2: the 128 bits of an entry. -/
def encodeEntry (e : Entry) : Nat :=
  e.unit * 2 ^ 124 + e.op * 2 ^ 116 + (if e.dv then 2 ^ 115 else 0) + e.desc * 2 ^ 105 + e.waitA * 2 ^ 99 +
  e.waitB * 2 ^ 93 + e.sigA * 2 ^ 87 + e.sigB * 2 ^ 81 + e.phase * 2 ^ 77 + (if e.next then 2 ^ 76 else 0) +
  e.imm * 2 ^ 64 + e.oper

/-- R60: stride s[o][j] of a descriptor's advance table. -/
def stride (desc : List Nat) (o j : Nat) : Int :=
  sint 32 (atD desc (4 + 2 * o + j / 2) 0 / 2 ^ (32 * (j % 2)))

/-- R60: the advance of operand `o` at the loop indices, innermost first. -/
def advance (q : QEntry) (o : Nat) : Int :=
  if q.entry.dv then
    ((List.range 4).map (fun j => stride q.desc o j * ((atD q.idx j 0 : Nat) : Int))).foldl (· + ·) 0
  else 0

/-- R60: the effective byte address of operand `o`. -/
def operAddr (q : QEntry) (o base : Nat) : Nat := ((base : Int) + advance q o).toNat

/-- Word `i` of an entry's descriptor. -/
def dword (q : QEntry) (i : Nat) : Nat := atD q.desc i 0

/-! The skew mover (Table 2-6). -/

/-- Twice the element size in bytes of an ESIZE code (Table 2-6). -/
def skHalf (esize : Nat) : Nat := 2 ^ esize

/-- Element (r, c) of the logical matrix (R65), read from a source memory. -/
def skElem (src : EccMem) (q : QEntry) (r c : Nat) : Nat :=
  let w2 := dword q 2
  let h := skHalf (bits w2 2 0)
  let base := operAddr q 0 (bits (dword q 0) 47 0)
  let pitch := bits (dword q 3) 31 0
  if bits w2 7 7 = 1 then src.elem h (base + c * pitch) r else src.elem h (base + r * pitch) c

/-- R66: the element of lane `i` of vector `t`, 0 where no rule fills the lane. -/
def skLane (src : EccMem) (q : QEntry) (t i : Nat) : Nat :=
  let w2 := dword q 2
  let rows := bits w2 31 16 + 1
  let cols := bits w2 47 32 + 1
  match bits w2 6 3 with
  | 1 => if i < rows && decide (i ≤ t) && decide (t - i < cols) then skElem src q i (t - i) else 0
  | 2 => if i < cols && decide (i ≤ t) && decide (t - i < rows) then skElem src q (t - i) i else 0
  | 3 => if i < rows && decide (i % 16 ≤ t) && decide (t - i % 16 < cols) then skElem src q i (t - i % 16) else 0
  | 4 => if i < cols && decide (i % 16 ≤ t) && decide (t - i % 16 < rows) then skElem src q (t - i % 16) i else 0
  | _ => 0

/-- Elements of half-size `h` packed into bytes. -/
def packElems (h : Nat) (es : List Nat) : List Byte :=
  if h = 1 then
    (List.range ((es.length + 1) / 2)).map (fun i => BitVec.ofNat 8 (atD es (2 * i) 0 % 16 + 16 * (atD es (2 * i + 1) 0 % 16)))
  else es.flatMap (fun e => leBytes (h / 2) e)

/-- R66: vectors that a skewed layout writes. -/
def skVectors (q : QEntry) : Nat :=
  let w2 := dword q 2
  let rows := bits w2 31 16 + 1
  let cols := bits w2 47 32 + 1
  match bits w2 6 3 with
  | 1 => cols + 31
  | 2 => rows + 31
  | 3 => cols + 15
  | 4 => rows + 15
  | _ => 0

/-- R65, R66: what a move writes, as (destination address, elements): one row each for LAYOUT 0, one vector of 32
lanes each for a skewed layout. -/
def skWrites (src : EccMem) (q : QEntry) : List (Nat × List Nat) :=
  let w2 := dword q 2
  let h := skHalf (bits w2 2 0)
  let base := operAddr q 1 (bits (dword q 1) 47 0)
  if bits w2 6 3 = 0 then
    (List.range (bits w2 31 16 + 1)).map (fun r =>
      (base + r * bits (dword q 3) 63 32, (List.range (bits w2 47 32 + 1)).map (fun c => skElem src q r c)))
  else
    (List.range (skVectors q)).map (fun t => (base + t * (16 * h), (List.range 32).map (fun i => skLane src q t i)))

/-- Writes the rows or vectors of a move; a row of half-byte elements leaves the other half of its last byte alone. -/
def skStore (h : Nat) (dst : EccMem) (ws : List (Nat × List Nat)) : EccMem × Bool :=
  ws.foldl (fun acc w =>
    let r := if h = 1 && decide (w.2.length % 2 = 1) then
        let r1 := acc.1.write w.1 (packElems h w.2.dropLast)
        let r2 := r1.1.putElem h w.1 (w.2.length - 1) (w.2.getLastD 0)
        (r2.1, r1.2 || r2.2)
      else acc.1.write w.1 (packElems h w.2)
    (r.1, acc.2 || r.2)) (dst, false)

/-- Bytes of one source row that a move reads, and how many such rows: (address, length) pairs (R65). -/
def skReadRows (q : QEntry) : List (Nat × Nat) :=
  let w2 := dword q 2
  let h := skHalf (bits w2 2 0)
  let base := operAddr q 0 (bits (dword q 0) 47 0)
  let pitch := bits (dword q 3) 31 0
  let (n, len) := if bits w2 7 7 = 1 then (bits w2 47 32 + 1, bits w2 31 16 + 1) else (bits w2 31 16 + 1, bits w2 47 32 + 1)
  (List.range n).map (fun r => (base + r * pitch, (len * h + 1) / 2))

/-- Byte ranges that a move writes. -/
def skWriteRows (q : QEntry) : List (Nat × Nat) :=
  let w2 := dword q 2
  let h := skHalf (bits w2 2 0)
  let base := operAddr q 1 (bits (dword q 1) 47 0)
  if bits w2 6 3 = 0 then
    (List.range (bits w2 31 16 + 1)).map (fun r => (base + r * bits (dword q 3) 63 32, ((bits w2 47 32 + 1) * h + 1) / 2))
  else [(base, skVectors q * (16 * h))]

/-! The Pennant stream (R153, R154). -/

/-- The job seed's word `i` (s0 to s7), the seed being 256 bits, s0 lowest. -/
def seedWord (seed i : Nat) : Nat := bits seed (32 * i + 31) (32 * i)

/-- R154: the 16-word input state of an element's key. -/
def pennantState (seed step tid mb idx : Nat) : List Nat :=
  [0x61707865, 0x3320646E, 0x79622D32, 0x6B206574] ++ (List.range 7).map (seedWord seed) ++
  [seedWord seed 7 ^^^ bits step 63 52, bits idx 35 4, bits step 31 0,
   bits step 47 32 + bits tid 15 0 * 65536,
   bits mb 23 0 + bits idx 39 36 * 2 ^ 24 + bits step 51 48 * 2 ^ 28]

/-- R154: the Pennant word of an element. -/
def pennantWord (seed step tid mb idx : Nat) : Nat := atD (chacha20 (pennantState seed step tid mb idx)) (idx % 16) 0

/-- R154: the 24-bit value u of R145. -/
def pennantU (seed step tid mb idx : Nat) : Nat := bits (pennantWord seed step tid mb idx) 31 8

/-- The microbatch index of a conversion outside the microbatch loop (R153). -/
def noMicrobatch : Nat := 0xFFFFFF

end Sys2Proof.Machine
end

