-- ==== Sys2Proof/Machine/ArrayData.lean ====
section
/-! DEFINITION. The data path of a matrix array: the operand vectors of R83, the scale words of R85, the arithmetic of
R88 and R89, and the beats of R96 to R98 (Matrix arrays). -/

namespace Sys2Proof.Machine

/-- Table 3-4: the format of a code, 6 and 7 being reserved. -/
def maFmt : Nat → Fmt
  | 0 => .e4m3 | 1 => .e5m2 | 2 => .sb8 | 3 => .sb4 | 4 => .bf16 | _ => .fp16

/-- Table 3-4: beats per reduction index. -/
def maBeats : Fmt → Nat
  | .bf16 | .fp16 => 2
  | _ => 1

/-- Whether a format is a scaled-block format. -/
def Fmt.isSB : Fmt → Bool
  | .sb8 | .sb4 => true
  | _ => false

/-- The fields of a PASS entry that the data path uses (Tables 3-2, 3-3), at their advanced addresses. -/
structure PassIn where
  k : Nat := 0
  fmtA : Fmt := .bf16
  fmtB : Fmt := .bf16
  n : Nat := 32
  m : Nat := 32
  quad : Bool := false
  qen : Nat := 0
  init : Nat := 0
  acc : Nat := 0
  drain : Bool := false
  aBase : Nat := 0
  bBase : Nat := 0
  cAddr : Nat := 0
  aScale : Nat := 0
  bScale : Nat := 0
  aOrigin : Nat := 0
  bOrigin : Nat := 0
  aSide : Nat := 0
  bSide : Nat := 0
  aSer : Nat := 0
  bSer : Nat := 0
  deriving DecidableEq, Repr

/-- R80: the advance of a scale stream whose four signed 16-bit strides stand in a descriptor word. -/
def scaleAdvance (w : Nat) (idx : List Nat) : Int :=
  ((List.range 4).map (fun j => sint 16 (w / 2 ^ (16 * j)) * ((atD idx j 0 : Nat) : Int))).foldl (· + ·) 0

/-- Tables 3-2 and 3-3: the operand fields of a dispatched PASS. -/
def passIn (q : QEntry) : PassIn :=
  let o := q.entry.oper
  let w0 := dword q 0
  let w1 := dword q 1
  { k := q.entry.imm, fmtA := maFmt (bits q.entry.op 5 3), fmtB := maFmt (bits q.entry.op 2 0),
    n := bits o 62 58 + 1, m := bits o 57 53 + 1, quad := decide (bits o 48 48 = 1), qen := bits o 52 49,
    init := bits o 46 45, acc := bits o 44 42, drain := decide (bits o 47 47 = 1),
    aBase := operAddr q 0 (bits o 20 0), bBase := operAddr q 1 (bits o 41 21), cAddr := bits w0 62 42,
    aOrigin := bits w0 20 0, bOrigin := bits w1 20 0,
    aScale := ((bits w0 20 0 : Int) + scaleAdvance (dword q 2) q.idx).toNat,
    bScale := ((bits w1 20 0 : Int) + scaleAdvance (dword q 3) q.idx).toNat,
    aSide := bits w0 41 21, bSide := bits w1 41 21, aSer := bits w1 47 42, bSer := bits w1 53 48 }

/-- R97: beats per reduction index of the pass. -/
def PassIn.r (p : PassIn) : Nat := max (maBeats p.fmtA) (maBeats p.fmtB)

/-- One operand of a pass: its format, its vector base and its scale stream. -/
structure Feed where
  fmt : Fmt := .bf16
  base : Nat := 0
  scale : Nat := 0
  origin : Nat := 0
  side : Nat := 0
  ser : Nat := 0
  quad : Bool := false
  deriving DecidableEq, Repr

/-- The A feeder of a pass. -/
def PassIn.feedA (p : PassIn) : Feed :=
  { fmt := p.fmtA, base := p.aBase, scale := p.aScale, origin := p.aOrigin, side := p.aSide, ser := p.aSer, quad := p.quad }

/-- The B feeder of a pass. -/
def PassIn.feedB (p : PassIn) : Feed :=
  { fmt := p.fmtB, base := p.bBase, scale := p.bScale, origin := p.bOrigin, side := p.bSide, ser := p.bSer, quad := p.quad }

/-- R66, R83: the vector in which lane `l` carries reduction index `k`. -/
def Feed.vec (f : Feed) (l k : Nat) : Nat := if f.quad then k + l % 16 else k + l

/-- R83: the element code that lane `l` feeds for reduction index `k`. -/
def Feed.code (cs : EccMem) (f : Feed) (l k : Nat) : Nat :=
  cs.elem f.fmt.size2 (f.base + f.vec l k * (16 * f.fmt.size2)) l

/-- R85: the address of the scale word of block `b`, row or column `l`. -/
def Feed.scaleAddr (f : Feed) (b l : Nat) : Nat := f.scale + 4 * (32 * b + l)

/-- R135: the position of the scale word at address `x`, before the origin too where the strides are negative. -/
def Feed.pos (f : Feed) (x : Nat) : Int := ((x : Int) - f.origin) / 4

/-- R85: the serial that the feeder expects at address `x`. -/
def Feed.expect (f : Feed) (x : Nat) : Nat := (((f.ser : Int) + f.pos x) % 64).toNat

/-- R136: the side-list address of the group of the scale word at address `x`. -/
def Feed.sideAddr (f : Feed) (x : Nat) : Nat := ((f.side : Int) + 32 * (f.pos x / 32)).toNat

/-- R85, R138: the checks on one scale word that a feeder reads. -/
def Feed.scaleGood (cs : EccMem) (f : Feed) (b l : Nat) : Bool :=
  let x := f.scaleAddr b l
  scaleOk f.fmt (cs.num x 4) (f.expect x) ((List.range 32).map (fun i => f.code cs l (32 * b + i)))

/-- R85: every scale word of a pass of `k` reduction indices is checked, inactive rows included. -/
def Feed.good (cs : EccMem) (f : Feed) (k : Nat) : Bool :=
  if f.fmt.isSB then (List.range (k / 32)).all (fun b => (List.range 32).all (fun l => f.scaleGood cs b l)) else true

/-- R149: a non-escaped SB element beyond the FP32 range decodes to an infinity; the second part is its overflow. -/
def clampFV (x : FV) : FV × Nat :=
  match x with
  | .fin s m e => if m ≠ 0 && decide (ilog2 m e ≥ 128) then (.inf s, 1) else (x, 0)
  | x => (x, 0)

/-- R87, R88, R133: the exact values of block `b` of lane `l`, with the overflows of R149. -/
def Feed.blockVals (cs : EccMem) (f : Feed) (b l : Nat) : List (FV × Nat) :=
  let x := f.scaleAddr b l
  let side := (List.range 8).map (fun j => cs.num (f.sideAddr x + 4 * j) 4)
  (sbDecode f.fmt (cs.num x 4) side ((List.range 32).map (fun i => f.code cs l (32 * b + i)))).map clampFV

/-- The exact values that lane `l` feeds for reduction indices 0 to k - 1 (R88). -/
def Feed.vals (cs : EccMem) (f : Feed) (k l : Nat) : List (FV × Nat) :=
  if f.fmt.isSB then (List.range (k / 32)).flatMap (fun b => f.blockVals cs b l)
  else (List.range k).map (fun i => (decElem f.fmt (f.code cs l i), 0))

/-- R87: whether lane `l` feeds an escaped element at reduction index `k`. -/
def Feed.escaped (cs : EccMem) (f : Feed) (l k : Nat) : Bool := f.fmt.isSB && sbIsEsc f.fmt (f.code cs l k)

/-- R87: the vectors in which a feeder holds an escaped element, one per (vector, element). -/
def Feed.escapes (cs : EccMem) (f : Feed) (k : Nat) : List Nat :=
  if f.fmt.isSB then
    (List.range 32).flatMap (fun l => (List.range k).filterMap (fun i => if f.escaped cs l i then some (f.vec l i) else none))
  else []

/-- R84: the active cells of a pass. -/
def PassIn.active (p : PassIn) (i j : Nat) : Bool :=
  if p.quad then decide (bits p.qen (2 * (i / 16) + j / 16) (2 * (i / 16) + j / 16) = 1) && decide (i % 16 < p.m) && decide (j % 16 < p.n)
  else decide (i < p.m) && decide (j < p.n)

/-- R88, R89: one cell's steps in ascending k, with the invalid and overflow events. -/
def cellSteps : List ((FV × Nat) × (FV × Nat)) → W32 → Flags → W32 × Flags
  | [], acc, fl => (acc, fl)
  | (a, b) :: rest, acc, fl =>
    let r := fmaFV a.1 b.1 (dec32 acc)
    cellSteps rest r.1 { fl with invalid := fl.invalid + r.2.invalid, overflow := fl.overflow + r.2.overflow }

/-- The element (i, j) of a tile's key in `ArrayState.tiles`. -/
def tileKey (t i j : Nat) : Nat := 1024 * t + 32 * i + j

/-- The value of tile element (i, j); +0 where nothing is listed. -/
def tileGet (ts : SMap W32) (t i j : Nat) : W32 := SMap.getD ts (tileKey t i j) 0

/-- All 1,024 elements of a tile in row order (R92). -/
def tileList (ts : SMap W32) (t : Nat) : List W32 := (List.range 1024).map (fun x => SMap.getD ts (1024 * t + x) 0)

/-- R91, CLEAR: +0 in every element of a tile. -/
def tileClear (ts : SMap W32) (t : Nat) : SMap W32 :=
  ts.filter (fun kv => decide (kv.1 < 1024 * t) || decide (1024 * t + 1024 ≤ kv.1))

/-- R91: the tile's contents before the first step. -/
def tileInit (cs : EccMem) (p : PassIn) (ts : SMap W32) : SMap W32 :=
  match p.init with
  | 1 => tileClear ts p.acc
  | 2 => (List.range 1024).foldl (fun ts x => SMap.setW ts (1024 * p.acc + x) (BitVec.ofNat 32 (cs.num (p.cAddr + 4 * x) 4))) ts
  | _ => ts

/-- What a pass produced: the tiles, the counted events, the escaped elements and the extra beats of R87. -/
structure PassOut where
  tiles : SMap W32 := []
  flags : Flags := {}
  escapes : Nat := 0
  extra : Nat := 0
  deriving DecidableEq, Repr

/-- Distinct numbers of a list, counted. -/
def countDistinct (l : List Nat) : Nat := (l.foldl (fun m x => SMap.put m x ()) ([] : SMap Unit)).length

/-- R76, R88: the arithmetic of a pass whose scale words are good. MAn_OVERFLOW counts an SB element that decodes beyond FP32
(R149) once per element fed, in inactive rows and columns and disabled quads too (DESIGN CHOICE, log entry 140). -/
def passRun (cs : EccMem) (p : PassIn) (ts : SMap W32) : PassOut :=
  let ts0 := tileInit cs p ts
  let fa := p.feedA
  let fb := p.feedB
  let rows := (List.range 32).map (fun i => fa.vals cs p.k i)
  let cols := (List.range 32).map (fun j => fb.vals cs p.k j)
  let cells := (List.range 32).flatMap (fun i => (List.range 32).filterMap (fun j => if p.active i j then some (i, j) else none))
  let step := fun (st : SMap W32 × Flags) (c : Nat × Nat) =>
    let r := cellSteps ((atD rows c.1 []).zip (atD cols c.2 [])) (tileGet st.1 p.acc c.1 c.2) st.2
    (SMap.setW st.1 (tileKey p.acc c.1 c.2) r.1, r.2)
  let fin := cells.foldl step (ts0, Flags.zero)
  let sbOvf := ((rows ++ cols).flatMap (fun l => l.map (·.2))).foldl (· + ·) 0
  let esc := fa.escapes cs p.k ++ fb.escapes cs p.k
  { tiles := fin.1, flags := { fin.2 with overflow := fin.2.overflow + sbOvf }, escapes := esc.length,
    extra := countDistinct esc }

/-- R96, R98: beats from the start of a pass until its result is final. -/
def passBeats (p : PassIn) (extra : Nat) : Nat :=
  (if p.init = 2 then 64 else 0) + (if p.k = 0 then 1 else p.r * p.k + (if p.quad then 32 else 64)) + extra

/-- R83, R96: vectors that a feeder reads in a pass. -/
def passVectors (p : PassIn) : Nat := if p.k = 0 then 0 else p.k + (if p.quad then 15 else 31)

/-- Byte ranges of the core store that a pass reads (R44, R83, R85, R91). -/
def passReads (p : PassIn) : List (Nat × Nat) :=
  let feed := fun (f : Feed) =>
    if p.k = 0 then [] else
      (f.base, passVectors p * (16 * f.fmt.size2)) ::
        (if f.fmt.isSB then [(f.scale, 4 * p.k), (f.sideAddr f.scale, 32 * cdiv p.k 32)] else [])
  feed p.feedA ++ feed p.feedB ++ (if p.init = 2 then [(p.cAddr, 4096)] else [])

end Sys2Proof.Machine
end

