-- ==== Sys2Proof/Config.lean ====
section
/-! DEFINITION. What an implementation fixes and the spec leaves open: the values fused into the part (Table 14-8), the
places the run-time firmware chooses (R195, R282), and the free values. None of them has a body. -/

namespace Sys2Proof.Config

open Sys2Proof

/-- A free value: the n-th value that nothing in the spec determines. -/
opaque freeValue : Nat → Nat
/-- SHA-512 of the vendor root key as fused. -/
opaque fuseRootHash : List Byte
/-- SHA-512 of the owner key as fused, all zeros while not blown. -/
opaque fuseOwnerHash : List Byte
/-- The ENROLLED bit. -/
opaque fuseEnrolled : Bool
/-- The device key's private seed. -/
opaque fuseDeviceSeed : List Byte
/-- The device certificate. -/
opaque fuseCertificate : List Byte
/-- The module serial. -/
opaque fuseSerial : Nat
/-- The stepping code. -/
opaque fuseStepping : Nat
/-- The minimum SVN as blown. -/
opaque fuseSvn : Nat
/-- The debug lock. -/
opaque fuseDebugLock : Bool
/-- The firmware's choice of place for an object in its window: job slot, object id (Table 14-7; its own ids above), layout size N. -/
opaque objectBase : Nat → Nat → Nat → Nat
/-- The firmware's choice of where a stack's row regions begin in its local window: job slot, stack, the map (R195). -/
opaque regionStart : Nat → Nat → List Nat → Nat
/-- The rank of a table's region among those of a stack: job slot, stack, the map, table; 1024 above for a default-row area. -/
opaque regionRank : Nat → Nat → List Nat → Nat → Nat
/-- The bytes that the firmware gives a stack's combined-gradient slots of steps of one parity, by job slot, stack and number of members;
no rule sizes them (R283). -/
opaque gradBytes : Nat → Nat → Nat → Nat
/-- The firmware's choice of where a stack's combined-gradient slots of even or odd steps begin in its local window: job slot, stack,
parity (Table 10-3). -/
opaque gradStart : Nat → Nat → Nat → Nat
/-- The firmware's choice of place for a stack's update list, request map and pending map: job slot, stack, which of them 1 to 3. -/
opaque listPlace : Nat → Nat → Nat → Nat
/-- The number by which a record 0x0306 names a lost structure: 0 a combined-gradient slot, 1 to 3 as in `listPlace` (Table 16-3). -/
opaque lostStructure : Nat → Nat
/-- Byte offset of a bag's partial in the bag staging area: sample position in the module, table, partial slot. -/
opaque stagingOffset : Nat → Nat → Nat → Nat
/-- Byte offset of a bag's gradient in the bag-gradient area of a microbatch: sample, table (R220). -/
opaque bagGradOffset : Nat → Nat → Nat
/-- Address in the core store of a slice's reduced gradient: job slot, ordinal among the core's slices (R260). -/
opaque gradArea : Nat → Nat → Nat
/-- The firmware's choice of place for a dense page in its window: job slot, slice, buffer, part (0 master, 1-2 moments, 3 working
copy) (R255). -/
opaque densePage : Nat → Nat → Nat → Nat → Nat
/-- The anchor A of R178 in a step of a fast-float job, which skips the exponent agreement that fixes it (R165). -/
opaque fastAnchor : Nat → Int
/-- The protocol version of an IDENT control flit (R316). -/
opaque identVersion : Nat
/-- The stepping and the firmware major version of another module, by its serial (R164); no rule says how its peers learn them. -/
opaque build : Nat → Nat × Nat
/-- Whether a module, by its serial, is known at a step to be quarantined (R363); no rule says how its peers learn it. -/
opaque quarantined : Nat → Nat → Bool

end Sys2Proof.Config
end

