-- ==== Sys2Proof/Machine/State.lean ====
section
/-! DEFINITION. The state of one module as plain data: the register file of BAR0, the cores, the memories, the row
engines and owner state, the dense slices, the job slots, the fabric, the host link, the images and the journal, the
power and thermal state, and the queue of waiting commands. `State.reset` is the module with its input power absent. -/

namespace Sys2Proof.Machine

open Sys2Proof

/-! Embedding work (Embedding tables and look-ups, Sparse gradients and row updates). -/

/-- A key of a table: its logical shard, table and row, the default row as row 2^40 (R194, R208). -/
structure Key where
  shard : Nat := 0
  table : Nat := 0
  row : Nat := 0
  deriving DecidableEq, Repr

/-- One occurrence of a group in fold order: its key, its repeat count and its FP32 weight (R203, R207). -/
structure Occ where
  key : Key := {}
  rep : Nat := 1
  weight : W32 := 0x3F800000
  deriving DecidableEq, Repr

/-- A bag's partial slot: microbatch, sample, table and the group's ordinal among the bag's shards (R207). -/
structure BagSlot where
  mb : Nat := 0
  j : Nat := 0
  table : Nat := 0
  part : Nat := 0
  deriving DecidableEq, Repr

/-- A group record sent to a coalescing core (R207). -/
structure GroupRec where
  step : Nat := 0
  dest : BagSlot := {}
  weighted : Bool := false
  occ : List Occ := []
  deriving DecidableEq, Repr

/-- A distinct group with the bags on its fan-out list (R210). -/
structure GroupOut where
  weighted : Bool := false
  occ : List Occ := []
  fan : List BagSlot := []
  deriving DecidableEq, Repr

/-- A unique key of a batch: whether its row is returned, and the single groups' bags with their weights (R210). -/
structure KeyOut where
  key : Key := {}
  ret : Bool := false
  fan : List (BagSlot × W32) := []
  deriving DecidableEq, Repr

/-- A request batch of a coalescing core for one owner, with the response items received so far and the pieces of those that came
in part, twice the item's index for its beginning and one more for its end (R211, R213), whether
its segments were sent (R31), its response expanded (R217) and its gradient batch sent (R228). -/
structure ReqBatch where
  owner : Nat := 0
  keys : List KeyOut := []
  groups : List GroupOut := []
  items : SMap (List Byte) := []
  pieces : SMap (List Byte) := []
  sent : Bool := false
  expanded : Bool := false
  gradSent : Bool := false
  deriving DecidableEq, Repr

/-- A bag as BAG_SCAN staged it (R207, R220): the core that scanned it, its occurrence count (R23), its retained
occurrences in position order and its distinct shards. -/
structure Bag where
  step : Nat := 0
  mb : Nat := 0
  j : Nat := 0
  table : Nat := 0
  core : Nat := 0
  count : Nat := 0
  occ : List Occ := []
  shards : List Nat := []
  deriving DecidableEq, Repr

/-- An accumulator of the gradient side (R225), of a flush record (R227): key, non-finite block mask, sums. -/
structure GradAcc where
  key : Key := {}
  nf : Nat := 0
  sums : List Int := []
  deriving DecidableEq, Repr

/-- A spilled occurrence: key, microbatch, sample and position (R226), and the bag-gradient area of its microbatch (R220). -/
structure SpillRec where
  key : Key := {}
  mb : Nat := 0
  j : Nat := 0
  pos : Nat := 0
  area : Nat := 0
  deriving DecidableEq, Repr

/-- What one core's GC holds for one job slot: group records addressed to it, request batches by step, resident
gradient accumulators, spilled occurrences, flush records received, chunks of the spill pool held, by step and number, and the
count wanted (R209). -/
structure GcSlot where
  groups : List GroupRec := []
  batches : SMap (List ReqBatch) := []
  resident : List GradAcc := []
  spill : List SpillRec := []
  flushed : List GradAcc := []
  chunks : List (Nat × Nat) := []
  wanted : Nat := 0
  deriving DecidableEq, Repr

/-- One core (Table 2-1). Entries of the step-table memory and descriptors are its bytes. -/
structure CoreState where
  cs : EccMem := {}
  table : EccMem := {}
  slots : SMap CoreSlot := []
  units : SMap UnitState := []
  arrays : SMap ArrayState := []
  tq : List TileEntry := []
  vregs : SMap W32 := []
  vregParity : List Nat := []
  gc : SMap GcSlot := []
  lastPhase : Nat := 0
  deriving DecidableEq, Repr

/-- A row entry of a request batch at its owner, with its added bit (R232) and, once it has been served, its record (R214). -/
structure OwnRow where
  key : Key := {}
  ret : Bool := false
  added : Bool := false
  got : Option (List Byte) := none
  deriving DecidableEq, Repr

/-- A request batch at its owner: source rank and coalescing core, its rows, its groups as (entry, repeat, weight)
lists, the segments received and the pieces of gradient entries that came in part (as in `ReqBatch`), and whether it has been
answered (R212-R214). -/
structure OwnBatch where
  src : Nat := 0
  core : Nat := 0
  step : Nat := 0
  rows : List OwnRow := []
  groups : List (Bool × List (Nat × Nat × W32)) := []
  nRows : Nat := 0
  nGroups : Nat := 0
  segments : SMap (List Word) := []
  pieces : SMap (List Byte) := []
  items : Nat := 0
  answered : Bool := false
  deriving DecidableEq, Repr

/-- A row of an update list (R231): its key, address, engine, request order of its first waiting look-up, ALIAS mark,
its step, and whether
its update has begun and been accepted; an entry that is not accepted is a set pending bit. -/
structure UpdateRow where
  key : Key := {}
  addr : Nat := 0
  engine : Nat := 0
  hot : Option Nat := none
  alias_ : Bool := false
  step : Nat := 0
  begun : Bool := false
  accepted : Bool := false
  deriving DecidableEq, Repr

/-- A record write issued to a memory controller and not yet accepted (R240): the row, its step, its address, its bytes, and the
weights that it replaces (R246). -/
structure RecordWrite where
  slot : Nat := 0
  key : Key := {}
  step : Nat := 0
  addr : Nat := 0
  bytes : List Byte := []
  old : List W32 := []
  deriving DecidableEq, Repr

/-- A row difference waiting for its export record (R245). -/
structure RowDiff where
  key : Key := {}
  step : Nat := 0
  bytes : List Byte := []
  deriving DecidableEq, Repr

/-- A combined-gradient slot (R231): its row, its NF mask, and the module address of its `len` 64-bit accumulators. -/
structure GradSlot where
  key : Key := {}
  nf : Nat := 0
  addr : Nat := 0
  len : Nat := 0
  deriving DecidableEq, Repr

/-- What the module holds as owner of rows for one job slot: request batches, the step's update list, combined-gradient
slots by record address, pending addresses, difference queue, and the FP64 update-to-weight pairs (R231, R246). -/
structure OwnerState where
  batches : List OwnBatch := []
  updates : List UpdateRow := []
  grads : SMap GradSlot := []
  lost : Bool := false
  order : Nat := 0
  diffs : List RowDiff := []
  ratios : SMap (Nat × Nat) := []
  deriving DecidableEq, Repr

/-! Dense state (Dense parameters and the optimiser). -/

/-- One dense slice held here (R255): its stamps per buffer, its reduced gradient values by fragment, and whether it is
mirrored rather than owned; `written` are the lines of its pages, `part * 1024 + line`, that the update of `writeStep` has written. -/
structure SliceState where
  mirror : Bool := false
  tensor : Nat := 0
  index : Nat := 0
  stamp0 : Nat := 0
  stamp1 : Nat := 0
  grad : SMap (List W32) := []
  writeStep : Nat := 0
  written : List Nat := []
  deriving DecidableEq, Repr

/-- A dense all-gather of a step (R263, R352): its core, tag, tensor and destination, whether its entry has started here,
the lines placed, the own slices served and those that have waited, and the fragments that came before its entry. -/
structure GatherState where
  core : Nat := 0
  tag : Nat := 0
  tensor : Nat := 0
  step : Nat := 0
  dest : Nat := 0
  started : Bool := false
  placed : List Nat := []
  served : List Nat := []
  counted : List Nat := []
  early : List (Nat × List Word) := []
  deriving DecidableEq, Repr

/-- One fragment of an AGREE_MAX or REDUCE_SCATTER (R350, R351): its slot, step, instance, object and offset, its core
and addresses, the own values once its entry has started, the children's bodies by position, and how far it has gone. -/
structure Collective where
  slot : Nat := 0
  step : Nat := 0
  op : Nat := 0
  tag : Nat := 0
  object : Nat := 0
  offset : Nat := 0
  core : Nat := 0
  dest : Nat := 0
  exps : Nat := 0
  own : Option (List Int) := none
  kids : SMap (List Word) := []
  sent : Bool := false
  done : Bool := false
  deriving DecidableEq, Repr

/-- A Guidon round in progress (R354, R355, R485): whether it is a closing or a rollback round, its step, the own record by
section, the children's fragments by rank and byte offset in the record, whether the own sum went up, and the result's fragments. -/
structure Round where
  closing : Bool := false
  rollback : Bool := false
  step : Nat := 0
  own : Option (SMap (List Byte)) := none
  kids : SMap (SMap (List Byte)) := []
  sent : Bool := false
  result : SMap (List Byte) := []
  deriving DecidableEq, Repr

/-- A recipe-managed tensor's numerics state (R183, R184): per-step reference codes, oldest first, and the steps left
in fall-back. -/
structure TensorHist where
  refs : List Nat := []
  fallback : Nat := 0
  deriving DecidableEq, Repr

/-- The numerics state and the statistics of the open step of one job slot. `gT` and `gPrev` are G_T of the last two steps
with an all-ok result; `late` holds the counts of phase 9, which ride the vote of the next step; `vote` is the agreed record of the
last all-ok step round, with the clip factor and squared norm that follow from it. -/
structure NumericsState where
  gT : SMap Int := []
  gPrev : SMap Int := []
  hist : SMap TensorHist := []
  lapsed : Bool := false
  gCodes : SMap Nat := []
  refCodes : SMap Nat := []
  bins : SMap (List Nat) := []
  counts : SMap (Nat × Nat × Nat) := []
  late : SMap (Nat × Nat × Nat) := []
  guardOvf : Nat := 0
  agreed : SMap (List Int) := []
  gatherDigest : Nat := 0
  gatherVoted : Nat := 0
  partnerDigest : Option Nat := none
  ownDigest : Option Nat := none
  ratios : SMap (Nat × Nat) := []
  vote : SMap (List Byte) := []
  kappa : W32 := 0x3F800000
  normSq : W32 := 0
  deriving DecidableEq, Repr

/-- The export state of one job slot: records due (a NUMERICS record with its body and a manifest with its flags and
threshold as they stood at the commit point), per-step record and byte counts and hash input, steps whose
manifest is written since the restore was last opened, and the slices whose kernels have waited for an export (R265). -/
structure ExportSlot where
  sweeps : List (Nat × Key) := []
  numerics : List (Nat × List Byte) := []
  maps : List Nat := []
  dense : List (Nat × Nat) := []
  manifests : List (Nat × Nat) := []
  records : SMap Nat := []
  bytes : SMap Nat := []
  hashed : SMap (List Byte) := []
  written : List Nat := []
  waited : List (Nat × Nat) := []
  deriving DecidableEq, Repr

/-- The restore of a job slot (R398-R401): open, at admission, its step, whether every need is known, the needs, those
not yet in the need list, and the items supplied: (kind, table or tensor and part, row or slice). `step` stays when it ends. -/
structure RestoreState where
  isOpen : Bool := false
  admission : Bool := false
  step : Nat := 0
  whole : Bool := false
  needs : List (Nat × Nat × Nat) := []
  unwritten : List (Nat × Nat × Nat) := []
  supplied : List (Nat × Nat × Nat) := []
  deriving DecidableEq, Repr

/-- A local re-execution under way (R73): the entries each core has replayed, and the one it has started and not completed. -/
structure Replay where
  done : SMap Nat := []
  run : SMap RunEntry := []
  deriving DecidableEq, Repr

/-- A job slot (One training step across the module; Fabric messages; Faults). -/
structure JobSlot where
  admitted : Bool := false
  rejected : Bool := false
  member : Bool := false
  committed : Nat := 0
  voted : Nat := 0
  okStep : Nat := 0
  closedStep : Nat := 0
  hardStep : Option Nat := none
  phase9 : Nat := 0
  attempt : Nat := 0
  members : List Nat := []
  ranks : List Nat := []
  position : Nat := 0
  mbCount : Nat := 0
  firstSeq : Nat := 0
  cause : Nat := 0
  mirrorBad : Bool := false
  retries : Nat := 0
  closingRepeats : Nat := 0
  reexecs : SMap Nat := []
  reexecPhase : Nat := 0
  replay : Option Replay := none
  omb1 : W32 := 0
  omb2 : W32 := 0
  fillRecord : Option (SMap (List Byte)) := none
  fillPassed : Bool := false
  wantReshard : Bool := false
  wantAdmit : Bool := false
  map : List Nat := []
  epoch : Nat := 0
  spillWait : List Nat := []
  halted : Bool := false
  stopped : Bool := false
  held : Bool := false
  holdCause : Nat := 0
  holdLow : Nat := 0
  holdFwd : Bool := false
  countsRx : SMap Nat := []
  xchStep : Nat := 0
  rounds : List Round := []
  num : NumericsState := {}
  owner : OwnerState := {}
  slices : SMap SliceState := []
  gathers : List GatherState := []
  bags : List Bag := []
  landed : SMap (List Byte) := []
  signalled : Nat := 0
  signalStep : Nat := 0
  exp : ExportSlot := {}
  restore : RestoreState := {}
  hardBits : Nat := 0
  proposal : List Nat := []
  permuting : Bool := false
  permuteSenders : Nat := 0
  permuteCounts : List Nat := []
  permuteStage : List (Nat × Nat × List Word) := []
  layoutPending : Bool := false
  mirrorTries : Nat := 0
  layoutStep : Nat := 0
  mapDue : Bool := false
  admitStep : Nat := 0
  damaged : Option Nat := none
  deriving DecidableEq, Repr

/-! Memory controllers and the slate tier (Memory: HBM4 stacks and the slate tier). -/

/-- A request that waits in a channel's scheduler, with the data that a read returns when it is served (R290, R292). -/
structure QueuedReq where
  req : MemRequest := {}
  write : Bool := false
  data : List Byte := []
  poisoned : Bool := false
  deriving DecidableEq, Repr

/-- One channel's scheduler (R290 to R293): whether it runs in write mode, the requests that wait, oldest first, and of the run of
bursts through which class 4 requests have waited the bursts issued and those given to class 4. -/
structure Channel where
  writeMode : Bool := false
  queue : List QueuedReq := []
  run : Nat := 0
  given : Nat := 0
  deriving DecidableEq, Repr

/-- One memory controller (R240, R294, R295). -/
structure MemController where
  records : List RecordWrite := []
  channels : SMap Channel := []
  scrubAt : Nat := 0
  deriving DecidableEq, Repr

/-- A promoted page: its page number, dirty granules and reference bit (R285, R287; log entry 162). -/
structure Frame where
  page : Nat := 0
  dirty : List Nat := []
  ref : Bool := false
  deriving DecidableEq, Repr

/-- An outstanding slate request (R297), with the local time at which it arrived. -/
structure SlateRequest where
  req : MemRequest := {}
  write : Bool := false
  bytes : List Byte := []
  late : Bool := false
  failing : Bool := false
  retries : Nat := 0
  since : Nat := 0
  deriving DecidableEq, Repr

/-- The slate-tier controller. `auto` holds the places and sizes of each slot's `auto` objects (R282), `failLines` are lines whose
requests do not complete: true where they fail under R296, false where they are only slow. `lateLogged` are the packages recorded
as late, with the step (8 times the step plus the package, R297), `migrating` the pages whose requests wait for a migration
(R286), and `blocked` is the model's own note of the last access that met a line whose requests do not complete. -/
structure SlateState where
  counts : SMap Nat := []
  queue : List Nat := []
  frames : SMap Frame := []
  lastVictim : Nat := 0
  requests : List SlateRequest := []
  lateLogged : List Nat := []
  failLines : SMap Bool := []
  channels : SMap Channel := []
  auto : SMap (List (Nat × Nat)) := []
  migrating : List Nat := []
  blocked : Option Nat := none
  deriving DecidableEq, Repr

/-! The fabric (Optical links and fabric discovery; Fabric messages). -/

/-- A message waiting in the router, with the port it arrived on and whether that was an escape lane (R344). -/
structure Waiting where
  msg : Message := {}
  arrival : Option Nat := none
  escape : Bool := false
  counted : Bool := false
  deriving DecidableEq, Repr

/-- A fabric port (R309-R320). `sub` is the state that RETRAIN runs again, `resync` that the far end's first ACK after a retrain
is awaited, `ackSince` the flits accepted since an ACK was sent, `wait` the beacons not yet sent. `txFrame` are the flits of the
frame that fills, `txSlot` the number of the next codeword slot, and `lanes` what the four lanes carried in the slots last
sent (R307, R308). -/
structure Port where
  state : Nat := 0
  reason : Nat := 0
  power : List Int := []
  calib : List Word := []
  txSeq : Nat := 0
  rxSeq : Nat := 0
  retry : List Flit := []
  nakSent : Bool := false
  resends : Nat := 0
  resendSeq : Nat := 0
  credits : List Nat := [1536, 256, 1536, 256]
  freed : List Nat := [0, 0, 0, 0]
  partials : SMap (List Flit) := []
  retrains : List Nat := []
  loggedReason : Nat := 0
  identValid : Bool := false
  ackSince : Nat := 0
  sub : Nat := 0
  resync : Bool := false
  wait : List Message := []
  txFrame : List Flit := []
  txSlot : Nat := 0
  lanes : List (List Codeword) := []
  deriving DecidableEq, Repr

/-- A link entry of a beacon: neighbour serial, local port, neighbour port (Table 11-5). -/
structure LinkEntry where
  neighbour : Nat := 0
  port : Nat := 0
  farPort : Nat := 0
  deriving DecidableEq, Repr

/-- A Burgee beacon's content (Table 11-5). -/
structure BeaconEntry where
  serial : Nat := 0
  fabricId : Nat := 0
  epoch : Nat := 0
  job : Bool := false
  rv : Bool := false
  rank : Nat := 0
  dv : Bool := false
  digest : Nat := 0
  links : List LinkEntry := []
  deriving DecidableEq, Repr

/-- Routes to one rank: adaptive ports, the escape port and the escape-down port (R331, R344). -/
structure Route where
  adaptive : List Nat := []
  escape : Option Nat := none
  down : Option Nat := none
  deriving DecidableEq, Repr

/-- Discovery state (R321-R331): the link-state database with the own beacon in it, the own EPOCH and map digest, whether the
database has been quiet since its last change, the adopted and the computed map, whether the computed map waits for adoption,
routes by rank, the own rank, the serial of each rank, whether the wait was recorded, and whether the computed map was refused
(R327). -/
structure FabricState where
  db : SMap BeaconEntry := []
  epoch : Nat := 0
  digest : Option Nat := none
  quiet : Bool := false
  map : List (Nat × List LinkEntry) := []
  computed : List (Nat × List LinkEntry) := []
  waiting : Bool := false
  routes : SMap Route := []
  rank : Option Nat := none
  rankSerials : SMap Nat := []
  stalled : Bool := false
  refused : Bool := false
  deriving DecidableEq, Repr

/-! The host link (Host link: ingest and export). -/

/-- An ingest ring's inner state (R379, R382): its pending descriptor, the frame read and checked but not landed,
consecutive failures, the highest sequence number taken. -/
structure Ring where
  desc : Option (Nat × Nat × Bool) := none
  frame : Option (List Byte) := none
  fails : Nat := 0
  lastSeq : Option Nat := none
  deriving DecidableEq, Repr

/-- A mailbox command in progress (R402). -/
structure MboxRun where
  cmd : Nat := 0
  tag : Nat := 0
  len : Nat := 0
  arg : Option (List Byte) := none
  tries : Nat := 0
  deriving DecidableEq, Repr

/-- Host-link state. -/
structure HostLink where
  l0 : Bool := false
  perst : Bool := true
  ready : Bool := false
  barGib : Nat := 0
  rings : SMap Ring := []
  mbox : Option MboxRun := none
  earlyWrites : List (Nat × List Byte) := []
  restoreQueue : List Nat := []
  grown : List Nat := []
  liveWritten : Bool := false
  deriving DecidableEq, Repr

/-! Image, fuses, journal, start (The Efdal image, settings and trust; Start-up, retained state and shutdown). -/

/-- A flash device: whether it answers, and its bytes, an unlisted byte being erased, 0xFF. -/
structure FlashDevice where
  answers : Bool := true
  bytes : Mem := []
  deriving DecidableEq, Repr

/-- The security fuses (Table 14-8). -/
structure Fuses where
  rootHash : List Byte := []
  ownerHash : List Byte := []
  enrolled : Bool := false
  deviceSeed : List Byte := []
  certificate : List Byte := []
  serial : Nat := 0
  stepping : Nat := 0
  svn : Nat := 0
  debugLock : Bool := false
  deriving DecidableEq, Repr

/-- A section of the booted image (R414). -/
structure Section_ where
  kind : Nat := 0
  slot : Nat := 0
  offset : Nat := 0
  length : Nat := 0
  deriving DecidableEq, Repr

/-- The booted image (R409, R413). -/
structure Booted where
  slot : Nat := 0
  header : List Byte := []
  sections : List Section_ := []
  gen : Nat := 0
  deriving DecidableEq, Repr

/-- A journal entry's TYPE and body words (R449, Table 15-8). -/
structure JEntry where
  kind : Nat := 0
  body : List Word := []
  deriving DecidableEq, Repr

/-- The journal (R448-R454): entries in the retention RAM, the items in force, error entries kept, the current slot,
its generation, the next SEQ and the log position in lines, lost errors, and whether a fresh snapshot is owed. -/
structure Journal where
  queue : List JEntry := []
  items : List JEntry := []
  errors : List JEntry := []
  slot : Nat := 0
  slotSeq : Nat := 0
  seq : Nat := 0
  logLine : Nat := 0
  lost : Nat := 0
  snapshotOwed : Bool := false
  restored : Bool := false
  deriving DecidableEq, Repr

/-- Input, domains and stage progress (R443-R447): the stage last reached before this start, whether the input is present and
PWR_EN asserted, the always-on domain running, the input above its limit, the domains ramping or up and those up, the memories
initialised, a map adopted, the cause of the next start where one is due, whether a trip holds, whether 47 or 48 tripped, and the
last step that a drain lets run. -/
structure StartState where
  prevStage : Nat := 0
  input : Bool := false
  pwrEn : Bool := false
  aoOn : Bool := false
  overVolt : Bool := false
  domainsOn : List Nat := []
  domainsUp : List Nat := []
  hbmReady : Bool := false
  slateReady : Bool := false
  mapAdopted : Bool := false
  cause : Nat := 0
  trip : Bool := false
  shutdown : Nat := 0
  deriving DecidableEq, Repr

/-- What a unit reports: the fields of Table 16-2 that the reporter knows. -/
structure ErrInfo where
  code : Nat := 0
  unit : Nat := 13
  index : Nat := 0
  slot : Nat := 0
  action : Nat := 0
  step : Nat := 0
  phase : Nat := 0
  q : Option QEntry := none
  d5 : Nat := 0
  d6 : Nat := 0
  d7 : Nat := 0
  deriving DecidableEq, Repr

/-- Faults, strikes, rollback and Flint (Faults, silent errors and recovery). `owed` are the records that the always-on
domain holds for the next start (R535). -/
structure FaultState where
  second : Nat := 0
  codeCounts : SMap Nat := []
  strikes : List (Nat × Nat) := []
  propose : Nat := 0
  named : Option Nat := none
  flintPoint : Option Nat := none
  flintFailed : Bool := false
  flintPasses : Nat := 0
  owed : List ErrInfo := []
  deriving DecidableEq, Repr

/-- Pace, power, slope and thermal state (Pace, power and timing domains). `gains` holds each calibrated domain's pace and
voltage differences, `topPace` the pace of its TRIM entry, `waiting` the starts held by the slope limit, `thermal` the
conditions of Table 17-4 that hold. -/
structure PaceState where
  gains : SMap (Int × Nat) := []
  trims : SMap Int := []
  topPace : SMap Nat := []
  pPow : Nat := 0
  agreed : Option Nat := none
  samples : List Nat := []
  ceilings : SMap Nat := []
  waiting : List Nat := []
  tempJ : Int := 0
  tempH : Int := 0
  thermal : List Nat := []
  stalled : List Crossing := []
  deadDomains : List Nat := []
  deriving DecidableEq, Repr

/-- SMBus, JTAG and the output pins (Module hardware and ratings). `smbStuck` tells that the present episode of a held bus has
been recorded; `scan` is the boundary-scan register, `driven` what EXTEST or CLAMP drives from it. -/
structure PinState where
  smbAddr : Nat := 0
  smbAlert : Bool := false
  smbStuck : Bool := false
  jtagIr : Nat := 0x01
  scan : Nat := 0
  modFault : Bool := false
  thermTrip : Bool := false
  floating : Bool := false
  driven : Option Nat := none
  deriving DecidableEq, Repr

/-- What the module puts on its links, buses and pins, oldest first. -/
inductive OutEvent where
  | hostWrite (addr : Nat) (bytes : List Byte)
  | hostRead (addr len : Nat)
  | completion (bytes : List Byte)
  | completerAbort
  | msix (vector : Nat)
  | flit (port : Nat) (f : Flit)
  | identFlit (port : Nat) (id : Ident)
  | memoryData (q : MemRequest) (bytes : List Byte) (poisoned : Bool)
  | memoryError (q : MemRequest)
  | smbusBlock (bytes : List Byte) (pec : Byte)
  | smbusPecRefused (code : Nat)
  | smbusNotAcknowledged (code : Nat)
  | jtagData (n : Nat) (bits : Nat)
  deriving DecidableEq, Repr

/-- The module. `pending` is the queue of waiting commands and `freeCtr` numbers free values; both are the model's. -/
structure State where
  pending : List Instr := []
  freeCtr : Nat := 0
  out : List OutEvent := []
  regs : SMap Word := []
  staged : SMap Word := []
  cores : SMap CoreState := []
  mem : Mem := []
  memErr : SMap Bool := []
  controllers : SMap MemController := []
  slate : SlateState := {}
  jobs : SMap JobSlot := []
  inbox : List Message := []
  router : List Waiting := []
  collectives : List Collective := []
  ports : SMap Port := []
  lasers : List Nat := []
  fabric : FabricState := {}
  link : HostLink := {}
  flash0 : FlashDevice := {}
  flash1 : FlashDevice := {}
  fuses : Fuses := {}
  image : Option Booted := none
  cfg : SMap Nat := []
  journal : Journal := {}
  start : StartState := {}
  faults : FaultState := {}
  pace : PaceState := {}
  pins : PinState := {}
  deriving DecidableEq, Repr

/-- The reasons a step could stop with a fault: none, since the spec gives every command an effect; no command of this
model faults. -/
inductive Fault where
  deriving DecidableEq, Repr

/-- The reasons a command could be refused. `notModelled` names a command that has no meaning yet: raised by the
dispatch alone, safe. -/
inductive Refusal where
  | notModelled (mnemonic : String)
  deriving DecidableEq, Repr

/-- What a command does: the next state. -/
abbrev Res := Host.Outcome State Fault Refusal

/-- The fuses of the part, which no rule gives a value (Table 14-8): opaque constants of Config (log entry 7). -/
def partFuses : Fuses :=
  { rootHash := Config.fuseRootHash, ownerHash := Config.fuseOwnerHash, enrolled := Config.fuseEnrolled,
    deviceSeed := Config.fuseDeviceSeed, certificate := Config.fuseCertificate, serial := Config.fuseSerial,
    stepping := Config.fuseStepping, svn := Config.fuseSvn, debugLock := Config.fuseDebugLock }

/-- The module with its input absent: nothing runs, every register of form Constant 0 reads 0 (R13), no command waits. -/
def State.reset : State := { fuses := partFuses }

end Sys2Proof.Machine
end

