-- ==== Sys2Proof/Machine/Registers.lean ====
section
/-! DEFINITION. The register file of BAR0 (R6 to R13, R374, Table 13-2): the blocks' offsets, the stored registers with
the saturating counters of Table 0-2, the access codes of every register that a host can write, and the status
registers and current counts that a read computes from the rest of the state. -/

namespace Sys2Proof.Machine

open Sys2Proof

/-! Offsets (Table 13-2). -/

/-- Core counter block `c`. -/
def coreReg (c off : Nat) : Nat := 0x100000 + 0x1000 * c + off
/-- Base-die block `st`. -/
def dieReg (st off : Nat) : Nat := 0x20000 + 0x1000 * st + off
/-- Port block of FPp. -/
def portReg (p off : Nat) : Nat := 0x18000 + 0x100 * p + off
/-- Ingest ring `r`. -/
def ringReg (r off : Nat) : Nat := 0x1000 + 0x100 * r + off
/-- The numerics block. -/
def numReg (off : Nat) : Nat := 0x10000 + off
/-- The dense block. -/
def denseReg (off : Nat) : Nat := 0x11000 + off
/-- The slate-tier block. -/
def ltReg (off : Nat) : Nat := 0x12000 + off
/-- The fabric block. -/
def fabReg (off : Nat) : Nat := 0x13000 + off
/-- The fabric traffic block. -/
def xuReg (off : Nat) : Nat := 0x14000 + off
/-- The fault block. -/
def faultReg (off : Nat) : Nat := 0x200000 + off
/-- The pace, power and thermal block. -/
def pgReg (off : Nat) : Nat := 0x300000 + off
/-- The image, identity and journal block. -/
def imgReg (off : Nat) : Nat := 0x310000 + off
/-- Export, acknowledgement and restore. -/
def expReg (off : Nat) : Nat := 0x2000 + off
/-- Live settings and mailbox. -/
def liveReg (off : Nat) : Nat := 0x4000 + off

/-- HL_STATUS. -/
def hlStatus : Nat := 0x08
/-- HL_INT_STATUS. -/
def hlIntStatus : Nat := 0x10
/-- HL_INT_ENABLE. -/
def hlIntEnable : Nat := 0x18
/-- HL_LOCAL_TIME_US. -/
def hlLocalTime : Nat := 0x20
/-- HL_BAD_ACCESS. -/
def hlBadAccess : Nat := 0x28
/-- START_STATUS. -/
def startStatus : Nat := imgReg 0x800
/-- SV_FAULT_STATUS. -/
def faultStatus : Nat := faultReg 0
/-- GD_STATUS. -/
def gdStatus : Nat := xuReg 0
/-- FAB_STATUS. -/
def fabStatus : Nat := fabReg 0

/-! Stored registers. -/

/-- A stored register; one that nothing has set reads 0. -/
def State.reg (s : State) (o : Nat) : Word := SMap.getD s.regs o 0

/-- Sets a stored register, zeros unlisted. -/
def State.setReg (s : State) (o : Nat) (v : Word) : State :=
  { s with regs := if v = 0 then SMap.del s.regs o else SMap.put s.regs o v }

/-- Bits [h:l] of a stored register. -/
def State.rfld (s : State) (o h l : Nat) : Nat := Word.fld (s.reg o) h l

/-- Replaces bits [h:l] of a stored register. -/
def State.setFld (s : State) (o h l v : Nat) : State := s.setReg o (Word.putFld (s.reg o) h l v)

/-- Sets a flag bit. -/
def State.setBit (s : State) (o b : Nat) : State := s.setFld o b b 1

/-- Clears a flag bit. -/
def State.clearBit (s : State) (o b : Nat) : State := s.setFld o b b 0

/-- Table 0-2: a counter saturates at its all-ones value. -/
def State.inc (s : State) (o n : Nat) : State :=
  if n = 0 then s else s.setReg o (BitVec.ofNat 64 (min (2 ^ 64 - 1) ((s.reg o).toNat + n)))

/-- The stored value of a register as a number. -/
def State.regN (s : State) (o : Nat) : Nat := (s.reg o).toNat

/-! Parts of the state by name. -/

/-- A core. -/
def State.core (s : State) (c : Nat) : CoreState := SMap.getD s.cores c {}

/-- Changes a core. -/
def State.updCore (s : State) (c : Nat) (f : CoreState → CoreState) : State := { s with cores := SMap.upd s.cores c {} f }

/-- What a core holds for a slot. -/
def CoreState.slot (k : CoreState) (i : Nat) : CoreSlot := SMap.getD k.slots i {}

/-- Changes what a core holds for a slot. -/
def CoreState.updSlot (k : CoreState) (i : Nat) (f : CoreSlot → CoreSlot) : CoreState := { k with slots := SMap.upd k.slots i {} f }

/-- A unit of a core by its UNIT code. -/
def CoreState.unit (k : CoreState) (u : Nat) : UnitState := SMap.getD k.units u {}

/-- Changes a unit. -/
def CoreState.updUnit (k : CoreState) (u : Nat) (f : UnitState → UnitState) : CoreState := { k with units := SMap.upd k.units u {} f }

/-- A matrix array. -/
def CoreState.array (k : CoreState) (a : Nat) : ArrayState := SMap.getD k.arrays a {}

/-- Changes a matrix array. -/
def CoreState.updArray (k : CoreState) (a : Nat) (f : ArrayState → ArrayState) : CoreState := { k with arrays := SMap.upd k.arrays a {} f }

/-- What a core's GC holds for a slot. -/
def CoreState.gcSlot (k : CoreState) (i : Nat) : GcSlot := SMap.getD k.gc i {}

/-- Changes what a core's GC holds for a slot. -/
def CoreState.updGc (k : CoreState) (i : Nat) (f : GcSlot → GcSlot) : CoreState := { k with gc := SMap.upd k.gc i {} f }

/-- The dispatch queue of a unit. -/
def CoreSlot.queue (k : CoreSlot) (u : Nat) : List QEntry := SMap.getD k.queues u []

/-- A job slot. -/
def State.job (s : State) (i : Nat) : JobSlot := SMap.getD s.jobs i {}

/-- Changes a job slot. -/
def State.updJob (s : State) (i : Nat) (f : JobSlot → JobSlot) : State := { s with jobs := SMap.upd s.jobs i {} f }

/-- A fabric port. -/
def State.port (s : State) (p : Nat) : Port := SMap.getD s.ports p {}

/-- Changes a fabric port. -/
def State.updPort (s : State) (p : Nat) (f : Port → Port) : State := { s with ports := SMap.upd s.ports p {} f }

/-- A memory controller. -/
def State.mc (s : State) (st : Nat) : MemController := SMap.getD s.controllers st {}

/-- Changes a memory controller. -/
def State.updMc (s : State) (st : Nat) (f : MemController → MemController) : State :=
  { s with controllers := SMap.upd s.controllers st {} f }

/-- An ingest ring. -/
def State.ring (s : State) (r : Nat) : Ring := SMap.getD s.link.rings r {}

/-- Changes an ingest ring. -/
def State.updRing (s : State) (r : Nat) (f : Ring → Ring) : State :=
  { s with link := { s.link with rings := SMap.upd s.link.rings r {} f } }

/-- Key of an effective-configuration item: scope (0 module, 1 to 4 job slots), field id, INDEX. -/
def cfgKey (scope id index : Nat) : Nat := (scope * 65536 + id) * 65536 + index

/-- An effective-configuration item, `d` where none is in force. -/
def State.cfgV (s : State) (scope id index d : Nat) : Nat := SMap.getD s.cfg (cfgKey scope id index) d

/-- A module-scope field with the manual's default. -/
def State.modCfg (s : State) (id d : Nat) : Nat := s.cfgV 0 id 0 d

/-- A field of a job slot with the manual's default. -/
def State.jobCfg (s : State) (slot id d : Nat) : Nat := s.cfgV (slot + 1) id 0 d

/-- Local time in µs since boot. -/
def State.now (s : State) : Nat := s.rfld hlLocalTime 47 0

/-- START_STATUS stage (Table 15-5). -/
def State.stage (s : State) : Nat := s.rfld startStatus 3 0

/-- Sets the START_STATUS stage. -/
def State.setStage (s : State) (v : Nat) : State := s.setFld startStatus 3 0 v

/-- The next free value (log entry 2). -/
def State.free (s : State) : Nat × State := (Config.freeValue s.freeCtr, { s with freeCtr := s.freeCtr + 1 })

/-- Appends what the module puts out. -/
def State.emit (s : State) (e : OutEvent) : State := { s with out := s.out ++ [e] }

/-! Computed registers. -/

/-- R44, Table 2-7: the oldest incomplete primary entry of a core, by dispatch order. -/
def CoreState.oldestPrimary (k : CoreState) : Option QEntry :=
  let run := k.units.flatMap (fun u => u.2.running.filterMap (fun r => if r.slot = 0 then some r.q else none))
  let que := (k.slot 0).queues.flatMap (fun q => q.2)
  (run ++ que).foldl (fun acc q => match acc with
    | none => some q
    | some p => if q.seq < p.seq then some q else some p) none

/-- SQ_STATUS (Table 2-7); WATCHDOG and HAZARD are stored flags. -/
def State.sqStatus (s : State) (c : Nat) : Nat :=
  let k := s.core c
  let act := (List.range 4).foldl (fun a i => if (k.slot i).loaded then a + 2 ^ (48 + i) else a) 0
  let full := (List.range 7).foldl (fun a u => if ((k.slot 0).queue u).length ≥ 8 then a + 2 ^ (8 + u) else a) 0
  let old := match k.oldestPrimary with | some q => q.num | none => 0
  act + k.lastPhase % 16 * 2 ^ 44 + old % 4096 * 2 ^ 16 + full + s.rfld (coreReg c 0) 3 2 * 4 +
  (if (List.range 4).any (fun i => decide ((s.job i).reexecPhase ≠ 0) && (k.slot i).loaded) then 2 else 0) + (if (k.slot 0).loaded && (k.oldestPrimary).isSome then 1 else 0)

/-- MAn_STATUS (Table 3-9); POISON, QUAD and STREAM_FAULT are stored, and BUSY shows a pass in the array. -/
def State.maStatus (s : State) (c a : Nat) : Nat :=
  let o := coreReg c (0x2A0 + 8 * a)
  let k := s.core c
  s.rfld o 23 16 * 2 ^ 16 +
  (List.range 8).foldl (fun x t => if (k.array a).drains.contains t then x + 2 ^ (8 + t) else x) 0 +
  s.rfld o 7 7 * 128 + s.rfld o 3 3 * 8 + (if (k.unit (a + 1)).running.any (fun r => !r.dead && decide (r.q.entry.op ≥ 0x40)) then 1 else 0)

/-- VE_STATUS (Table 4-10). -/
def State.veStatus (s : State) (c : Nat) : Nat :=
  s.rfld (coreReg c 0x358) 8 1 * 2 + (if ((s.core c).unit 3).running.any (fun r => !r.dead) then 1 else 0)

/-- Slices held for the primary that pass a test. -/
def State.sliceCount (s : State) (p : SliceState → Bool) : Nat :=
  if (s.job 0).member then ((s.job 0).slices.filter (fun x => p x.2)).length else 0

/-- FP_STATUS (Table 11-10): STATE and UP come from the port, the rest is stored. -/
def State.fpStatus (s : State) (p : Nat) : Nat :=
  let w := s.reg (portReg p 0)
  let st := (s.port p).state
  Word.fld w 63 16 * 2 ^ 16 + (s.port p).reason % 256 * 256 + st % 16 * 16 + Word.fld w 3 2 * 4 + (if st = 6 then 1 else 0)

/-- Base of the slate window. -/
def slateBase : Nat := 0x00C000000000

/-- R281: package of a slate granule. -/
def slateHash (g : Nat) : Nat := bits g 2 0 ^^^ bits g 12 10 ^^^ bits g 22 20 ^^^ bits g 32 30

/-- R281: the package of a slate address. -/
def slatePackage (a : Nat) : Nat := slateHash ((a - slateBase) / 256)

/-- LT_STATUS (Table 10-10). -/
def State.ltStatus (s : State) : Nat :=
  let pkg := slatePackage
  let late := (List.range 8).foldl (fun x k =>
    if s.slate.requests.any (fun r => r.late && decide (pkg r.req.addr = k)) then x + 2 ^ (2 + k) else x) 0
  let failing := (List.range 8).foldl (fun x k =>
    if s.slate.requests.any (fun r => r.failing && decide (pkg r.req.addr = k)) then x + 2 ^ (10 + k) else x) 0
  late + failing + (if s.slate.requests.any (fun r => !r.req.service && !r.req.test) then 2 else 0) + s.rfld (ltReg 0) 0 0

/-- SV_FAULT_SUMMARY (Table 16-12); CODE and RECORD_INDEX of the last record with ACTION 4 to 7 are stored. -/
def State.faultSummary (s : State) : Nat :=
  let b := fun (x : Bool) (n : Nat) => if x then 2 ^ n else 0
  Word.fld (s.reg (faultReg 0x50)) 63 16 * 2 ^ 16 + s.stage * 256 + b (!s.lasers.isEmpty) 6 +
  b (decide (s.rfld (imgReg 0) 2 2 = 1)) 5 + b (decide (s.rfld faultStatus 2 2 = 1)) 4 +
  b (decide (s.rfld gdStatus 2 2 = 1)) 3 + b (decide (s.rfld faultStatus 4 4 = 1)) 2 +
  b (decide (s.rfld startStatus 4 4 = 1)) 1 + b s.pins.modFault 0

/-- What a host read of a BAR0 register returns (R374, R375). -/
def State.readReg (s : State) (o : Nat) : Word :=
  if 0x100000 ≤ o && o < 0x200000 then
    let c := (o - 0x100000) / 0x1000
    let r := (o - 0x100000) % 0x1000
    if r = 0 then BitVec.ofNat 64 (s.sqStatus c)
    else if r = 0x2A0 || r = 0x2A8 then BitVec.ofNat 64 (s.maStatus c ((r - 0x2A0) / 8))
    else if r = 0x358 then BitVec.ofNat 64 (s.veStatus c)
    else s.reg o
  else if 0x20000 ≤ o && o < 0x28000 then
    let st := (o - 0x20000) / 0x1000
    let r := (o - 0x20000) % 0x1000
    if r = 0x68 then BitVec.ofNat 64 (s.jobs.foldl (fun n j =>
      n + (j.2.owner.updates.filter (fun u => decide (u.engine / 16 = st) && !u.accepted)).length) 0)
    else s.reg o
  else if 0x18000 ≤ o && o < 0x19000 then
    if (o - 0x18000) % 0x100 = 0 then BitVec.ofNat 64 (s.fpStatus ((o - 0x18000) / 0x100)) else s.reg o
  else if o = 0x1828 then s.reg 0x1810
  else if o = denseReg 0x08 then BitVec.ofNat 64 (s.sliceCount (fun x => !x.mirror))
  else if o = denseReg 0x10 then BitVec.ofNat 64 (s.sliceCount (fun x => x.mirror))
  else if o = ltReg 0 then BitVec.ofNat 64 s.ltStatus
  else if o = ltReg 0x40 then BitVec.ofNat 64 s.slate.frames.length
  else if o = faultReg 0x38 then BitVec.ofNat 64 s.faults.strikes.length
  else if o = faultReg 0x50 then BitVec.ofNat 64 s.faultSummary
  else if o = imgReg 0x838 then BitVec.ofNat 64 s.journal.queue.length
  else if o = imgReg 0x840 then BitVec.ofNat 64 s.journal.lost
  else if o = fabReg 0x20 then BitVec.ofNat 64 s.fabric.map.length
  else s.reg o

/-! Access codes of what a host can write. -/

/-- How a host write acts on a register: the bits that are RW, the bits that are W1C, the bits that are CM. -/
structure RegAccess where
  rw : Nat := 0
  w1c : Nat := 0
  cm : Nat := 0
  deriving DecidableEq, Repr

/-- The W1C flags of the per-core, per-port and per-block status registers. -/
def blockAccess (o : Nat) : RegAccess :=
  if 0x100000 ≤ o && o < 0x200000 then
    let r := (o - 0x100000) % 0x1000
    if r = 0 then { w1c := 0xC } else if r = 0x2A0 || r = 0x2A8 then { w1c := 0x8 }
    else if r = 0x358 then { w1c := 0x1FE } else {}
  else if 0x18000 ≤ o && o < 0x19000 then if o % 0x100 = 0 then { w1c := 0xC } else {}
  else if 0x1000 ≤ o && o < 0x1800 then
    let r := o % 0x100
    if r = 0 then { rw := 0xFFFFFFFFFFFFFFFF } else if r = 8 then { rw := 0x71F }
    else if r = 0x10 then { rw := 0xFFFFFFFF } else if r = 0x28 then { w1c := 1 } else {}
  else {}

/-- Table 0-2 on the registers of Tables 6-5 to 16-12 that a host can write; every other bit is RO or reserved. -/
def regAccess (o : Nat) : RegAccess :=
  if o = hlIntStatus then { w1c := 0xFFFFFFFFFFFFFFFF }
  else if o = hlIntEnable then { rw := 0xFFFFFFFFFFFFFFFF }
  else if o = 0x1820 then { rw := 0xFFFFFFFF }
  else if o = expReg 0 then { rw := 0xFFFFFFFFFFFFFFFF }
  else if o = expReg 8 then { rw := 0x3F }
  else if o = expReg 0x10 then { rw := 0xFFFFFFFFFFFFFFFF }
  else if o = expReg 0x110 then { rw := 0xFFFFFFFFFFFFFFFF }
  else if o = expReg 0x118 then { rw := 0x1F }
  else if o = expReg 0x128 || o = expReg 0x130 then { rw := 0xFFFFFFFFFFFFFFFF }
  else if o = expReg 0x140 then { rw := 1 }
  else if o = liveReg 0x00 || o = liveReg 0x08 then { cm := 0xFFFF }
  else if o = liveReg 0x10 then { cm := 0xF }
  else if o = liveReg 0x18 then { cm := 0x1F }
  else if o = liveReg 0x20 then { cm := 0xFFFFFFFFFFFFFFFF }
  else if o = liveReg 0x30 then { w1c := 1 }
  else if o = liveReg 0x40 then { rw := 1 }
  else if o = liveReg 0x100 then { rw := 0xFFFFFFFFFFFFFFFF }
  else if o = liveReg 0x108 then { rw := 0xFFFFFFFFFFFFFFFF }
  else if o = liveReg 0x110 then { rw := 0xFFFFFFFFFFFFFFFF }
  else if o = numReg 0 then { w1c := 0x6 }
  else if o = numReg 0x28 then { cm := 0xFFFFF }
  else if o = denseReg 0 then { w1c := 0x4 }
  else if o = ltReg 0 then { w1c := 1 }
  else if o = fabStatus then { w1c := 0xE }
  else if o = gdStatus then { w1c := 0x4 }
  else if o = imgReg 0x10 then { w1c := 1 }
  else if o = faultStatus then { w1c := 0x3 }
  else if o = pgReg 0 then { w1c := 0x30 }
  else if 0x03FF0000 ≤ o && o < 0x03FF0400 then { rw := 0xFFFFFFFFFFFFFFFF }
  else blockAccess o

/-- The effect of a host write of `v` on a stored register of access `a` (R6, R8): CM bits are staged elsewhere. -/
def RegAccess.write (a : RegAccess) (old v : Word) : Word :=
  let rw : Word := BitVec.ofNat 64 a.rw
  let w1c : Word := BitVec.ofNat 64 a.w1c
  ((old &&& ~~~rw) ||| (v &&& rw)) &&& ~~~(v &&& w1c)

/-- R8, R10: the plain effect of a host write: RW bits take the value, W1C bits are cleared, a CM register's value is
staged whole (R433 checks its reserved bits at the commit point). -/
def State.writePlain (s : State) (o : Nat) (v : Word) : State :=
  let a := regAccess o
  let s := s.setReg o (a.write (s.reg o) v)
  if a.cm = 0 then s else { s with staged := SMap.put s.staged o v }

end Sys2Proof.Machine
end

