-- ==== Sys2Proof/Machine/VectorData.lean ====
section
/-! DEFINITION. The data path of the vector engine: operand fetch (R108, R112, R115), the arithmetic of R116 to R118,
the reductions of R119 and R120, the soft maximum of R121, the block streams of R124, R143, R150 and R158, and the cost
of Table 4-11. Each operation reads a whole vector of at most 64 elements before it writes it. -/

namespace Sys2Proof.Machine

/-- The fields of a tensor-form VE entry at its advanced addresses (Tables 4-1, 4-2, R110), with the Pennant key parts
of R125 and the tile it takes (R115). -/
structure VeIn where
  reMap : Bool := false
  maskEn : Bool := false
  mz : Bool := false
  act : Nat := 0
  zsrc : Nat := 0
  maskAddr : Nat := 0
  zreg : Nat := 0
  s : Nat := 0
  xAddr : Nat := 0
  yAddr : Nat := 0
  zAddr : Nat := 0
  zOrigin : Nat := 0
  sideAddr : Nat := 0
  xPitch : Nat := 0
  yPitch : Nat := 0
  zPitch : Nat := 0
  elemPitch : Nat := 0
  xf : Fmt := .fp32
  yf : Fmt := .fp32
  zf : Fmt := .fp32
  n0 : Nat := 1
  n1 : Nat := 1
  kind : Nat := 0
  tid : Nat := 0
  elemBase : Nat := 0
  flat : Nat := 0
  seed : Nat := 0
  step : Nat := 0
  mb : Nat := 0xFFFFFF
  e5m2Inf : Bool := false
  tile : Option (List W32) := none
  regs : SMap W32 := []
  deriving DecidableEq, Repr

/-- Table 4-3, a reserved code read as FP32 (R111 rejects it). -/
def veFmt (c : Nat) : Fmt := (fmtOfCode c).getD .fp32

/-- R110: the flat index of element (0, 0) in this loop iteration. -/
def veElemBase (q : QEntry) (yf : Fmt) : Nat :=
  (((bits (dword q 3) 39 0 : Nat) : Int) + (if yf.size2 = 0 then 0 else advance q 1 * 2 / (yf.size2 : Int))).toNat

/-- R110: MASK_ADDR advances by MASK_STEP 64-byte units per iteration of the innermost loop. -/
def veMaskAddr (q : QEntry) : Nat :=
  ((bits q.entry.oper 58 38 : Int) + sint 5 (bits q.entry.oper 63 59) * 64 * ((atD q.idx 0 0 : Nat) : Int)).toNat

/-- The operand fields of a dispatched tensor-form entry. `stream` marks the conversions of Table 4-8, whose stream
addresses R124 moves. -/
def veIn (stream : Bool) (seed : Nat) (e5 : Bool) (tile : Option (List W32)) (regs : SMap W32) (q : QEntry) : VeIn :=
  let e := q.entry
  let w0 := dword q 0
  let w1 := dword q 1
  let w2 := dword q 2
  let w3 := dword q 3
  let n0 := bits w2 13 0 + 1
  let n1 := bits w2 31 16 + 1
  let yf := veFmt (bits w2 43 40)
  { reMap := decide (bits e.imm 9 9 = 1), maskEn := decide (bits e.imm 8 8 = 1), mz := decide (bits e.imm 7 7 = 1),
    act := bits e.imm 6 4, zsrc := bits e.imm 1 0, maskAddr := veMaskAddr q, zreg := bits e.oper 36 32,
    s := bits e.oper 31 0, xAddr := operAddr q 0 (bits w0 20 0), yAddr := operAddr q 1 (bits w0 62 42),
    zAddr := if stream then bits w0 41 21 + 4 * q.flat * (n1 * n0 / 32) else operAddr q 0 (bits w0 41 21),
    zOrigin := bits w0 41 21, sideAddr := bits w1 41 21, xPitch := bits w1 20 0, yPitch := bits w1 62 42,
    zPitch := bits w1 41 21, elemPitch := bits w2 63 44, xf := veFmt (bits w2 35 32), yf := yf,
    zf := veFmt (bits w2 39 36), n0 := n0, n1 := n1, kind := bits w3 58 56, tid := bits w3 55 40,
    elemBase := veElemBase q yf, flat := q.flat, seed := seed, step := q.step,
    mb := q.mb.getD noMicrobatch, e5m2Inf := e5, tile := tile, regs := regs }

/-- What an operation did: the core store, the events of R127, whether a partial write met an uncorrectable word (R558),
whether a stream check failed (R126) and at which block, row-empty rows, the conversions, overflows and vanishes of R184 and R186,
and the blocks of the tensor in which an integer result saturated (R173). -/
structure VeOut where
  cs : EccMem := {}
  flags : Flags := {}
  bad : Bool := false
  fault : Bool := false
  rowEmpty : Nat := 0
  converted : Nat := 0
  above : Nat := 0
  vanish : Nat := 0
  escVectors : Nat := 0
  stop : Nat × Nat × Nat := (0, 0, 0)
  satBlocks : List Nat := []
  deriving DecidableEq, Repr

/-- R112: whether element (r, c) is active. -/
def VeIn.maskBit (v : VeIn) (cs : EccMem) (r c : Nat) : Bool :=
  decide (bits (cs.num (v.maskAddr + 8 * (cdiv v.n0 64 * r + c / 64)) 8) (c % 64) (c % 64) = 1)

/-- R112: an element is active when masks are off or its bit is 1. -/
def VeIn.active (v : VeIn) (cs : EccMem) (r c : Nat) : Bool := !v.maskEn || v.maskBit cs r c

/-- R108, R115: the code of element (r, c) of X. -/
def VeIn.x (v : VeIn) (cs : EccMem) (r c : Nat) : Nat :=
  match v.tile with
  | some t => (atD t (32 * r + c) 0).toNat
  | none => cs.elem v.xf.size2 (v.xAddr + r * v.xPitch) c

/-- Lane `l` of register `k`. -/
def regLane (regs : SMap W32) (k l : Nat) : W32 := SMap.getD regs (64 * k + l) 0

/-- R108: the 32-bit Z of element (r, c): the scalar or register lane as it stands, a CS element widened by `w`. -/
def VeIn.z (v : VeIn) (cs : EccMem) (w : Fmt → Nat → W32) (r c : Nat) : W32 :=
  match v.zsrc with
  | 0 => BitVec.ofNat 32 v.s
  | 1 => w v.zf (cs.elem v.zf.size2 (v.zAddr + r * v.zPitch) c)
  | 2 => regLane v.regs v.zreg c
  | _ => w v.zf (cs.elem v.zf.size2 (v.zAddr + r * (v.zf.size2 / 2)) 0)

/-- R116 step 1 for integers: sign extension, or zero extension for UINT8, to 32 bits. -/
def widenInt (f : Fmt) (code : Nat) : W32 :=
  match decElem f code with
  | .fin s m _ => BitVec.ofNat 32 (ofInt 32 (if s then -(m : Int) else m))
  | _ => 0

/-- R110: the flat index of element (r, c). -/
def VeIn.index (v : VeIn) (r c : Nat) : Nat := v.elemBase + r * v.elemPitch + c

/-- R125: the rounding of a conversion of element (r, c). -/
def VeIn.mode (v : VeIn) (r c : Nat) : RMode :=
  if v.kind = 2 then .stochastic (pennantU v.seed v.step v.tid v.mb (v.index r c)) else .nearest

/-- R116 step 3: the activation. -/
def actRun (act : Nat) (x : W32) : W32 × Flags :=
  match act with
  | 0 => (x, Flags.zero)
  | 1 => frelu x
  | 2 => fsigmoid x
  | _ => ftanh x

/-- One converted element: its code, its events and whether it overflowed or vanished in the conversion (R184, R186). -/
structure Lane where
  code : Nat := 0
  flags : Flags := {}
  above : Nat := 0
  vanish : Nat := 0
  deriving DecidableEq, Repr

/-- Whether a code of a floating format is a zero. -/
def isZeroCode (f : Fmt) (c : Nat) : Bool :=
  match decElem f c with
  | .fin _ m _ => decide (m = 0)
  | _ => false

/-- Whether a value is finite and not zero. -/
def FV.isNonzero : FV → Bool
  | .fin _ m _ => decide (m ≠ 0)
  | _ => false

/-- Whether a value is a zero. -/
def FV.isZero : FV → Bool
  | .fin _ m _ => decide (m = 0)
  | _ => false

/-- R116 step 4, R125: conversion of an exact value. -/
def convLane (yf : Fmt) (e5 : Bool) (mode : RMode) (fl : Flags) (x : FV) : Lane :=
  let r := convElem yf e5 mode x
  { code := r.1, flags := (fl.add r.2).lane, above := r.2.cvtSat + r.2.overflow,
    vanish := if x.isNonzero && yf.isFloat && isZeroCode yf r.1 then 1 else 0 }

/-- R116 step 4 for an FP32 result: FP32 keeps its bits. -/
def convLane32 (yf : Fmt) (e5 : Bool) (mode : RMode) (fl : Flags) (x : W32) : Lane :=
  match yf with
  | .fp32 => { code := x.toNat, flags := fl.lane }
  | yf => convLane yf e5 mode fl (dec32 x)

/-- The lane function of an operation: floating on (S, X, Z); bitwise on FP32 codes with its form on a narrower code;
conversion; comparison; choice; integer on Y's width and 32-bit patterns, with its saturations. -/
inductive LaneOp where
  | float (f : W32 → W32 → W32 → W32 × Flags)
  | sign (f : W32 → W32) (g : Nat → Nat → Nat)
  | cvt
  | cmp (f : FV → FV → Bool)
  | select
  | int (f : Nat → Nat → Nat → Nat × Nat)

/-- Width in bits of an element format. -/
def Fmt.width (f : Fmt) : Nat := f.size2 * 4

/-- R116, R149 for CVT: the exact value, its activation, one rounding; a same-format CVT without activation keeps its bits, and one
from BF16 to FP32 keeps a NaN's payload (log entry 28). -/
def cvtLane (v : VeIn) (mode : RMode) (code : Nat) : Lane :=
  let x := decElem v.xf code
  if v.act = 0 then
    if v.xf = v.yf then { code := code }
    else if v.xf = .bf16 && v.yf = .fp32 && x.isNan then { code := (widen32 .bf16 code).toNat }
    else convLane v.yf v.e5m2Inf mode Flags.zero x
  else if v.act = 1 then
    match x with
    | .fin true _ _ => convLane v.yf v.e5m2Inf mode Flags.zero (.fin false 0 0)
    | .inf true => convLane v.yf v.e5m2Inf mode Flags.zero (.fin false 0 0)
    | x => convLane v.yf v.e5m2Inf mode Flags.zero x
  else
    let r := actRun v.act (rn32 x).1
    convLane32 v.yf v.e5m2Inf mode r.2 r.1

/-- R116 on one element. `m` is its mask bit, which SELECT reads. -/
def veLane (op : LaneOp) (v : VeIn) (cs : EccMem) (r c : Nat) : Lane :=
  let xc := v.x cs r c
  let mode := v.mode r c
  match op with
  | .float f =>
    let o := f (BitVec.ofNat 32 v.s) (widen32 v.xf xc) (v.z cs widen32 r c)
    let a := actRun v.act o.1
    convLane32 v.yf v.e5m2Inf mode (o.2.add a.2) a.1
  | .sign f g =>
    if v.act = 0 && decide (v.xf = v.yf) then { code := g v.xf.width xc }
    else
      let a := actRun v.act (f (widen32 v.xf xc))
      convLane32 v.yf v.e5m2Inf mode a.2 a.1
  | .cvt => cvtLane v mode xc
  | .cmp f => { code := if f (dec32 (widen32 v.xf xc)) (dec32 (v.z cs widen32 r c)) then 1 else 0 }
  | .select =>
    let o := if v.maskBit cs r c then widen32 v.xf xc else v.z cs widen32 r c
    let o := if isNan32 o then (qnan, Flags.zero) else selected o
    let a := actRun v.act o.1
    convLane32 v.yf v.e5m2Inf mode (o.2.add a.2) a.1
  | .int f =>
    let o := f v.yf.width (widenInt v.xf xc).toNat (v.z cs widenInt r c).toNat
    { code := o.1 % 2 ^ v.yf.width, flags := { intSat := o.2 } }

/-- Writes the present bytes of a run, each maximal run of present bytes as one write (R558). -/
def EccMem.writeRuns (m : EccMem) (a : Nat) (bs : List (Option Byte)) : EccMem × Bool :=
  let flush := fun (st : EccMem × Bool) (start : Nat) (rev : List Byte) =>
    if rev.isEmpty then st else
      let r := st.1.write start rev.reverse
      (r.1, st.2 || r.2)
  let step := fun (st : (EccMem × Bool) × Nat × Nat × List Byte) (b : Option Byte) =>
    let (acc, pos, start, rev) := st
    match b with
    | some x => (acc, pos + 1, if rev.isEmpty then pos else start, x :: rev)
    | none => (flush acc start rev, pos + 1, pos + 1, [])
  let fin := bs.foldl step ((m, false), a, a, [])
  flush fin.1 fin.2.2.1 fin.2.2.2

/-- Writes bits of the 64-bit word at `a`, a partial word under R558 unless all 64 bits are given. -/
def EccMem.writeMask (m : EccMem) (a : Nat) (bs : List (Option Bool)) : EccMem × Bool :=
  let old := m.num a 8
  let word := (List.range 64).foldl (fun acc i =>
    acc + (match (atD bs i none) with | some true => 1 | some false => 0 | none => bits old i i) * 2 ^ i) 0
  let full := decide (bs.length = 64) && bs.all Option.isSome
  if bs.all Option.isNone then (m, false)
  else if !full && (SMap.find? m.err (a / 8) == some true) then (m, true)
  else m.write a (leBytes 8 word)

/-- The result lanes of one vector: `none` leaves Y as it was (R113). -/
def VeIn.writeVec (v : VeIn) (cs : EccMem) (r c0 : Nat) (ls : List (Option Nat)) : EccMem × Bool :=
  match v.yf with
  | .mask1 => cs.writeMask (v.yAddr + 8 * (cdiv v.n0 64 * r + c0 / 64)) (ls.map (fun l => l.map (fun x => decide (x = 1))))
  | f =>
    let n := f.size2 / 2
    cs.writeRuns (v.yAddr + r * v.yPitch + c0 * n)
      (ls.flatMap (fun l => match l with | some x => (leBytes n x).map some | none => List.replicate n none))

/-- Adds the lanes of a vector to the totals. -/
def VeOut.addLanes (o : VeOut) (ls : List Lane) : VeOut :=
  { o with flags := ls.foldl (fun f l => f.add l.flags) o.flags, converted := o.converted + ls.length,
           above := ls.foldl (fun n l => n + l.above) o.above, vanish := ls.foldl (fun n l => n + l.vanish) o.vanish }

/-- R109: the first column and the number of elements of each vector of a row. -/
def vecs (n0 : Nat) : List (Nat × Nat) := (List.range (cdiv n0 64)).map (fun i => (64 * i, min 64 (n0 - 64 * i)))

/-- One vector of an element-wise operation (R108, R113, R116). -/
def veVector (op : LaneOp) (every : Bool) (v : VeIn) (o : VeOut) (r : Nat) (cn : Nat × Nat) : VeOut :=
  let ls := (List.range cn.2).map (fun i =>
    if every || v.active o.cs r (cn.1 + i) then some (veLane op v o.cs r (cn.1 + i)) else none)
  let w := v.writeVec o.cs r cn.1 (ls.map (fun l => match l with
    | some x => some x.code
    | none => if v.mz then some 0 else none))
  let sat := ((List.range cn.2).zip ls).filterMap (fun x => match x.2 with
    | some l => if l.flags.intSat = 0 then none else some (v.index r (cn.1 + x.1) / 32)
    | none => none)
  { (o.addLanes (ls.filterMap id)) with cs := w.1, bad := o.bad || w.2, satBlocks := o.satBlocks ++ sat }

/-- R108: an element-wise tensor-form operation; SELECT has every element active. -/
def veElementwise (op : LaneOp) (every : Bool) (v : VeIn) (cs : EccMem) : VeOut :=
  (List.range v.n1).foldl (fun o r => (vecs v.n0).foldl (fun o cn => veVector op every v o r cn) o) { cs := cs }

/-- ADD64 (Table 4-5): lane pairs as 64-bit integers, a pair being active when both its elements are. -/
def veAdd64 (v : VeIn) (cs : EccMem) : VeOut :=
  (List.range v.n1).foldl (fun o r => (vecs v.n0).foldl (fun o cn =>
    let ls := (List.range (cn.2 / 2)).flatMap (fun i =>
      let c := cn.1 + 2 * i
      if v.active o.cs r c && v.active o.cs r (c + 1) then
        let x := v.x o.cs r c + v.x o.cs r (c + 1) * 2 ^ 32
        let z := (v.z o.cs widenInt r c).toNat + (v.z o.cs widenInt r (c + 1)).toNat * 2 ^ 32
        let y := (x + z) % 2 ^ 64
        [some (y % 2 ^ 32), some (y / 2 ^ 32)]
      else if v.mz then [some 0, some 0] else [none, none])
    let w := v.writeVec o.cs r cn.1 ls
    { o with cs := w.1, bad := o.bad || w.2, converted := o.converted + (ls.filter Option.isSome).length }) o) { cs := cs }

/-! Reductions. -/

/-- empty ⊕ x = x; the events of ⊕ are added. -/
def optFold (f : W32 → W32 → W32 × Flags) (a b : Option W32) (fl : Flags) : Option W32 × Flags :=
  match a, b with
  | some x, some y => let r := f x y; (some r.1, fl.add r.2)
  | none, b => (b, fl)
  | a, none => (a, fl)

/-- R119: the fixed pairwise tree over 64 running values, folding the upper half onto the lower at each width. -/
def treeFold (f : W32 → W32 → W32 × Flags) : Nat → List (Option W32) → Flags → Option W32 × Flags
  | 0, p, fl => (p.headD none, fl)
  | n + 1, p, fl =>
    let w := 2 ^ n
    let rs := (List.range w).map (fun l => optFold f (atD p l none) (atD p (l + w) none) Flags.zero)
    treeFold f n (rs.map (·.1)) (rs.foldl (fun g x => g.add x.2) fl)

/-- R119: the fixed-order fold of a row's active elements, `xs` giving each element or none. -/
def rowFold (f : W32 → W32 → W32 × Flags) (xs : List (Option W32)) : Option W32 × Flags :=
  let step := fun (st : List (Option W32) × Flags) (c : Nat × Nat) =>
    let rs := (List.range 64).map (fun l =>
      optFold f (atD st.1 l none) (if l < c.2 then atD xs (c.1 + l) none else none) Flags.zero)
    (rs.map (·.1), rs.foldl (fun g x => g.add x.2) st.2)
  let fin := (vecs xs.length).foldl step (List.replicate 64 none, Flags.zero)
  treeFold f 6 fin.1 fin.2

/-- The element of a reduction: its FP32 widening, magnitude only where `absolute`. -/
def VeIn.redElem (v : VeIn) (absolute : Bool) (cs : EccMem) (r c : Nat) : W32 :=
  let x := widen32 v.xf (v.x cs r c)
  if absolute then (fabs x).1 else x

/-- One result of a reduction: activation and conversion (R116 steps 3 and 4). However many additions of the fold raise an event, the
result counts it once (DEDUCED, log entry 26). -/
def VeIn.redLane (v : VeIn) (x : W32) (fl : Flags) (r c : Nat) : Lane :=
  let x := if isNan32 x then qnan else x
  let a := actRun v.act x
  convLane32 v.yf v.e5m2Inf (v.mode r c) (fl.add a.2) a.1

/-- R119: a row reduction writes one result per row. -/
def veRowReduce (f : W32 → W32 → W32 × Flags) (absolute : Bool) (ident : W32) (v : VeIn) (cs : EccMem) : VeOut :=
  (List.range v.n1).foldl (fun o r =>
    let xs := (List.range v.n0).map (fun c => if v.active o.cs r c then some (v.redElem absolute o.cs r c) else none)
    let t := rowFold f xs
    let l := v.redLane (t.1.getD ident) t.2 r 0
    let w := v.writeVec o.cs r 0 [some l.code]
    { (o.addLanes [l]) with cs := w.1, bad := o.bad || w.2 }) { cs := cs }

/-- R120: one column folded over the active rows in ascending order. -/
def colFold (f : W32 → W32 → W32 × Flags) (absolute : Bool) (v : VeIn) (cs : EccMem) (c : Nat) : Option W32 × Flags :=
  (List.range v.n1).foldl (fun acc r =>
    if v.active cs r c then optFold f acc.1 (some (v.redElem absolute cs r c)) acc.2 else acc) (none, Flags.zero)

/-- R120: a column reduction writes its results as one row at Y_ADDR. -/
def veColReduce (f : W32 → W32 → W32 × Flags) (absolute : Bool) (ident : W32) (v : VeIn) (cs : EccMem) : VeOut :=
  let ls := (List.range v.n0).map (fun c => let t := colFold f absolute v cs c; v.redLane (t.1.getD ident) t.2 0 c)
  (vecs v.n0).foldl (fun o cn =>
    let part := (ls.drop cn.1).take cn.2
    let w := v.writeVec o.cs 0 cn.1 (part.map (fun l => some l.code))
    { (o.addLanes part) with cs := w.1, bad := o.bad || w.2 }) { cs := cs }

/-! The soft maximum. -/

/-- R121 on one row: the FP32 results with the events of each, the events of the row's sum, and whether the row is empty. -/
def softmaxRow (xs : List (Option W32)) (scale : W32) : List (W32 × Flags) × Flags × Bool :=
  let sc := xs.map (fun x => x.map (fun x => fmul x scale))
  let fl := fun (x : Option (W32 × Flags)) => match x with | some r => r.2 | none => Flags.zero
  let act := sc.filterMap (fun x => x.map (·.1))
  if act.any isNan32 then (sc.map (fun x => (qnan, fl x)), Flags.zero, false)
  else if act.all (fun x => decide (x = inf32 true)) then (sc.map (fun x => (0, fl x)), Flags.zero, true)
  else
    let k := (act.filter (fun x => decide (x = inf32 false))).length
    if k ≥ 1 then
      let q := fdiv one32 (rn32 (.fin false k 0)).1
      (sc.map (fun x => (if x.map (·.1) = some (inf32 false) then q.1 else 0, fl x)), Flags.zero, false)
    else
      let m := act.foldl (fun a x => (fmax a x).1) (inf32 true)
      let es := sc.map (fun x => x.map (fun x => let d := fsub x.1 m; let e := fexp d.1; (e.1, x.2.add (d.2.add e.2))))
      let t := rowFold fadd (es.map (fun x => x.map (·.1)))
      (es.map (fun x => match x with
        | some e => let y := fdiv e.1 (t.1.getD 0); (y.1, e.2.add y.2)
        | none => (0, Flags.zero)), t.2.lane, false)

/-- R121 to R123: the soft maximum of every row, the row-empty bitmap and the row-empty count. -/
def veSoftmax (v : VeIn) (cs : EccMem) : VeOut :=
  let step := fun (st : VeOut × List Bool) (r : Nat) =>
    let o := st.1
    let xs := (List.range v.n0).map (fun c => if v.active o.cs r c then some (widen32 v.xf (v.x o.cs r c)) else none)
    let (ys, fl, empty) := softmaxRow xs (BitVec.ofNat 32 v.s)
    let ls := ((List.range v.n0).zip ys).map (fun cy =>
      (if v.active o.cs r cy.1 then v else { v with act := 0 }).redLane cy.2.1 cy.2.2 r cy.1)
    let o := (vecs v.n0).foldl (fun o cn =>
      let part := (ls.drop cn.1).take cn.2
      let w := v.writeVec o.cs r cn.1 (part.map (fun l => some l.code))
      { (o.addLanes part) with cs := w.1, bad := o.bad || w.2 }) o
    ({ o with flags := o.flags.add fl, rowEmpty := o.rowEmpty + (if empty then 1 else 0) }, st.2 ++ [empty])
  let fin := (List.range v.n1).foldl step ({ cs := cs }, [])
  if v.reMap then
    let words := (List.range (cdiv v.n1 64)).map (fun w =>
      (List.range 64).foldl (fun acc i => acc + (if atD fin.2 (64 * w + i) false then 2 ^ i else 0)) 0)
    let w := fin.1.cs.write v.zAddr (words.flatMap (leBytes 8))
    { fin.1 with cs := w.1, bad := fin.1.bad || w.2 }
  else fin.1

/-! The histogram of R158. -/

/-- R158: the bin of an element at base exponent H. -/
def histBin (h : Int) (x : FV) : Nat :=
  match x with
  | .fin _ m e => if m = 0 then 0 else
      let l := ilog2 m e
      if l < h then 0 else if l ≥ h + 62 then 63 else (l - h + 1).toNat
  | _ => 63

/-- R158: HIST_LOG2 adds the active elements to the 64 saturating bins at Y_ADDR. -/
def veHist (v : VeIn) (cs : EccMem) : VeOut :=
  let raw := sint 16 (if v.zsrc = 3 then cs.num v.zAddr 4 else v.s)
  let h := clampInt (-149) 127 raw
  let bins := (List.range v.n1).foldl (fun (m : SMap Nat) r =>
    (List.range v.n0).foldl (fun m c =>
      if v.active cs r c then SMap.upd m (histBin h (decElem v.xf (v.x cs r c))) 0 (· + 1) else m) m) []
  let out := (List.range 64).flatMap (fun b => leBytes 4 (min 0xFFFFFFFF (cs.num (v.yAddr + 4 * b) 4 + SMap.getD bins b 0)))
  let w := cs.write v.yAddr out
  { cs := w.1, bad := w.2, flags := if h = raw then Flags.zero else { cvtSat := 1 } }

/-! Block streams (R124). -/

/-- Blocks of a row-blocked tensor in stream order: (row, first element, position in the iteration). -/
def VeIn.blocks (v : VeIn) : List (Nat × Nat × Nat) :=
  (List.range (v.n1 * (v.n0 / 32))).map (fun i => (i / (v.n0 / 32), 32 * (i % (v.n0 / 32)), i))

/-- R135: the position of block `i` of this iteration in its stream. -/
def VeIn.pos (v : VeIn) (i : Nat) : Nat := (v.zAddr - v.zOrigin) / 4 + i

/-- R116 on a stream element before its encoding: its exact value, its FP32 bits, its sign and the events of its activation. -/
def VeIn.streamElem (v : VeIn) (code : Nat) : FV × Nat × Bool × Flags :=
  if v.act = 0 then (decElem v.xf code, (widen32 v.xf code).toNat, decide (code / 2 ^ (v.xf.width - 1) % 2 = 1), Flags.zero)
  else let a := actRun v.act (widen32 v.xf code); (dec32 a.1, a.1.toNat, decide (a.1.toNat / 2 ^ 31 = 1), a.2)

/-- CVT_TO_SB (R124, R150, R151): element data, scale stream and side list. -/
def veToSB (v : VeIn) (cs : EccMem) : VeOut :=
  let step := fun (st : VeOut × List Nat) (b : Nat × Nat × Nat) =>
    let (o, side) := st
    let (r, c0, i) := b
    let p := v.pos i
    let side := if p % 32 = 0 || i = 0 then [] else side
    let raw := (List.range 32).map (fun l => v.streamElem (v.x o.cs r (c0 + l)))
    let xs := (raw.zip (List.range 32)).map (fun y => (y.1.1, y.1.2.1, y.1.2.2.1, v.mode r (c0 + y.2)))
    let (codes, word, side', fl) := sbEncode v.yf (v.s % 64 + p) side xs
    let fl := raw.foldl (fun g y => g.add y.2.2.2.lane) fl
    let w1 := o.cs.write (v.yAddr + r * v.yPitch + c0 * v.yf.size2 / 2) (sbPack v.yf codes)
    let w2 := w1.1.write (v.zOrigin + 4 * p) (leBytes 4 word)
    let last := decide (p % 32 = 31) || decide (i + 1 = v.n1 * (v.n0 / 32))
    let ents := if last then side' ++ List.replicate (8 - side'.length) 0 else side'
    let w3 := if last then w2.1.write (v.sideAddr + 32 * (p / 32)) (ents.flatMap (leBytes 4)) else (w2.1, false)
    ({ o with cs := w3.1, bad := o.bad || w1.2 || w2.2 || w3.2, flags := o.flags.add fl, converted := o.converted + 32,
              above := o.above + fl.cvtSat,
              vanish := o.vanish + ((xs.zip codes).filter (fun y =>
                y.1.1.isNonzero && !sbIsEsc v.yf y.2 && ((decSBElem v.yf y.2).getD .nan).isZero)).length }, side')
  (v.blocks.foldl step ({ cs := cs }, [])).1

/-- CVT_FROM_SB (R124, R126, R136, R138, R149): stops at the first scale word that fails its checks. -/
def veFromSB (v : VeIn) (cs : EccMem) : VeOut :=
  v.blocks.foldl (fun o b =>
    if o.fault then o else
    let (r, c0, i) := b
    let p := v.pos i
    let word := o.cs.num (v.zOrigin + 4 * p) 4
    let codes := (List.range 32).map (fun l => v.x o.cs r (c0 + l))
    if scaleOk v.xf word (v.s % 64 + p) codes then
      let side := (List.range 8).map (fun j => o.cs.num (v.sideAddr + 32 * (p / 32) + 4 * j) 4)
      let vals := sbDecode v.xf word side codes
      let wide := (vals.zip codes).zip (List.range 32)
      let ls := wide.map (fun y =>
        let cl := match y.1.1 with
          | .fin s m e => if m ≠ 0 && decide (ilog2 m e ≥ 128) then (FV.inf s, 1) else (FV.fin s m e, 0)
          | x => (x, 0)
        let esc := sbIsEsc v.xf y.1.2
        let k := (codes.take y.2).filter (sbIsEsc v.xf)
        let x32 := if esc && decide (bits word 7 0 ≠ 255) then BitVec.ofNat 32 (atD side (bits word 19 16 + k.length) 0)
                   else (rn32 cl.1).1
        let a := actRun v.act x32
        let fl := a.2.add { overflow := cl.2, underflow := (selected x32).2.underflow }
        convLane32 v.yf v.e5m2Inf (v.mode r (c0 + y.2)) fl a.1)
      let w := v.writeVec o.cs r c0 (ls.map (fun l => some l.code))
      { (o.addLanes ls) with cs := w.1, bad := o.bad || w.2, escVectors := o.escVectors + (if bits word 23 20 = 0 then 0 else 1) }
    else { o with fault := true, stop := b }) { cs := cs }

/-- CVT_BI32 (R113, R124, R143, R144, R152): stops when data and exponents are out of step, with the blocks before that one written
(DESIGN CHOICE, log entry 29). -/
def veBI32 (v : VeIn) (cs : EccMem) : VeOut :=
  v.blocks.foldl (fun o b =>
    if o.fault then o else
    let (r, c0, i) := b
    let p := v.pos i
    match expWord (o.cs.num (v.zOrigin + 4 * p) 4) (v.s % 64 + p) with
    | none => { o with fault := true, stop := b }
    | some ex =>
      -- masked elements take no part (R113)
      let es := (List.range 32).map (fun l =>
        if v.active o.cs r (c0 + l) then some (v.streamElem (v.x o.cs r (c0 + l))) else none)
      let xs := es.map (fun e => e.map (·.1))
      let o := { o with flags := (es.filterMap id).foldl (fun (g : Flags) (e : FV × Nat × Bool × Flags) => g.add e.2.2.2.lane) o.flags }
      let masked := if v.mz then some 0 else none
      if ex = 0x7FFF then
        let w := v.writeVec o.cs r c0 (xs.map (fun x => if x.isSome then some 0 else masked))
        { o with cs := w.1, bad := o.bad || w.2 }
      else
        let qs := (xs.zip (List.range 32)).map (fun y => y.1.map (fun x => toBI (v.mode r (c0 + y.2)) ex x))
        if (xs.filterMap id).all FV.isFin && (qs.filterMap id).all (fun (q : Int) => decide (q.natAbs ≤ 2 ^ 19)) then
          let w := v.writeVec o.cs r c0 (qs.map (fun q => match q with | some q => some (ofInt 32 q) | none => masked))
          { o with cs := w.1, bad := o.bad || w.2, converted := o.converted + (qs.filterMap id).length }
        else { o with fault := true, stop := b }) { cs := cs }

/-! Register form (R105). -/

/-- The fields of a register-form entry (Table 4-1, R105). -/
structure RegIn where
  act : Nat := 0
  s : W32 := 0
  zs : Bool := false
  yr : Nat := 0
  zr : Nat := 0
  xr : Nat := 0
  addr : Nat := 0
  deriving DecidableEq, Repr

/-- Table 4-1, register form. -/
def regIn (q : QEntry) : RegIn :=
  let o := q.entry.oper
  { act := bits q.entry.imm 6 4, s := BitVec.ofNat 32 (bits o 47 16), zs := decide (bits o 15 15 = 1), yr := bits o 14 10,
    zr := bits o 9 5, xr := bits o 4 0, addr := bits o 36 16 }

/-- All 64 lanes of a register. -/
def regLanes (regs : SMap W32) (k : Nat) : List W32 := (List.range 64).map (regLane regs k)

/-- Writes all 64 lanes of a register. -/
def setReg (regs : SMap W32) (k : Nat) (ls : List W32) : SMap W32 :=
  (List.range 64).foldl (fun m l => SMap.setW m (64 * k + l) (atD ls l 0)) regs

/-- R105: a register-form operation on all 64 lanes, FP32 or INT32. -/
def veRegister (op : LaneOp) (x : RegIn) (regs : SMap W32) : SMap W32 × Flags :=
  let zs := if x.zs then List.replicate 64 x.s else regLanes regs x.zr
  let ls := ((regLanes regs x.xr).zip zs).map (fun (p : W32 × W32) =>
    match op with
    | .float f => let o := f x.s p.1 p.2; let a := actRun x.act o.1; (a.1, (o.2.add a.2).lane)
    | .sign f _ => actRun x.act (f p.1)
    | .int f => let o := f 32 p.1.toNat p.2.toNat; (BitVec.ofNat 32 o.1, ({ intSat := o.2 } : Flags))
    | _ => (p.1, Flags.zero))
  (setReg regs x.yr (ls.map (·.1)), Flags.sum (ls.map (·.2)))

/-- R105: a register-form ADD64 on the 32 lane pairs. -/
def veRegAdd64 (x : RegIn) (regs : SMap W32) : SMap W32 :=
  let zs := if x.zs then List.replicate 64 x.s else regLanes regs x.zr
  let xs := regLanes regs x.xr
  let pair := fun (l : List W32) (i : Nat) => (atD l (2 * i) 0).toNat + (atD l (2 * i + 1) 0).toNat * 2 ^ 32
  setReg regs x.yr ((List.range 32).flatMap (fun i =>
    let y := pair xs i + pair zs i
    [BitVec.ofNat 32 y, BitVec.ofNat 32 (y / 2 ^ 32)]))

/-- R105: a register-form row reduction leaves its result in lane 0 and +0 in the others. -/
def veRegReduce (f : W32 → W32 → W32 × Flags) (absolute : Bool) (x : RegIn) (regs : SMap W32) : SMap W32 × Flags :=
  let xs := (regLanes regs x.xr).map (fun v => some (if absolute then (fabs v).1 else v))
  let t := rowFold f xs
  let v := t.1.getD 0
  let a := actRun x.act (if isNan32 v then qnan else v)
  (setReg regs x.yr [a.1], (t.2.add a.2).lane)

/-! Reads and costs. -/

/-- R109: vectors that a tensor-form entry processes. -/
def VeIn.vectors (v : VeIn) : Nat := if v.n0 ≤ 32 then cdiv v.n1 2 else v.n1 * cdiv v.n0 64

/-- Half-size of an element format, a MASK1 element counted in whole words. -/
def rowBytes (f : Fmt) (n : Nat) : Nat := if f.size2 = 0 then 8 * cdiv n 64 else (n * f.size2 + 1) / 2

/-- Table 4-11: beats per vector, the beats per row and the beats after the vectors of each group of operations. -/
structure VeCost where
  perVector : Nat := 1
  perRow : Nat := 0
  last : Nat := 0
  deriving DecidableEq, Repr

/-- R128: beats from start to completion, an activation of kind 2 or 3 taking at least 2 beats per vector. -/
def veBeats (k : VeCost) (act vectors rows extra : Nat) : Nat :=
  8 + (if act ≥ 2 then max 2 k.perVector else k.perVector) * vectors + k.perRow * rows + k.last + extra + 6

/-- The rows of X in the core store that an entry reads (R44, R108): none where X comes from a tile. -/
def VeIn.xRows (v : VeIn) : List (Nat × Nat) :=
  if v.tile.isSome then [] else (List.range v.n1).map (fun r => (v.xAddr + r * v.xPitch, rowBytes v.xf v.n0))

/-- The bytes of Z that an element-wise entry reads. -/
def VeIn.zRows (v : VeIn) : List (Nat × Nat) :=
  match v.zsrc with
  | 1 => (List.range v.n1).map (fun r => (v.zAddr + r * v.zPitch, rowBytes v.zf v.n0))
  | 3 => [(v.zAddr, v.n1 * (v.zf.size2 / 2))]
  | _ => []

/-- The mask words of an entry. -/
def VeIn.maskRows (v : VeIn) : List (Nat × Nat) := if v.maskEn then [(v.maskAddr, 8 * cdiv v.n0 64 * v.n1)] else []

/-- The rows of Y that an element-wise entry writes. -/
def VeIn.yRows (v : VeIn) : List (Nat × Nat) :=
  match v.yf with
  | .mask1 => [(v.yAddr, 8 * cdiv v.n0 64 * v.n1)]
  | f => (List.range v.n1).map (fun r => (v.yAddr + r * v.yPitch, rowBytes f v.n0))

/-- R114: whether a 64-byte line of a byte range is uncorrectable. -/
def EccMem.badLines (m : EccMem) (a n : Nat) : Bool := decide (0 < n) && m.bad (a / 64 * 64) ((a + n + 63) / 64 * 64 - a / 64 * 64)

/-- R114: whether a 64-byte line that the entry reads for an active element of X or Z is uncorrectable; `every` makes all elements
active. -/
def VeIn.readBad (v : VeIn) (cs : EccMem) (useZ every : Bool) : Bool :=
  let badLine := fun (a : Nat) => cs.err.any (fun e => e.2 && decide (e.1 / 8 = a / 64))
  if cs.err.all (fun e => !e.2) then false else
  (v.maskRows.any (fun r => cs.bad r.1 r.2)) ||
  (List.range v.n1).any (fun r => (List.range v.n0).any (fun c =>
    (every || v.active cs r c) &&
    ((v.tile.isNone && badLine (v.xAddr + r * v.xPitch + c * v.xf.size2 / 2)) ||
     (useZ && (match v.zsrc with
       | 1 => badLine (v.zAddr + r * v.zPitch + c * v.zf.size2 / 2)
       | 3 => badLine (v.zAddr + r * (v.zf.size2 / 2))
       | _ => false)))))

end Sys2Proof.Machine
end

