-- ==== Sys2Proof/Machine/Ops.lean ====
section
/-! DEFINITION. The named operations that several families share: interrupts (R377), the journal queue (R452, R453),
error records, strikes and quarantine (R470, R471, R488, R489), step aborts and local re-execution (R473 to R475),
messages (R338 to R341), and the start and completion of step-table entries (R44, R47 to R60). -/

namespace Sys2Proof.Machine

open Sys2Proof

/-! Interrupts and board signals. -/

/-- Whether MSI-X vector `v` is masked: bit 32 of the second word of its table entry, set at start (log entry 12). -/
def State.msixMasked (s : State) (v : Nat) : Bool :=
  match SMap.find? s.regs (0x03FF0008 + 16 * v) with
  | some w => decide (Word.fld w 32 32 = 1)
  | none => true

/-- R377: sets cause `v` and sends its vector when the bit was clear, is enabled and the vector is unmasked. -/
def State.raiseInt (s : State) (v : Nat) : State :=
  if s.rfld hlIntStatus v v = 1 then s
  else
    let s' := s.setBit hlIntStatus v
    if s.rfld hlIntEnable v v = 1 && !s.msixMasked v then s'.emit (.msix v) else s'

/-- Table 16-10: the conditions that hold MOD_FAULT# asserted. -/
def State.modFaultNow (s : State) : Bool :=
  decide (s.rfld startStatus 4 4 = 1) || decide (s.rfld faultStatus 4 4 = 1) || decide (s.rfld gdStatus 2 2 = 1) ||
  decide (s.rfld (imgReg 0) 2 2 = 1) || !s.lasers.isEmpty || decide (s.rfld (pgReg 0) 8 8 = 1)

/-- Table 16-10: MOD_FAULT# follows its conditions, and SMB_ALERT# is set when it changes. -/
def State.refreshPins (s : State) : State :=
  let m := s.modFaultNow
  if m = s.pins.modFault then s else { s with pins := { s.pins with modFault := m, smbAlert := true } }

/-! The journal queue. -/

/-- The key of a journal entry (Table 15-8); none for the entries that are appended. -/
def JEntry.key (e : JEntry) : Option Nat :=
  let w := (e.body.headD 0).toNat
  match e.kind with
  | 1 => some (w % 2 ^ 32)
  | 2 => some (w % 64)
  | 3 => some (w % 16)
  | 4 => some 0
  | 5 => some (w % 64)
  | 6 => some 0
  | 8 => some (w % 4)
  | _ => none

/-- Whether two entries are of one item. -/
def JEntry.same (a b : JEntry) : Bool := decide (a.kind = b.kind) && a.key.isSome && decide (a.key = b.key)

/-- R453: keeps the last entry of each key. -/
def coalesce (q : List JEntry) : List JEntry :=
  q.foldl (fun acc e => (acc.filter (fun x => !x.same e)) ++ [e]) []

/-- R452, R453: queues an entry in the retention RAM; a full RAM coalesces by key, and drops new ERROR entries into the
running total of a LOST entry. -/
def State.jqueue (s : State) (e : JEntry) : State :=
  let j := s.journal
  if j.queue.length < 3584 then { s with journal := { j with queue := j.queue ++ [e] } }
  else if e.kind = 7 then
    let lost := j.lost + 1
    let le : JEntry := { kind := 0x0B, body := [BitVec.ofNat 64 lost] }
    { s with journal := { j with lost := lost, queue := (coalesce j.queue).filter (fun x => decide (x.kind ≠ 0x0B)) ++ [le] } }
  else
    { s with journal := { j with queue := coalesce (j.queue ++ [e]) } }

/-! Error records. -/

/-- The power domain of a unit (Table 16-4, Table 15-1). -/
def unitDomain (unit index : Nat) : Nat :=
  match unit with
  | 8 => 44 + index / 128
  | 9 | 10 => 32 + index
  | 11 => 46
  | 12 => 47
  | 13 | 19 => 48
  | 14 => 49
  | 15 => 40 + index / 4
  | 16 => 40 + index
  | 17 | 18 => index
  | _ => index / 8

/-- Table 16-2: words 0 to 7 of a record. -/
def State.recordWords (s : State) (e : ErrInfo) (idx : Nat) : List Word :=
  let dom := unitDomain e.unit e.index
  let pace := if e.unit ≤ 7 then s.rfld (pgReg (0x1000 + 8 * e.index)) 15 0 else 0
  let volt := s.rfld (pgReg (0x800 + 16 * dom)) 15 0
  let temp := s.rfld (pgReg (0x808 + 16 * dom)) 15 0
  let w4 := match e.q with
    | some q => (if q.entry.next then 2 ^ 23 else 0) + (if q.entry.dv then 2 ^ 22 else 0) + q.entry.desc % 1024 * 2 ^ 12 + q.num % 4096
    | none => 0
  [e.index % 2 ^ 16 * 2 ^ 32 + e.action % 8 * 2 ^ 26 + e.slot % 4 * 2 ^ 24 + e.unit % 256 * 2 ^ 16 + e.code % 2 ^ 16,
   e.step,
   e.phase % 16 * 2 ^ 56 + (s.job e.slot).attempt % 256 * 2 ^ 48 + s.now,
   dom % 64 * 2 ^ 48 + pace * 2 ^ 32 + volt * 2 ^ 16 + temp,
   idx % 2 ^ 32 * 2 ^ 32 + w4, e.d5, e.d6, e.d7].map (BitVec.ofNat 64)

/-- Writes words at rising register offsets. -/
def State.setRegs (s : State) (o : Nat) : List Word → State
  | [] => s
  | w :: ws => State.setRegs (s.setReg o w) (o + 8) ws

/-- R471: places one record in the window and the journal and raises ERROR; ACTION 4 to 7 also sets the summary and
SMB_ALERT# (Table 16-10, Table 16-12). A record of class 0x01, 0x02, 0x03 or 0x08 fails a Flint run (R493). -/
def State.writeRecord (s : State) (e : ErrInfo) : State :=
  let idx := s.regN (faultReg 8)
  let ws := s.recordWords e idx
  let s := s.setRegs (0x240000 + 64 * (idx % 4096)) ws
  let s := s.setReg (faultReg 8) (BitVec.ofNat 64 (idx + 1))
  let s := if s.regN (faultReg 0x10) + 4096 < idx + 1 then s.setReg (faultReg 0x10) (BitVec.ofNat 64 (idx + 1 - 4096)) else s
  let s := (s.jqueue { kind := 7, body := ws }).raiseInt 0
  let s := s.setBit faultStatus 0
  let s := if s.faults.flintPoint.isSome && [1, 2, 3, 8].contains (e.code / 256) then
      { s with faults := { s.faults with flintFailed := true } }
    else s
  if e.action ≥ 4 then
    let s := (s.setFld (faultReg 0x50) 31 16 e.code).setFld (faultReg 0x50) 63 32 (idx % 2 ^ 32)
    { s with pins := { s.pins with smbAlert := true } }
  else s

/-- R488: the codes that cost a strike. -/
def strikeCode (code : Nat) : Bool :=
  (0x0103 ≤ code && code ≤ 0x0106) || [0x0201, 0x0202, 0x0301, 0x0303, 0x0A03].contains code

/-- R489, Table 16-3: the module quarantines itself; the record holds the strikes and the codes of the last two. -/
def State.quarantine (s : State) (cause : Nat) : State :=
  if s.rfld faultStatus 4 4 = 1 then s
  else
    let codes := s.faults.strikes.map (·.1)
    let last := atD codes (codes.length - 1) 0
    let prev := if codes.length < 2 then 0 else atD codes (codes.length - 2) 0
    let s := s.writeRecord { code := 0x0B04, action := 5, step := (s.job 0).committed, d5 := codes.length, d6 := last, d7 := prev }
    let s := s.jqueue { kind := 6, body := [BitVec.ofNat 64 (1 + cause % 2 ^ 16 * 2 ^ 16), BitVec.ofNat 64 (s.job 0).committed] }
    let s := (s.setBit faultStatus 4).updJob 0 (fun j => { j with wantReshard := true })
    s.refreshPins

/-- R488: strikes older than `fault.strike_window_steps` committed steps expire. -/
def State.expireStrikes (s : State) : State :=
  let now := (s.job 0).committed
  { s with faults := { s.faults with strikes := s.faults.strikes.filter (fun n => decide (now ≤ n.2 + s.cfgV 0 0x8B05 0 1000000)) } }

/-- R488: takes one strike, kept with its code and the committed step; the limit quarantines. -/
def State.strike (s : State) (code : Nat) : State :=
  let s := s.expireStrikes
  let s := { s with faults := { s.faults with strikes := s.faults.strikes ++ [(code, (s.job 0).committed)] } }
  let s := s.setBit faultStatus 1
  if s.faults.strikes.length ≥ s.cfgV 0 0xB00 0 2 then s.quarantine code else s

/-- R471, R472, R488: an error event. After `fault.records_per_code_s` records of one code in one second of local time,
the event is only counted in SV_FAULT_SUPPRESSED. -/
def State.raiseError (s : State) (e : ErrInfo) : State :=
  let sec := s.now / 1000000
  let counts := if s.faults.second = sec then s.faults.codeCounts else []
  let n := SMap.getD counts e.code 0
  let s := { s with faults := { s.faults with second := sec, codeCounts := SMap.put counts e.code (n + 1) } }
  if n ≥ s.cfgV 0 0x8B09 0 16 then s.inc (faultReg 0x18) 1
  else
    let s := s.writeRecord e
    if strikeCode e.code then s.strike e.code else s

/-! Step aborts and local re-execution. -/

/-- R473: a phase that can be re-executed locally, with NEXT = 0. -/
def reexecPhaseOk (phase : Nat) (next : Bool) : Bool := !next && [3, 4, 6, 9].contains phase

/-- R559: the worst cause a slot will vote. -/
def State.voteCause (s : State) (slot cause : Nat) : State := s.updJob slot (fun j => { j with cause := max j.cause cause })

/-- R474, R475: what an event that stops an entry of a phase leads to, as its ACTION and its effect on the slot. `either`
marks the codes whose ACTION reads 2 or 3. Phase 9 after the all-ok result re-executes or loses its inputs (R559). -/
def State.stopEffect (s : State) (slot phase : Nat) (next either : Bool) : Nat × State :=
  let j := s.job slot
  let retry := reexecPhaseOk phase next && (either || decide (phase = 9)) && decide (SMap.getD j.reexecs phase 0 < s.cfgV 0 0x8B03 0 2)
  if retry then (2, s.updJob slot (fun j => { j with reexecPhase := phase, replay := none }))
  else if phase = 9 && !next then (4, s.voteCause slot 0x3001)
  else if phase = 10 && !next then (4, s.voteCause slot 0x3001)
  else (3, s.voteCause slot 0x2001)

/-- Table 16-2: STEP of an entry's record: the slot's step, and for phase 2 work with NEXT = 1 the step it prepares. -/
def QEntry.recordStep (q : QEntry) : Nat := if q.entry.next && decide (q.entry.phase ≠ 2) then q.step - 1 else q.step

/-- An error event of an entry: its action (R474, R475) and its record. -/
def State.entryError (s : State) (code c slot : Nat) (q : QEntry) (either : Bool) (d5 d6 d7 : Nat) : State :=
  let r := s.stopEffect slot q.entry.phase q.entry.next either
  r.2.raiseError { code := code, unit := q.entry.unit, index := c, slot := slot, action := r.1, step := q.recordStep,
                   phase := q.entry.phase, q := some q, d5 := d5, d6 := d6, d7 := d7 }

/-- An error event of the service complex, a row engine, a memory controller or the host link in a phase of a step. -/
def State.serviceError (s : State) (code unit index slot step phase d5 d6 d7 : Nat) : State :=
  let r := s.stopEffect slot phase false false
  r.2.raiseError { code := code, unit := unit, index := index, slot := slot, action := r.1, step := step, phase := phase,
                   d5 := d5, d6 := d6, d7 := d7 }

/-- R243, R559: the loss of an input of phase 9 or of committed state: ACTION 4, and the cause INPUTS_LOST. -/
def State.inputsLost (s : State) (code unit index slot step phase d5 d6 d7 : Nat) : State :=
  (s.voteCause slot 0x3001).raiseError { code := code, unit := unit, index := index, slot := slot, action := 4, step := step,
                                          phase := phase, d5 := d5, d6 := d6, d7 := d7 }

/-! Messages (Table 12-1). -/

end Sys2Proof.Machine

namespace Sys2Proof

open Sys2Proof.Machine

/-- KIND. -/
def Message.kind (m : Message) : Nat := Word.fld m.w0 63 56
/-- SLOT. -/
def Message.slot (m : Message) : Nat := Word.fld m.w0 55 54
/-- DST. -/
def Message.dst (m : Message) : Nat := Word.fld m.w0 51 40
/-- SRC. -/
def Message.src (m : Message) : Nat := Word.fld m.w0 39 28
/-- LEN. -/
def Message.len (m : Message) : Nat := Word.fld m.w0 12 0
/-- STEP_LO. -/
def Message.stepLo (m : Message) : Nat := Word.fld m.w1 63 32
/-- ATTEMPT. -/
def Message.attempt (m : Message) : Nat := Word.fld m.w1 31 24
/-- TAG. -/
def Message.tag (m : Message) : Nat := Word.fld m.w1 23 0
/-- OBJECT. -/
def Message.object (m : Message) : Nat := Word.fld m.w2 63 48
/-- OFFSET. -/
def Message.offset (m : Message) : Nat := Word.fld m.w2 47 0
/-- The body as bytes. -/
def Message.bytes (m : Message) : List Byte := wordsBytes m.body

/-- PARITY of Table 12-1. -/
def Message.parity (m : Message) : Word := m.body.foldl (· ^^^ ·) (m.w0 ^^^ m.w1 ^^^ m.w2)

/-- R341: the reserved fields of a body that has any are zero: those of a beacon (Table 11-5), of a COUNT of a round (Table 12-2) and
of a hold notice (R360). -/
def Message.bodyGood (m : Message) : Bool :=
  let w := fun (i : Nat) => (m.body[i]?).getD 0
  if m.kind = 1 then
    decide (Word.fld (w 2) 63 20 = 0) && (List.range (Word.fld (w 2) 4 0)).all (fun i => decide (Word.fld (w (6 + 2 * i)) 63 8 = 0))
  else if m.kind = 2 then decide (m.tag = 0) || decide (Word.fld (w 0) 63 9 = 0)
  else if m.kind = 0x1B || m.kind = 0x1C then decide (Word.fld (w 0) 15 4 = 0) && decide (Word.fld (w 0) 63 28 = 0)
  else true

/-- R341: PARITY holds, and the reserved fields of the envelope and of the body are zero. -/
def Message.good (m : Message) : Bool :=
  decide (m.parity = m.w3) && decide (Word.fld m.w0 53 52 = 0) && decide (Word.fld m.w0 27 13 = 0) &&
  decide (m.len = 8 * m.body.length % 8192) && m.bodyGood

/-- Table 12-2: the response class. -/
def Message.response (m : Message) : Bool := [0x04, 0x11, 0x19, 0x1C].contains m.kind

/-- R338: flits of a message, 116 bytes of payload each. -/
def Message.flits (m : Message) : Nat := cdiv (32 + 8 * m.body.length) 116

end Sys2Proof

namespace Sys2Proof.Machine

open Sys2Proof

/-- A message with its PARITY. -/
def mkMessage (kind slot dst src step attempt tag object offset : Nat) (body : List Word) : Message :=
  let m : Message :=
    { w0 := BitVec.ofNat 64 (kind % 256 * 2 ^ 56 + slot % 4 * 2 ^ 54 + dst % 4096 * 2 ^ 40 + src % 4096 * 2 ^ 28 + 8 * body.length % 8192),
      w1 := BitVec.ofNat 64 (step % 2 ^ 32 * 2 ^ 32 + attempt % 256 * 2 ^ 24 + tag % 2 ^ 24),
      w2 := BitVec.ofNat 64 (object % 2 ^ 16 * 2 ^ 48 + offset % 2 ^ 48), body := body }
  { m with w3 := m.parity }

/-- The own fabric rank, 0 while none is valid. -/
def State.ownRank (s : State) : Nat := s.fabric.rank.getD 0

/-- R339, XU_MSG_TX: hands a message to the XU; one to the own rank passes through without touching a port. -/
def State.send (s : State) (m : Message) : State :=
  let s := s.inc (xuReg 8) 1
  if s.fabric.rank = some m.dst then { s with inbox := s.inbox ++ [m] }
  else { s with router := s.router ++ [{ msg := m }] }

/-- Sends a message of a slot to a rank, with the slot's attempt (R340). -/
def State.sendTo (s : State) (kind slot rank step tag object offset : Nat) (body : List Word) : State :=
  s.send (mkMessage kind slot rank s.ownRank step (s.job slot).attempt tag object offset body)

/-- The fabric rank of a position of a slot's job (R349). -/
def State.rankOf (s : State) (slot pos : Nat) : Nat := atD (s.job slot).ranks pos 0

/-- The position of a rank in a slot's job. -/
def State.posOf (s : State) (slot rank : Nat) : Option Nat :=
  let l := (s.job slot).ranks
  let i := l.findIdx (· == rank)
  if i < l.length then some i else none

/-- The number of members of a slot's job. -/
def State.memberCount (s : State) (slot : Nat) : Nat := (s.job slot).ranks.length

/-- R483, stages 1 to 5: the slot is in rollback. -/
def State.inRollback (s : State) (slot : Nat) : Bool :=
  (s.job slot).stopped || (slot = 0 && decide (s.rfld faultStatus 2 2 = 1))

/-- R340: the steps that a slot has open for a KIND; the closing kinds and permutes also name the committed step. -/
def State.openStep (s : State) (slot kind step : Nat) : Bool :=
  let c := (s.job slot).committed
  decide (step = (c + 1) % 2 ^ 32) || decide (step = (c + 2) % 2 ^ 32) ||
  ([0x18, 0x19, 0x1A, 0x1B, 0x1C, 0x20, 0x10, 0x11].contains kind && decide (step = c % 2 ^ 32))

/-- A fragment of a closing round. -/
def closingFragment (m : Message) : Bool := [0x18, 0x19].contains m.kind && decide (m.tag = 1)

/-- R340: a message whose slot, attempt or step is not current; a slot in rollback takes rollback-round fragments only,
which have ATTEMPT 0 (R483, R485). Until its
admission restore names its step, the primary has every step of the admission round open (R461). -/
def State.stale (s : State) (m : Message) : Bool :=
  let j := s.job m.slot
  if s.inRollback m.slot then !(closingFragment m && decide (m.attempt = 0))
  else !(j.member && decide (m.attempt = j.attempt) &&
    (s.openStep m.slot m.kind m.stepLo || (decide (m.kind = 2) && decide (m.tag = 0) && decide (m.stepLo = j.committed % 2 ^ 32)) ||
     (closingFragment m && decide (m.slot = 0) && (s.stage = 6 || s.stage = 7))))

/-- The full step that STEP_LO names, nearest the slot's committed step. -/
def State.fullStep (s : State) (m : Message) : Nat :=
  let c := (s.job m.slot).committed
  if m.stepLo = (c + 1) % 2 ^ 32 then c + 1 else if m.stepLo = (c + 2) % 2 ^ 32 then c + 2 else c

/-- R341: the unit code of the sink of a KIND. -/
def sinkUnit (kind : Nat) : Nat :=
  match kind with
  | 3 | 5 => 9
  | 4 => 5
  | 2 | 0x10 | 0x11 => 8
  | _ => 13

/-- R340, R341: what a sink does with an arriving message before its effect: a stale or bad message is discarded,
counted, and a bad one aborts its step; a good one counts XU_MSG_RX and takes effect. -/
def State.sink (s : State) (kind : Nat) (m : Message) (f : State → State) : State :=
  if m.kind ≠ kind then s
  else
    let s := { s with inbox := s.inbox.erase m }
    if !m.good then
      let s := s.inc (xuReg 0x18) 1
      s.serviceError 0x0404 (sinkUnit kind) 0 m.slot (s.fullStep m) 0 m.kind m.src m.tag
    else if s.stale m then s.inc (xuReg 0x20) 1
    else f (s.inc (xuReg 0x10) 1)

/-! The position tree (R349). -/

/-- The lowest non-zero base-8 digit of `r` set to 0. -/
def treeParentAux : Nat → Nat → Nat → Nat
  | 0, r, _ => r
  | n + 1, r, w => if r / w % 8 = 0 then treeParentAux n r (8 * w) else r - r / w % 8 * w

/-- R349: the parent of relative position `r`. -/
def treeParent (r : Nat) : Nat := treeParentAux 4 r 1

/-- R349: the parent position of member `i` in the tree rooted at `o` of `n` members; none for the root. -/
def parentPos (n o i : Nat) : Option Nat :=
  let r := (i + n - o) % n
  if r = 0 then none else some ((treeParent r + o) % n)

/-- R349: the children of member `i`, by ascending relative position. -/
def childPos (n o i : Nat) : List Nat :=
  let r := (i + n - o) % n
  (List.range n).filterMap (fun q => if q ≠ 0 && treeParent q = r then some ((q + o) % n) else none)

/-! Step tables. -/

/-- R45: entry `i` of a slot's table, as the 128 bits of the step-table memory. -/
def CoreState.entryAt (k : CoreState) (slot i : Nat) : Entry :=
  decodeEntry (k.table.num (64 * (k.slot slot).entryLine + 16 * i) 16)

/-- R45: entries of a slot's region. -/
def CoreSlot.entries (k : CoreSlot) : Nat := 4 * k.entryLines

/-- R64: the eight words of descriptor `d` of a slot. -/
def CoreState.descAt (k : CoreState) (slot d : Nat) : List Nat :=
  (List.range 8).map (fun w => k.table.num (64 * ((k.slot slot).descLine + d) + 8 * w) 8)

/-- Loop indices, innermost first. -/
def CoreSlot.idx (k : CoreSlot) : List Nat := k.loops.map (·.index)

/-- R124: the flattened iteration over the enclosing loops, the innermost fastest. -/
def CoreSlot.flat (k : CoreSlot) : Nat :=
  k.loops.reverse.foldl (fun acc f => acc * f.count + f.index) 0

/-- R59: the microbatch index of the enclosing microbatch loop, for the member at position `p` of `n`. -/
def CoreSlot.mb (k : CoreSlot) (p n : Nat) : Option Nat :=
  match k.loops.find? (·.mb) with
  | some f => some (p + n * f.index)
  | none => none

/-- R58: the dispatch position after the entry at `pc`, leaving every loop whose body ends there. -/
def wrapLoops : Nat → Nat → List LoopFrame → Nat × List LoopFrame
  | 0, pc, ls => (pc, ls)
  | n + 1, pc, ls =>
    match ls with
    | [] => (pc, [])
    | f :: rest =>
      if pc = f.stop then
        if f.index + 1 < f.count then (f.start, { f with index := f.index + 1 } :: rest)
        else wrapLoops n pc rest
      else (pc, ls)

/-- Moves the dispatch of a slot to a position. -/
def CoreSlot.goTo (k : CoreSlot) (pc : Nat) : CoreSlot :=
  let r := wrapLoops (k.loops.length + 1) pc k.loops
  { k with pc := r.1, loops := r.2 }

/-- The dispatch position moves past the current entry. -/
def CoreSlot.next (k : CoreSlot) : CoreSlot := k.goTo (k.pc + 1)

/-- A core dispatches for a slot: its table is loaded, the slot is neither stopped nor halted, and no local
re-execution replays (R73). -/
def State.dispatching (s : State) (c slot : Nat) : Bool :=
  let k := s.core c
  let j := s.job slot
  (k.slot slot).loaded && j.member && !j.stopped && !j.halted && decide (j.reexecPhase = 0) &&
  decide ((k.slot slot).pc < (k.slot slot).entries)

/-! Tokens (R52 to R56). -/

/-- A token counter. -/
def CoreSlot.token (k : CoreSlot) (t : Nat) : Nat := SMap.getD k.tokens t 0

/-- Sets a token counter. -/
def CoreSlot.setToken (k : CoreSlot) (t v : Nat) : CoreSlot := { k with tokens := SMap.put k.tokens t v }

/-- The tokens that two fields name. -/
def tokenList (a b : Nat) : List Nat := (tokenOf a).toList ++ (tokenOf b).toList

/-- R54: every waited counter holds at least the number of fields that name it. -/
def CoreSlot.waitsMet (k : CoreSlot) (e : Entry) : Bool :=
  let ts := tokenList e.waitA e.waitB
  ts.all (fun t => decide (ts.count t ≤ k.token t))

/-- R54: the waits are taken in one action. -/
def CoreSlot.takeWaits (k : CoreSlot) (e : Entry) : CoreSlot :=
  (tokenList e.waitA e.waitB).foldl (fun k t => k.setToken t (k.token t - 1)) k

/-- R55: whether the signals of an entry fit below 256. -/
def CoreSlot.signalsFit (k : CoreSlot) (ts : List Nat) : Bool :=
  ts.all (fun t => decide (k.token t + ts.count t ≤ 255))

/-- R54: the signals of a completion. -/
def CoreSlot.signal (k : CoreSlot) (ts : List Nat) : CoreSlot := ts.foldl (fun k t => k.setToken t (k.token t + 1)) k

/-- R52: signals a counter up to `n` times, stopping at 255; the answer counts the signals given. -/
def CoreSlot.signalUpTo (k : CoreSlot) (t n : Nat) : CoreSlot × Nat :=
  let room := 255 - k.token t
  let g := min n room
  (k.setToken t (k.token t + g), g)

/-! Gates (R49). -/

/-- R49: whether the sequencer's gates are open for an entry of a slot. `hardStep` is the step after which the boundary
is hard, `okStep` the last step with an all-ok step result, `closedStep` the last with an all-ok closing round. Phase 9 also waits
for the sweep records of the steps before (R390), and a slot that has lost its inputs runs no more of it (R559). -/
def State.gatesOpen (s : State) (slot : Nat) (q : QEntry) : Bool :=
  let j := s.job slot
  let e := q.entry
  if (e.phase = 9 || e.phase = 10) && !e.next then decide (q.step ≤ j.okStep) && decide (j.cause ≠ 0x3001) && j.exp.sweeps.all (fun x => decide (q.step ≤ x.1))
  else if e.unit = 6 && e.next && (e.phase = 2 || e.phase = 5) then
    (decide (e.phase = 5) || decide (q.step ≤ j.okStep + 1)) &&
    (match j.hardStep with
     | some n => decide (q.step ≠ n + 1) || decide (n ≤ j.closedStep)
     | none => true)
  else true

/-- R54, R72: whether a queued entry is held by a gate or by a wait on T24 or T25, which the counter meets only when it holds the
number of fields that name it. -/
def State.heldQuietly (s : State) (c slot : Nat) (q : QEntry) : Bool :=
  let ts := tokenList q.entry.waitA q.entry.waitB
  !s.gatesOpen slot q || ts.any (fun t => (t = 24 || t = 25) && decide (((s.core c).slot slot).token t < ts.count t))

/-! Hazards (R44). -/

/-- Whether two ranges overlap with at least one of them written. -/
def CsRange.conflicts (a b : CsRange) : Bool :=
  decide (a.core = b.core) && decide (a.lo < b.hi) && decide (b.lo < a.hi) && (a.write || b.write)

/-- Ranges held at a core by the executing entries of other units or slots, of this core and of others. -/
def State.heldRanges (s : State) (c u slot : Nat) : List CsRange :=
  s.cores.flatMap (fun k => k.2.units.flatMap (fun un =>
    if k.1 = c && un.1 = u then un.2.running.flatMap (fun r => if r.slot = slot then [] else r.ranges)
    else un.2.running.flatMap (fun r => r.ranges)))

/-- R44: the first of an entry's ranges that conflicts with a held one, and that one. -/
def State.conflict (s : State) (c u slot : Nat) (rs : List CsRange) : Option (CsRange × CsRange) :=
  rs.findSome? (fun r => ((s.heldRanges c u slot).find? (fun h => r.conflicts h)).map (fun h => (r, h)))

/-- The entry that holds a range. -/
def State.holder (s : State) (h : CsRange) : Option RunEntry :=
  s.cores.findSome? (fun k => k.2.units.findSome? (fun u => u.2.running.find? (fun r => r.ranges.contains h)))

/-! Starting an entry. -/

/-- What a unit does with an entry that starts: the state after its work, its beats, whether it never completes
(R86, R126), the tile whose drain it waits for, and its mode. -/
structure Work where
  st : State
  beats : Nat := 1
  dead : Bool := false
  drain : Option Nat := none
  quad : Bool := false

/-- The UNIT's counter slot in the blocks of Table 2-8 (MA0 first). -/
def unitReg (base u : Nat) : Nat := base + 8 * (u - 1)

/-- R48: by default a unit starts no entry before its running one completes; a suspended filler entry (R75) waits. -/
def UnitState.idle (un : UnitState) : Bool := un.running.all (fun r => un.suspended.contains r.slot)

/-- R75: a filler entry with more beats left than one chunk holds; a matrix-array pass is a single chunk. -/
def RunEntry.chunked (r : RunEntry) : Bool := decide (r.slot ≠ 0) && decide (2 < r.q.entry.unit) && decide (256 < r.beats)

/-- The entry that a unit completes next (R48): the oldest started and not suspended; one that never completes, whose tile is not
yet in the TQ, or that has a chunk to run before its last (R75), holds those after it. -/
def UnitState.completing (un : UnitState) : Option RunEntry :=
  match un.running.find? (fun r => !un.suspended.contains r.slot) with
  | some r => if r.dead || r.drain.isSome || r.chunked then none else some r
  | none => none

/-- The entry at the head of a unit's queue of a slot. -/
def State.head (s : State) (c u slot : Nat) : Option QEntry := (((s.core c).slot slot).queue u).head?

/-- R48, R54, R74: whether the head entry's tokens, gates and slot let it start; a filler slot needs its chunk. -/
def State.mayStart (s : State) (c u slot : Nat) (q : QEntry) : Bool :=
  let k := s.core c
  let j := s.job slot
  (k.slot slot).loaded && !j.stopped && !j.halted && decide (j.reexecPhase = 0) &&
  (k.slot slot).waitsMet q.entry && s.gatesOpen slot q &&
  (decide (slot = 0) || decide ((k.unit u).chunk = some slot))

/-- A range in a word of DETAIL: its first byte in [31:0], its end in [63:32] (log entry 25). -/
def CsRange.word (r : CsRange) : Nat := r.lo % 2 ^ 32 + r.hi % 2 ^ 32 * 2 ^ 32

/-- R44: the effect of a hazard; the record holds both ranges and both entries (Table 16-3). -/
def State.hazardEffect (s : State) (c slot : Nat) (q : QEntry) (x : CsRange × CsRange) : State :=
  let held := match s.holder x.2 with
    | some r => r.q.num % 4096 * 2 ^ 16 + r.q.entry.unit * 2 ^ 32 + r.slot * 2 ^ 36
    | none => 0
  let s := (s.setBit (coreReg c 0) 2).inc (coreReg c 0x50) 1
  s.entryError 0x0101 c slot q false x.1.word x.2.word (q.num % 4096 + held + x.2.core * 2 ^ 40)

/-- R54: the entry leaves its queue, its waits are taken, and the unit runs it. -/
def State.launch (s : State) (c u slot : Nat) (q : QEntry) (rs : List CsRange) (work : QEntry → State → Work) : State :=
  let s := s.updCore c (fun k =>
    let k := k.updSlot slot (fun cs => ({ cs with queues := SMap.put cs.queues u ((cs.queue u).drop 1) }).takeWaits q.entry)
    if slot = 0 then { k with lastPhase := q.entry.phase } else k)
  let w := work q s
  w.st.updCore c (fun k => k.updUnit u (fun un => { un with running := un.running ++
    [{ slot := slot, q := q, beats := w.beats, dead := w.dead, drain := w.drain, ranges := if w.dead then [] else rs, quad := w.quad }] }))

/-- R509: the levels that an entry of a unit needs: a pass 3, a VE entry 1, SK and GC together 1. -/
def CoreState.levelsFor (k : CoreState) (u : Nat) (e : Entry) : Nat :=
  match u with
  | 1 | 2 => if e.op ≥ 0x40 then 3 else 0
  | 3 => 1
  | 4 => if (k.unit 5).running.isEmpty then 1 else 0
  | 5 => if (k.unit 4).running.isEmpty then 1 else 0
  | _ => 0

/-- R509: the levels held on a core. -/
def CoreState.levels (k : CoreState) : Nat :=
  let passes := fun (u : Nat) => ((k.unit u).running.filter (fun r => decide (r.q.entry.op ≥ 0x40) && !r.dead)).length
  3 * passes 1 + 3 * passes 2 + (k.unit 3).running.length +
  (if (k.unit 4).running.isEmpty && (k.unit 5).running.isEmpty then 0 else 1)

/-- R509: the levels held in a core-group domain. -/
def State.levels (s : State) (d : Nat) : Nat :=
  (s.cores.map (fun k => if k.1 / 8 = d then k.2.levels else 0)).foldl (· + ·) 0

/-- R510: the admitted ceiling of a domain. -/
def State.ceiling (s : State) (d : Nat) : Nat := SMap.getD s.pace.ceilings d 0

/-- R510: whether the levels of an entry fit under its domain's ceiling. -/
def State.levelsFit (s : State) (c u : Nat) (q : QEntry) : Bool :=
  let n := (s.core c).levelsFor u q.entry
  decide (n = 0) || decide (s.levels (c / 8) + n ≤ s.ceiling (c / 8))

/-- Key of a start that waits for its levels. -/
def slopeKey (c u slot : Nat) : Nat := (c * 8 + u) * 4 + slot

/-- R510: a start whose levels do not fit waits; the wait is counted once. -/
def State.slopeHold (s : State) (c u slot : Nat) : State :=
  let key := slopeKey c u slot
  if s.pace.waiting.contains key then s
  else
    let s := (s.inc (pgReg 0x30) 1).setBit (pgReg 0) 4
    { s with pace := { s.pace with waiting := s.pace.waiting ++ [key] } }

/-- A start that has got its levels waits no longer. -/
def State.slopeRelease (s : State) (c u slot : Nat) : State :=
  { s with pace := { s.pace with waiting := s.pace.waiting.filter (fun x => x != slopeKey c u slot) } }

/-- R44, R48, R54, R510: runs the entry at the head of a unit's queue of a slot if its OP passes `isOp`, its tokens, gates
and unit let it start, `hold` does not hold it (which answers the state with the hold counted), and its levels fit. A
conflict of its ranges is a hazard. Any other head entry leaves the state as it is. -/
def State.startEntry (s : State) (c u slot : Nat) (isOp : Entry → Bool) (unitFree : UnitState → QEntry → Bool)
    (hold : QEntry → State → Option State) (ranges : QEntry → List CsRange) (work : QEntry → State → Work) : State :=
  match s.head c u slot with
  | none => s
  | some q =>
    if !isOp q.entry || !s.mayStart c u slot q || !unitFree ((s.core c).unit u) q then s
    else
      match hold q s with
      | some s' => s'
      | none =>
        match s.conflict c u slot (ranges q) with
        | some x => s.hazardEffect c slot q x
        | none =>
          if !s.levelsFit c u q then s.slopeHold c u slot
          else (s.slopeRelease c u slot).launch c u slot q (ranges q) work

/-- The default rule of R48. -/
def freeWhenIdle (un : UnitState) (_ : QEntry) : Bool := un.idle

/-- No hold. -/
def noHold (_ : QEntry) (_ : State) : Option State := none

/-- CS ranges of the own core. -/
def csRanges (c : Nat) (write : Bool) (l : List (Nat × Nat)) : List CsRange :=
  l.filterMap (fun r => if r.2 = 0 then none else some { core := c, lo := r.1, hi := r.1 + r.2, write := write })

/-- Table 2-8: the busy beats of a completed entry go to the primary or the filler counter, and to P or F of R74. -/
def State.countBusy (s : State) (c u slot beats : Nat) : State :=
  let s := s.inc (unitReg (coreReg c (if slot = 0 then 0x100 else 0x130)) u) beats
  s.updCore c (fun k => k.updUnit u (fun un =>
    if slot = 0 then { un with primaryBeats := un.primaryBeats + beats } else un))

/-- Clears the slot's work on every core for a retry, a rollback or an admission (R477, R102): queues, running entries,
tokens, tiles in the slot's mask, TQ entries of the slot's passes, registers in its mask and its GC. -/
def CoreState.clearSlot (k : CoreState) (slot tiles regs : Nat) (tok : List Nat) : CoreState :=
  let units : SMap UnitState := k.units.map (fun u => (u.1, { u.2 with
    running := u.2.running.filter (fun r => r.slot != slot)
    chunk := if u.2.chunk = some slot then none else u.2.chunk
    suspended := u.2.suspended.filter (fun x => x != slot) }))
  let inMask := fun (mask t : Nat) => decide (bits mask t t = 1)
  let arrays : SMap ArrayState := k.arrays.map (fun a => (a.1, { a.2 with
    tiles := a.2.tiles.filter (fun e => !inMask tiles (e.1 / 1024))
    parity := a.2.parity.filter (fun e => !inMask tiles (e / 1024))
    drains := a.2.drains.filter (fun t => !inMask tiles t) }))
  let k := { k with
    units := units
    arrays := arrays
    tq := k.tq.filter (fun e => e.slot != slot)
    vregs := k.vregs.filter (fun e => !inMask regs (e.1 / 64))
    vregParity := k.vregParity.filter (fun e => !inMask regs (e / 64))
    gc := SMap.del k.gc slot }
  let ts := (List.range tok.length).map (fun t => (t, atD tok t 0))
  k.updSlot slot (fun cs => { cs with pc := 0, loops := [], prologue := true, queues := [], tokens := ts })

end Sys2Proof.Machine
end

