-- ==== Sys2Proof/Machine/Memory.lean ====
section
/-! DEFINITION. Module memory (Memory: HBM4 stacks and the slate tier): the windows and hashes of R277 to R281, line
reads and writes with their protection (R276, R294), promotion and write-back (R284 to R288), slate requests that are
late or fail (R297), and the memory commands. -/

namespace Sys2Proof.Machine

open Sys2Proof

/-- The job seed held in SQ (`job.seed`). -/
def State.seed (s : State) (slot : Nat) : Nat := s.jobCfg slot 0x102 0

/-- `job.e5m2_overflow` is inf. -/
def State.e5m2Inf (s : State) (slot : Nat) : Bool := decide (s.jobCfg slot 0x8106 0 = 1)

/-- The code of a format (Table 4-3). -/
def Fmt.code (f : Fmt) : Nat :=
  [Fmt.fp32, .bf16, .fp16, .e4m3, .e5m2, .int32, .int16, .int8, .uint8, .mask1, .bi32, .sb8, .sb4].findIdx (· == f)

/-- Adds to the exact counts of R184 and R186: conversions, overflows and vanishes. -/
def addCounts (m : SMap (Nat × Nat × Nat)) (k a b d : Nat) : SMap (Nat × Nat × Nat) :=
  if a = 0 then m else SMap.upd m k (0, 0, 0) (fun x => (x.1 + a, x.2.1 + b, x.2.2 + d))

/-- Key of a tensor's counts; a format and kind take `format * 8 + kind`. -/
def tensorKey (tid : Nat) : Nat := 0x100000 + tid

/-- R184, R186: adds conversions under each key; those of phase 9 ride the vote of the next step. -/
def State.countConversions (s : State) (slot : Nat) (late : Bool) (keys : List Nat) (n above vanish : Nat) : State :=
  let add := fun (m : SMap (Nat × Nat × Nat)) => keys.foldl (fun m k => addCounts m k n above vanish) m
  s.updJob slot (fun j => { j with num :=
    if late then { j.num with late := add j.num.late } else { j.num with counts := add j.num.counts } })

/-- One GiB. -/
def gib : Nat := 2 ^ 30

/-- `memory.local_gib` in force; 64 by default. -/
def State.localGib (s : State) : Nat := s.cfgV 0 0x8601 0 (cdiv (s.cfgV 0 0x600 0 512) 8)

/-- `memory.promote_pool_gib` in force; 16 by default, 0 with migration off. -/
def State.poolGib (s : State) : Nat := s.cfgV 0 0x8605 0 (if s.cfgV 0 0x604 0 0 = 0 then 16 else 0)

/-- Sz of R277. -/
def State.spreadGib (s : State) : Nat := 768 - 8 * s.localGib - s.poolGib

/-- The windows of Table 10-2. -/
inductive Window where
  | spread
  | reserved
  | hole
  | locals (st : Nat)
  | slate
  | above
  deriving DecidableEq, Repr

/-- Base of stack `st`'s local window. -/
def State.localBase (s : State) (st : Nat) : Nat := (768 - 8 * s.localGib + st * s.localGib) * gib

/-- Table 10-2: the window of a module address. -/
def State.window (s : State) (a : Nat) : Window :=
  if a ≥ 0x014000000000 then .above
  else if a ≥ slateBase then .slate
  else if a ≥ (768 - 8 * s.localGib) * gib then .locals ((a / gib - (768 - 8 * s.localGib)) / s.localGib)
  else if a ≥ s.spreadGib * gib then .hole
  else if a ≥ (s.spreadGib - 4) * gib then .reserved
  else .spread

/-! Placement (R282): the firmware chooses, within what Table 10-3 fixes (log entry 132). -/

/-- The address that a choice gives an object of `n` bytes in a window: wholly inside where it fits, and a multiple of 64. -/
def fitAt (base size n choice : Nat) : Nat := base + 64 * (choice % ((size - n) / 64 + 1))

/-- The spread window without the firmware's part, in bytes (R277). -/
def State.spreadBytesFree (s : State) : Nat := (s.spreadGib - 4) * gib

/-- The slate window, in bytes. -/
def slateSize : Nat := 0x014000000000 - slateBase

/-- An object of `n` bytes in the spread window. -/
def State.inSpread (s : State) (n choice : Nat) : Nat := fitAt 0 s.spreadBytesFree n choice

/-- An object of `n` bytes in the slate window. -/
def inSlate (n choice : Nat) : Nat := fitAt slateBase slateSize n choice

/-- The bytes of the things placed before key `k` where each follows those of lower rank, of equal rank those of lower key. -/
def bytesBefore (rank : Nat → Nat) (l : List (Nat × Nat)) (k : Nat) : Nat :=
  l.foldl (fun n x => if rank x.1 < rank k || (rank x.1 = rank k && x.1 < k) then n + x.2 else n) 0

/-- R279: stack and pseudo-channel of a spread or pool granule. -/
def spreadHash (g : Nat) : Nat × Nat :=
  let x := bits g 8 0 ^^^ bits g 17 9 ^^^ bits g 26 18 ^^^ bits g 35 27
  (x % 8, x / 8)

/-- R280: pseudo-channel of a local granule. -/
def localHash (g : Nat) : Nat := bits g 5 0 ^^^ bits g 11 6 ^^^ bits g 17 12 ^^^ bits g 23 18 ^^^ bits g 29 24

/-- Page of 64 KiB of the slate window. -/
def slatePage (a : Nat) : Nat := (a - slateBase) / 65536

/-- The pool frame that holds a slate page (R288). -/
def State.frameOf (s : State) (page : Nat) : Option Nat :=
  (List.find? (fun f => decide (f.2.page = page)) s.slate.frames).map (·.1)

/-- Where a line lives: a pseudo-channel of a stack, or a slate package. -/
inductive Place where
  | hbm (st pc : Nat)
  | package (k : Nat)
  deriving DecidableEq, Repr

/-- R279 to R281, R288: the place of a line. -/
def State.place (s : State) (a : Nat) : Place :=
  match s.window a with
  | .locals st => .hbm st (localHash ((a - s.localBase st) / 256))
  | .slate =>
    match s.frameOf (slatePage a) with
    | some f =>
      let h := spreadHash (s.spreadGib * 2 ^ 22 + 256 * f + (a - slateBase) / 256 % 256)
      .hbm h.1 h.2
    | none => .package (slateHash ((a - slateBase) / 256))
  | _ => let h := spreadHash (a / 256); .hbm h.1 h.2

/-- The scheduler of a place's channel. -/
def State.channel (s : State) (p : Place) : Channel :=
  match p with
  | .hbm st pc => SMap.getD (s.mc st).channels pc {}
  | .package k => SMap.getD s.slate.channels k {}

/-- Changes a place's scheduler. -/
def State.updChannel (s : State) (p : Place) (f : Channel → Channel) : State :=
  match p with
  | .hbm st pc => s.updMc st (fun m => { m with channels := SMap.upd m.channels pc {} f })
  | .package k => { s with slate := { s.slate with channels := SMap.upd s.slate.channels k {} f } }

/-- R291: puts a channel in read or write mode; a switch is counted. -/
def State.setMode (s : State) (p : Place) (write : Bool) : State :=
  if (s.channel p).writeMode = write then s
  else (s.updChannel p (fun c => { c with writeMode := write })).inc (match p with | .hbm st _ => dieReg st 0x140 | .package _ => ltReg 0x18) 1

/-- R291: a request of a unit is served at once, ahead of those that wait (log entry 31): a read in read mode; a write in write mode,
which a channel without other writes then leaves. -/
def State.serve (s : State) (p : Place) (write : Bool) : State :=
  if write && !(s.channel p).writeMode then (s.setMode p true).setMode p false
  else s.setMode p write

/-- Tables 10-8, 10-9: counts a line served, by class. -/
def State.countLine (s : State) (p : Place) (cls : Nat) (write : Bool) : State :=
  match p with
  | .hbm st _ => s.inc (dieReg st ((if write then 0x120 else 0x100) + 8 * (cls - 1))) 1
  | .package _ => s.inc (ltReg (if write then 0x10 else 0x08)) 1

/-- R284: counts an access to an unpinned slate page, promoted or not; a page that is not promoted is queued at the threshold. -/
def State.countPage (s : State) (a : Nat) : State :=
  let page := slatePage a
  if s.poolGib = 0 || !s.slate.auto.any (fun (x : Nat × List (Nat × Nat)) => x.2.any (fun r => decide (r.1 ≤ a) && decide (a < r.1 + r.2))) then s
  else
    let n := min 65535 (SMap.getD s.slate.counts page 0 + 1)
    let due := decide (n ≥ s.cfgV 0 0x8606 0 256) && !s.slate.queue.contains page && (s.frameOf page).isNone
    { s with slate := { s.slate with counts := SMap.put s.slate.counts page n
                                     queue := if due then s.slate.queue ++ [page] else s.slate.queue } }

/-- R284, R285, R287: an access to a slate page counts towards its promotion, sets its frame's reference bit and, for a
write, its granule's dirty bit. -/
def State.touchPage (s : State) (a : Nat) (write : Bool) : State :=
  let s := s.countPage a
  match s.frameOf (slatePage a) with
  | some f =>
    let g := (a - slateBase) / 256 % 256
    { s with slate := { s.slate with frames := SMap.upd s.slate.frames f {} (fun fr =>
        { fr with ref := true, dirty := if write && !fr.dirty.contains g then fr.dirty ++ [g] else fr.dirty }) } }
  | none => s

/-- Who asks, and for which work: its class, unit, job slot, step and phase (R289, R471). -/
structure Asker where
  cls : Nat := 4
  unit : Nat := 13
  core : Nat := 0
  slot : Nat := 0
  step : Nat := 0
  phase : Nat := 0
  service : Bool := false
  deriving DecidableEq, Repr

/-- R278: an address that no controller serves to this asker. -/
def State.refusedAddr (s : State) (k : Asker) (a : Nat) : Bool :=
  match s.window a with
  | .hole | .above => true
  | .reserved => !k.service
  | _ => false

/-- R278: the refusal of a request. -/
def State.addrFault (s : State) (k : Asker) (a : Nat) : State :=
  let st := (spreadHash (a / 256)).1
  (s.inc (dieReg st 0x168) 1).serviceError 0x0302 10 st k.slot k.step k.phase a 0 0

/-- R294: the protection of an HBM line on a read: corrected, poisoned or clean; the first part says poisoned. A poisoned
row record, or a line that phases 9 and 10 read, is committed state (Table 16-3). -/
def State.checkLine (s : State) (k : Asker) (a : Nat) : Bool × State :=
  match s.place a with
  | .package _ => (false, s)
  | .hbm st pc =>
    match SMap.find? s.memErr (a / 64) with
    | none => (false, s)
    | some false =>
      (false, ((({ s with memErr := SMap.del s.memErr (a / 64) }).serve (.hbm st pc) true).countLine (.hbm st pc) 4 true).inc (dieReg st 0x150) 1)
    | some true =>
      let s := s.inc (dieReg st 0x158) 1
      (true, if k.unit = 9 || k.phase = 9 || k.phase = 10 then s.inputsLost 0x0301 10 st k.slot k.step k.phase st pc a
        else s.serviceError 0x0301 10 st k.slot k.step k.phase st pc a)

/-- One line read: its counts, its page access and its protection. -/
def State.readLine (s : State) (k : Asker) (a : Nat) : Bool × State :=
  let p := s.place a
  let s := (s.serve p false).countLine p k.cls false
  let s := if s.window a = .slate then s.touchPage a false else s
  s.checkLine k a

/-- The lines of a byte range. -/
def lines (a n : Nat) : List Nat :=
  if n = 0 then [] else (List.range ((a + n - 1) / 64 - a / 64 + 1)).map (fun i => (a / 64 + i) * 64)

/-- What a read of module memory gave: its bytes unless the address was refused or a line was poisoned. -/
structure MemRead where
  bytes : Option (List Byte)
  poisoned : Bool
  st : State

/-- R296: a package does not answer: the crossing of its channel, of class 4 in Table 17-7, has stalled (R491). -/
def State.packageSilent (s : State) (pkg : Nat) : Bool := s.pace.stalled.any (fun x => decide (x.cls.val = 4) && decide (x.index % 8 = pkg))

/-- R296, R297: what a slate line's requests meet: true where they fail, false where they are only slow. -/
def State.slateFate (s : State) (l : Nat) : Option Bool :=
  if s.packageSilent (slatePackage (64 * l)) then some true else SMap.find? s.slate.failLines l

/-- R286, R292, R296, R297: a slate line whose requests do not complete at once: they fail, are slow, stand behind a held one, or
wait for a migration of the page. -/
def State.slateBusy (s : State) (l : Nat) : Bool :=
  decide (s.window l = .slate) && (s.slate.migrating.contains (slatePage l) ||
    ((s.frameOf (slatePage l)).isNone &&
      ((s.slateFate (l / 64)).isSome || s.slate.requests.any (fun r => decide (r.req.addr / 64 = l / 64)))))

/-- Whether a byte range holds a slate line whose requests do not complete (R296); a service request for it stays stalled (R71). -/
def State.slateStalled (s : State) (a n : Nat) : Bool :=
  !(s.slate.failLines.isEmpty && s.slate.requests.isEmpty && s.slate.migrating.isEmpty && s.pace.stalled.isEmpty) && (lines a n).any s.slateBusy

/-- The model's note that an access meets a line whose requests do not complete. -/
def State.noteStall (s : State) (a n : Nat) : State :=
  if s.slateStalled a n then { s with slate := { s.slate with blocked := some a } } else s

/-- R276, R278, R294: reads `n` bytes at module address `a`. -/
def State.memRead (s : State) (k : Asker) (a n : Nat) : MemRead :=
  let s := s.noteStall a n
  match (lines a n).find? (fun l => s.refusedAddr k l) with
  | some l => { bytes := none, poisoned := false, st := s.addrFault k l }
  | none =>
    let r := (lines a n).foldl (fun acc l => let x := acc.2.readLine k l; (acc.1 || x.1, x.2)) (false, s)
    { bytes := if r.1 then none else some (Mem.bytes s.mem a n), poisoned := r.1, st := r.2 }

/-- R276, R294: what one line write does to the line: the page is accessed, a partial write first reads the line, which corrects
it or leaves a poisoned one as it is, and the bytes are merged. The first part says that the line is poisoned. -/
def State.mergeLine (s : State) (k : Asker) (a : Nat) (bs : List Byte) : Bool × State :=
  let l := a / 64 * 64
  let s := if s.window l = .slate then s.touchPage l true else s
  let r := if bs.length = 64 then (false, s) else s.checkLine k l
  if r.1 then r
  else (false, { r.2 with mem := Mem.putBytes r.2.mem a bs, memErr := SMap.del r.2.memErr (l / 64) })

/-- One line written with `bs` at `a`. -/
def State.writeLine (s : State) (k : Asker) (a : Nat) (bs : List Byte) : Bool × State :=
  let p := s.place (a / 64 * 64)
  let r := s.mergeLine k a bs
  if r.1 then r else (false, (r.2.serve p true).countLine p k.cls true)

/-- Writes bytes line by line. -/
def State.writeLines : Nat → State → Asker → Nat → List Byte → Bool × State
  | 0, s, _, _, _ => (false, s)
  | n + 1, s, k, a, bs =>
    if bs.isEmpty then (false, s)
    else
      let c := min (64 - a % 64) bs.length
      let r := s.writeLine k a (bs.take c)
      let r' := State.writeLines n r.2 k (a + c) (bs.drop c)
      (r.1 || r'.1, r'.2)

/-- R276, R278: writes bytes at module address `a`; the first part says that the write failed. -/
def State.memWrite (s : State) (k : Asker) (a : Nat) (bs : List Byte) : Bool × State :=
  let s := s.noteStall a bs.length
  match (lines a bs.length).find? (fun l => s.refusedAddr k l) with
  | some l => (true, s.addrFault k l)
  | none => State.writeLines (bs.length + 1) s k a bs

/-! Requests that wait in a scheduler (R290 to R293). -/

/-- R290: the class by which a scheduler ranks a request; a write of class 1 or 2 ranks as class 3. -/
def QueuedReq.cls (r : QueuedReq) : Nat :=
  let c := max 1 (min 4 r.req.cls)
  if r.write then max 3 c else c

/-- R39, R290: a request's rank: its class, a filler job's requests after the primary's. -/
def QueuedReq.rank (r : QueuedReq) : Nat := 2 * r.cls + (if r.req.slot.val ≠ 0 && !r.req.service then 1 else 0)

/-- R292: the requests that may be served: none older of the same line waits. Each has its place in the queue. -/
def Channel.ready (c : Channel) : List (Nat × QueuedReq) :=
  (List.range c.queue.length).filterMap (fun i =>
    match c.queue[i]? with
    | some r => if (c.queue.take i).any (fun x => decide (x.req.addr / 64 = r.req.addr / 64)) then none else some (i, r)
    | none => none)

/-- R290: the oldest request of the least rank. -/
def leastRank : List (Nat × QueuedReq) → Option (Nat × QueuedReq)
  | [] => none
  | x :: xs =>
    match leastRank xs with
    | some y => if y.2.rank < x.2.rank then some y else some x
    | none => some x

/-- R290, R292: what the scheduler serves of the requests that pass a test, those of its mode first. -/
def Channel.choose (c : Channel) (p : QueuedReq → Bool) : Option (Nat × QueuedReq) :=
  let l := c.ready.filter (fun x => p x.2)
  (leastRank (l.filter (fun x => x.2.write == c.writeMode))).orElse (fun _ => leastRank l)

/-- R293: of 1,024 bursts the ones due to class 4. -/
def State.bulkShare (s : State) : Nat := cdiv (s.cfgV 0 0x8608 0 5 * 1024) 100

/-- R293: class 4 requests wait, and the run has fallen behind the count due to them. -/
def Channel.bulkDue (c : Channel) (share : Nat) : Bool :=
  c.queue.any (fun r => decide (r.cls = 4)) && decide (c.given * 1024 < share * c.run)

/-- R293: the run of bursts through which class 4 requests wait, after one more burst of a class. -/
def Channel.countBurst (c : Channel) (cls : Nat) : Channel :=
  if !c.queue.any (fun r => decide (r.cls = 4)) || c.run + 1 = 1024 then { c with run := 0, given := 0 }
  else { c with run := c.run + 1, given := c.given + (if cls = 4 then 1 else 0) }

/-- The writes that wait. -/
def Channel.writes (c : Channel) : Nat := (c.queue.filter (·.write)).length

/-- R291: the mode in which the scheduler issues its next burst. -/
def Channel.nextMode (c : Channel) : Bool :=
  if c.writeMode then decide (c.writes ≠ 0) else decide (48 ≤ c.writes) || decide (c.writes = c.queue.length)

/-- R290 to R293: the scheduler serves one waiting request. -/
def State.issueOne (s : State) (p : Place) : State :=
  if (s.channel p).queue.isEmpty then s
  else
    let s := s.setMode p (s.channel p).nextMode
    let c := s.channel p
    let forced := c.bulkDue s.bulkShare
    match (if forced then c.choose (fun r => decide (r.cls = 4)) else none).orElse (fun _ => c.choose (fun _ => true)) with
    | none => s
    | some (i, r) =>
      let s := (s.setMode p r.write).countLine p (max 1 (min 4 r.req.cls)) r.write
      let s := match p with | .hbm st _ => s.inc (dieReg st 0x148) (if forced && decide (r.cls = 4) then 1 else 0) | .package _ => s
      let s := s.updChannel p (fun c => { c.countBurst r.cls with queue := c.queue.eraseIdx i })
      let n := (s.channel p).writes
      let s := if r.write && (n = 16 || n = 0) then s.setMode p false else s
      if r.write then s else s.emit (.memoryData r.req r.data r.poisoned)

/-- The scheduler serves up to `n` waiting requests. -/
def State.issue (s : State) (p : Place) : Nat → State
  | 0 => s
  | n + 1 => State.issue (s.issueOne p) p n

/-- A request joins the queue of its channel; a full write queue first makes room, and unless the request waits the scheduler
serves the whole queue. -/
def State.enqueue (s : State) (p : Place) (r : QueuedReq) : State :=
  let s := if r.write && decide (64 ≤ (s.channel p).writes) then s.issue p (s.channel p).queue.length else s
  let s := s.updChannel p (fun c => { c with queue := c.queue ++ [r] })
  if r.req.waits then s else s.issue p (s.channel p).queue.length

/-! The commands. -/

/-- R299: start-up, test and recovery, in which no job slot issues service requests. -/
def State.testPhase (s : State) : Bool := s.stage ≠ 8 && s.stage ≠ 11

/-- R294, R296, R491: what the line of a request suffers as the request reaches it. -/
def State.suffer (s : State) (q : MemRequest) (write : Bool) : State :=
  let l := q.addr / 64
  match s.place (l * 64) with
  | .hbm _ _ =>
    match q.fate with
    | .correctable => { s with memErr := SMap.put s.memErr l false }
    | .uncorrectable => { s with memErr := SMap.put s.memErr l true }
    | _ => s
  | .package _ =>
    if q.fate = .fails || (q.fate = .uncorrectable && !write) then { s with slate := { s.slate with failLines := SMap.put s.slate.failLines l true } }
    else if q.fate = .slow then { s with slate := { s.slate with failLines := SMap.put s.slate.failLines l false } }
    else s

/-- The asker of a request command. -/
def MemRequest.asker (q : MemRequest) : Asker :=
  { cls := max 1 (min 4 q.cls), unit := q.unit, core := q.core, slot := q.slot.val, service := q.service }

/-- A request is held by the slate-tier controller. -/
def State.holdSlate (s : State) (r : SlateRequest) : State :=
  { s with slate := { s.slate with requests := s.slate.requests ++ [{ r with since := s.now }] } }

/-- R286, R296, R297, R299: a slate request that does not complete at once. One to a migrating page waits and is counted; of one
that fails a test request ends with an error completion and a service request stays; one that is slow, or stands behind a held one
of its line, waits. -/
def State.slateFail (s : State) (q : MemRequest) (write : Bool) (bs : List Byte) : State :=
  let pkg := slatePackage q.addr
  if s.slate.migrating.contains (slatePage q.addr) then (s.inc (ltReg 0x38) 1).holdSlate { req := q, write := write, bytes := bs }
  else if s.slateFate (q.addr / 64) ≠ some true then s.holdSlate { req := q, write := write, bytes := bs }
  else if q.test || q.service || s.testPhase then
    ((s.inc (ltReg 0x58) 1).raiseError { code := 0x0305, unit := 11, index := pkg, slot := q.slot.val, d5 := pkg, d6 := q.addr }).emit (.memoryError q)
  else ((s.inc (ltReg 0x50) 1).setBit (ltReg 0) 0).holdSlate { req := q, write := write, bytes := bs, failing := true }

/-- R71, R296, R298: the controller holds the stalled request of a unit's entry, once. -/
def State.stallUnit (s : State) (unit c slot a : Nat) : State :=
  let q : MemRequest := { addr := a, unit := unit, core := c, slot := if h : slot < 4 then ⟨slot, h⟩ else 0 }
  if s.slate.requests.any (fun r => decide (r.req = q)) then s
  else
    let bad := decide (s.slateFate (a / 64) = some true)
    let s := if bad then (s.inc (ltReg 0x50) 1).setBit (ltReg 0) 0 else s
    s.holdSlate { req := q, failing := bad }

/-- R71, R296: an entry that a unit's own rules let start waits by handshake while its work meets a slate line whose requests do
not complete. -/
def stallHold (c u slot : Nat) (work : QEntry → State → Work) (hold : QEntry → State → Option State) (q : QEntry) (s : State) : Option State :=
  match hold q s with
  | some t => some t
  | none => ((work q { s with slate := { s.slate with blocked := none } }).st.slate.blocked).map (fun a => s.stallUnit u c slot a)

/-- R71, R298: work of the host link or the service complex meets a slate line whose requests do not complete: it waits, and is done
again when its command comes again. -/
def State.unlessStalled (s : State) (unit slot : Nat) (f : State → State) : State :=
  let t := f { s with slate := { s.slate with blocked := none } }
  match t.slate.blocked with
  | some a => s.stallUnit unit 0 slot a
  | none => t

/-- R71: a message of this module's own cores waits in the router without credits (log entry 146). -/
def State.portHeld (s : State) (slot : Nat) : Bool :=
  s.router.any (fun w => w.arrival.isNone && w.counted && decide (w.msg.slot = slot))

/-- R71: a unit whose messages find no credits stops, and a counter takes the wait. -/
def State.creditHold (s : State) (slot ofs : Nat) : Option State := if s.portHeld slot then some (s.inc ofs 1) else none

/-- The read of a line joins a scheduler's queue; its data are those of its arrival, since no later write of the line passes it
(R292). -/
def State.queueRead (s : State) (q : MemRequest) (n : Nat) : State :=
  let l := q.addr / 64 * 64
  if s.refusedAddr (MemRequest.asker q) l then s.addrFault (MemRequest.asker q) l
  else
    let p := s.place l
    let s := if s.window l = .slate then s.touchPage l false else s
    let r := s.checkLine (MemRequest.asker q) l
    r.2.enqueue p { req := q, data := if r.1 then [] else Mem.bytes s.mem q.addr n, poisoned := r.1 }

/-- The write of a line joins a scheduler's queue; reads that arrive later find its bytes (R292). -/
def State.queueWrite (s : State) (q : MemRequest) (bs : List Byte) : State :=
  let l := q.addr / 64 * 64
  if s.refusedAddr (MemRequest.asker q) l then s.addrFault (MemRequest.asker q) l
  else
    let p := s.place l
    let r := s.mergeLine (MemRequest.asker q) q.addr bs
    if r.1 then r.2 else r.2.enqueue p { req := q, write := true }

/-- MEMORY_READ (R276, R290 to R294): a controller takes a read of a line; with no request waiting it serves it at once. -/
def execMemoryRead (q : MemRequest) (s : State) : Res :=
  let n := min q.len (64 - q.addr % 64)
  .next (let s := s.suffer q false
  if s.slateStalled q.addr n then s.slateFail q false []
  else if q.waits || !(s.channel (s.place (q.addr / 64 * 64))).queue.isEmpty then s.queueRead q n
  else
    let r := s.memRead (MemRequest.asker q) q.addr n
    match r.bytes with
    | some bs => r.st.emit (.memoryData q bs false)
    | none => if r.poisoned then r.st.emit (.memoryData q [] true) else r.st)

/-- MEMORY_WRITE (R276, R290 to R294): a controller takes a write of a line, merging a partial write; with no request waiting it
serves it at once. -/
def execMemoryWrite (q : MemRequest) (bytes : List Byte) (s : State) : Res :=
  let bs := bytes.take (64 - q.addr % 64)
  .next (let s := s.suffer q true
  if s.slateStalled q.addr bs.length then s.slateFail q true bs
  else if q.waits || !(s.channel (s.place (q.addr / 64 * 64))).queue.isEmpty then s.queueWrite q bs
  else (s.memWrite (MemRequest.asker q) q.addr bs).2)

/-- CLASS1_READ_AGE (R291): a pseudo-channel's oldest class 1 read has waited 250 ns; unless its write queue is full the
pseudo-channel leaves write mode. -/
def execClass1ReadAge (st : StackId) (pc : Nat) (s : State) : Res :=
  .next (let p := Place.hbm st.val (pc % 64)
  if 64 ≤ (s.channel p).writes then s else s.setMode p false)

/-- R279, R280, R295: the module address of line `n` of a stack in ascending slot order. -/
def State.scrubAddr (s : State) (st n : Nat) : Nat :=
  let shared := (96 - s.localGib) * gib / 64 / 256
  let slots := 96 * gib / 64 / 256
  let pc := n / 4 / slots % 64
  let place := n / 4 % slots
  if place < shared then
    let up := place * 512
    let x := (pc * 8 + st) ^^^ bits up 17 9 ^^^ bits up 26 18 ^^^ bits up 35 27
    let a := (up + x) * 256 + n % 4 * 64
    if a ≥ s.spreadGib * gib then
      let f := (a / 256 - s.spreadGib * 2 ^ 22) / 256
      match SMap.find? s.slate.frames f with
      | some fr => slateBase + fr.page * 65536 + a % 65536
      | none => a
    else a
  else
    let up := (place - shared) * 64
    let x := pc ^^^ bits up 11 6 ^^^ bits up 17 12 ^^^ bits up 23 18 ^^^ bits up 29 24
    s.localBase st + (up + x) * 256 + n % 4 * 64

/-- SCRUB (R295): the controller reads its next HBM line as class 4 and corrects it under R294. -/
def execScrub (st : StackId) (s : State) : Res :=
  .next (if s.cfgV 0 0x60A 0 24 = 0 then s
  else
    let n := (s.mc st.val).scrubAt
    let a := s.scrubAddr st.val n
    let p := Place.hbm st.val (n / 4 / (96 * gib / 64 / 256) % 64)
    let s := (s.serve p false).countLine p 4 false
    let s := (s.checkLine { service := true } a).2
    (s.updMc st.val (fun m => { m with scrubAt := (n + 1) % (96 * gib / 64) })).inc (dieReg st.val 0x160) 1)

/-- PROMOTE_WINDOW (R284): every access count is halved, rounding down. -/
def execPromoteWindow (s : State) : Res :=
  .next { s with slate := { s.slate with counts := (s.slate.counts.map (fun c => (c.1, c.2 / 2))).filter (fun c => decide (c.2 ≠ 0)) } }

/-- Frames of the pool. -/
def State.poolFrames (s : State) : Nat := s.poolGib * 16384

/-- The least frame number from `f` that holds no page. -/
def freeFrame : SMap Frame → Nat → Nat
  | [], f => f
  | (k, _) :: rest, f => if k = f then freeFrame rest (f + 1) else f

/-- R285: the sweep over frames after the last victim: bits met are cleared, the first clear one is the victim. -/
def sweepFrames : Nat → SMap Frame → Nat → Nat → SMap Frame × Nat
  | 0, fs, _, f => (fs, f)
  | n + 1, fs, total, f =>
    let g := if f + 1 ≥ total then 0 else f + 1
    match SMap.find? fs g with
    | some fr => if fr.ref then sweepFrames n (SMap.put fs g { fr with ref := false }) total g else (fs, g)
    | none => (fs, g)

/-- R285: the frame that the next promotion takes, its victim's frame left in place. -/
def State.takeFrame (s : State) : SMap Frame × Nat :=
  let fs := s.slate.frames
  let f := freeFrame fs 0
  if f < s.poolFrames then (fs, f) else sweepFrames (2 * fs.length + 1) fs s.poolFrames s.slate.lastVictim

/-- Whether any line of a slate page fails (R296); a page has lines in every package. -/
def State.pageFails (s : State) (page : Nat) : Bool :=
  s.pace.stalled.any (fun x => decide (x.cls.val = 4)) || s.slate.failLines.any (fun l => l.2 && decide ((l.1 * 64 - slateBase) / 65536 = page) && decide (slateBase ≤ l.1 * 64))

/-- R279, R288: the class 4 traffic of granules of a pool frame, four lines each. -/
def State.countGranules (s : State) (f : Nat) (write : Bool) (gs : List Nat) : State :=
  gs.foldl (fun s g =>
    let h := spreadHash (s.spreadGib * 2 ^ 22 + 256 * f + g)
    State.inc s (dieReg h.1 (if write then 0x138 else 0x118)) 4) s

/-- R286, Table 10-5: a migration that fails: in test it is abandoned, in service it waits and the requests to both pages with
it. -/
def State.migrationFails (s : State) (pages rest : List Nat) : State :=
  if s.testPhase then { s with slate := { s.slate with queue := rest, migrating := [] } }
  else
    let s := (s.inc (ltReg 0x50) 1).setBit (ltReg 0) 0
    { s with slate := { s.slate with migrating := pages } }

/-- PAGE_PROMOTION (R285 to R288): the head of the queue enters a frame, a victim's dirty granules being written back
first. A failing line makes the migration wait; any other is whole in one command (log entry 158). The contents of a page do not
change, and a frame that is filled holds no error. -/
def execPagePromotion (s : State) : Res :=
  .next (match s.slate.queue with
  | [] => s
  | page :: rest =>
    if s.poolFrames = 0 || (s.frameOf page).isSome then { s with slate := { s.slate with queue := rest } }
    else
      let t := s.takeFrame
      let victim := SMap.find? t.1 t.2
      if s.pageFails page || (match victim with | some v => s.pageFails v.page && !v.dirty.isEmpty | none => false) then
        s.migrationFails (page :: (victim.map (·.page)).toList) rest
      else
        let s := match victim with
          | some v => ((((s.inc (ltReg 0x28) 1).inc (ltReg 0x30) v.dirty.length).inc (ltReg 0x10) (4 * v.dirty.length))).countGranules t.2 false v.dirty
          | none => s
        let s := (((s.inc (ltReg 0x20) 1).inc (ltReg 0x08) 1024)).countGranules t.2 true (List.range 256)
        let last := if victim.isSome then t.2 else s.slate.lastVictim
        { s with
          memErr := s.memErr.filter (fun e => decide (slatePage (e.1 * 64) ≠ page) || decide (e.1 * 64 < slateBase))
          slate := { s.slate with queue := rest, frames := SMap.put t.1 t.2 { page := page }, lastVictim := last, migrating := [] } })

/-- SLATE_LATE (R297): request `k` has not completed in time; the first late one of a package in each step is recorded. -/
def execSlateLate (k : Nat) (s : State) : Res :=
  .next (match s.slate.requests[k]? with
  | none => s
  | some r =>
    if r.late then s
    else
      let pkg := slatePackage r.req.addr
      let n := (s.job r.req.slot.val).committed + 1
      let s := { s with slate := { s.slate with requests := modAt s.slate.requests k (fun r => { r with late := true }) } }
      let s := s.inc (ltReg 0x48) 1
      if r.req.test || r.req.service then s
      else if s.slate.lateLogged.contains (8 * n + pkg) then s
      else
        let s := { s with slate := { s.slate with lateLogged := s.slate.lateLogged ++ [8 * n + pkg] } }
        s.raiseError { code := 0x0304, unit := 11, index := pkg, slot := r.req.slot.val, step := n, d5 := pkg, d6 := r.req.addr
                       d7 := s.now - r.since })

/-- R286, R292: a held request that must wait for an older one of its line, or for a migration of its page. -/
def State.slateBehind (s : State) (k : Nat) (r : SlateRequest) : Bool :=
  (s.slate.requests.take k).any (fun x => decide (x.req.addr / 64 = r.req.addr / 64)) || s.slate.migrating.contains (slatePage r.req.addr)

/-- SLATE_RETRY (R292, R297): a held service request is tried again; a success completes it, a slow one too
(log entry 14), unless it stands behind another. A package that answers is silent no longer. -/
def execSlateRetry (k : Nat) (ok : Bool) (s : State) : Res :=
  .next (match s.slate.requests[k]? with
  | none => s
  | some r =>
    if r.req.test || r.req.service || (ok && s.slateBehind k r) then s
    else if !ok then
      let s := s.inc (ltReg 0x50) 1
      { s with slate := { s.slate with requests := modAt s.slate.requests k (fun r => { r with retries := r.retries + 1 }) } }
    else
      let l := r.req.addr / 64
      let pkg := slatePackage r.req.addr
      let s := { s with
        pace := { s.pace with stalled := s.pace.stalled.filter (fun x => !(decide (x.cls.val = 4) && decide (x.index % 8 = pkg))) }
        slate := { s.slate with requests := s.slate.requests.eraseIdx k, failLines := SMap.del s.slate.failLines l } }
      if r.write then (s.memWrite (MemRequest.asker r.req) r.req.addr r.bytes).2
      else
        let m := s.memRead (MemRequest.asker r.req) r.req.addr (min r.req.len (64 - r.req.addr % 64))
        match m.bytes with
        | some bs => m.st.emit (.memoryData r.req bs false)
        | none => m.st)

/-- SLATE_TEST_TIMEOUT (R297): a late test request ends as failed. -/
def execSlateTestTimeout (k : Nat) (s : State) : Res :=
  .next (match s.slate.requests[k]? with
  | none => s
  | some r =>
    if r.req.test || r.req.service || s.testPhase then
      let pkg := slatePackage r.req.addr
      let s := { s with slate := { s.slate with requests := s.slate.requests.eraseIdx k } }
      ((s.inc (ltReg 0x58) 1).raiseError { code := 0x0305, unit := 11, index := pkg, slot := r.req.slot.val, d5 := pkg, d6 := r.req.addr }).emit (.memoryError r.req)
    else s)

end Sys2Proof.Machine
end

