-- ==== Sys2Proof/Machine/Tables.lean ====
section
/-! DEFINITION. What the look-up and update halves of the embedding path share: the fields of a table (Tables 7-1, 8-5),
placement (R193 to R196), row records (R197 to R199), keys, ingest frames (R381), batch segments (R212, R213, R229) and
the FP64 sums of R186 and R246. -/

namespace Sys2Proof.Machine

open Sys2Proof

/-- A field of a table in force, `d` its default. -/
def State.tab (s : State) (slot id t d : Nat) : Nat := s.cfgV (slot + 1) id t d

/-- R_T. -/
def State.rows (s : State) (slot t : Nat) : Nat := s.tab slot 0x300 t 1
/-- N. -/
def State.dim (s : State) (slot t : Nat) : Nat := s.tab slot 0x301 t 4
/-- `table.format`. -/
def State.tabFmt (s : State) (slot t : Nat) : Fmt :=
  match s.tab slot 0x302 t 1 with
  | 0 => .fp32 | 1 => .bf16 | 2 => .fp16 | 3 => .e4m3 | 4 => .sb8 | _ => .sb4
/-- `table.pooling` is mean. -/
def State.meanPool (s : State) (slot t : Nat) : Bool := decide (s.tab slot 0x303 t 0 = 1)
/-- `table.weighted`. -/
def State.weighted (s : State) (slot t : Nat) : Bool := decide (s.tab slot 0x304 t 0 = 1)
/-- `table.max_bag`. -/
def State.maxBag (s : State) (slot t : Nat) : Nat := s.tab slot 0x305 t 64
/-- `table.default_row` is frozen. -/
def State.frozenDefault (s : State) (slot t : Nat) : Bool := decide (s.tab slot 0x306 t 1 = 1)
/-- `table.optimizer`: sgd, momentum, adagrad, rowwise_adagrad, adam, rowwise_adam. -/
def State.optimizer (s : State) (slot t : Nat) : Nat := s.tab slot 0x308 t 3
/-- `table.moment_format`. -/
def State.momentFmt (s : State) (slot t : Nat) : Fmt := if s.tab slot 0x8309 t 0 = 1 then .bf16 else .fp32
/-- The tables of a slot: those that have rows in the effective configuration. -/
def State.tableCount (s : State) (slot : Nat) : Nat :=
  (s.cfg.filter (fun e => decide (e.1 / 65536 = (slot + 1) * 65536 + 0x300))).length
/-- S, `job.logical_shards`. -/
def State.shards (s : State) (slot : Nat) : Nat := s.jobCfg slot 0x830D 16384
/-- `lookup.gc_index_entries`. -/
def State.gcIndexEntries (s : State) (slot : Nat) : Nat := s.jobCfg slot 0x830E 2048
/-- B. -/
def State.stepSamples (s : State) (slot : Nat) : Nat := s.jobCfg slot 0x100 16
/-- M. -/
def State.microbatch (s : State) (slot : Nat) : Nat := s.jobCfg slot 0x101 256

/-- R193: the first odd multiplier from 0x9E_3779_B97F coprime with the rows. -/
def hashMultAux (r : Nat) : Nat → Nat → Nat
  | 0, a => a
  | n + 1, a => if Nat.gcd a r = 1 then a else hashMultAux r n (a + 2)

/-- `table.hash_mult` in force or derived. -/
def State.hashMult (s : State) (slot t : Nat) : Nat :=
  s.tab slot 0x830B t (hashMultAux (s.rows slot t) 4096 0x9E3779B97F)

/-- `table.hash_offset` in force or derived. -/
def State.hashOffset (s : State) (slot t : Nat) : Nat := s.tab slot 0x830C t (0x5851F42D * (t + 1) % s.rows slot t)

/-- The row id that stands for a table's default row in every order (R194). -/
def defaultRow : Nat := 2 ^ 40

/-- Where a row lives (R193, R194). -/
structure RowPlace where
  shard : Nat := 0
  j : Nat := 0
  stack : Nat := 0
  slot : Nat := 0
  re : Nat := 0
  deriving DecidableEq, Repr

/-- R193, R194: the placement of row `r` of table `t`. -/
def State.placeRow (s : State) (slot t r : Nat) : RowPlace :=
  let n := s.shards slot
  if r = defaultRow then { shard := t % n, stack := t % 8 }
  else
    let p := (s.hashMult slot t * r + s.hashOffset slot t) % s.rows slot t
    let sh := p % n
    let j := p / n
    { shard := sh, j := j, stack := (j + t + sh) % 8, slot := j / 8, re := j / 8 % 16 }

/-- A key with its logical shard. -/
def State.keyOf (s : State) (slot t r : Nat) : Key := { shard := (s.placeRow slot t r).shard, table := t, row := r }

/-- R208: keys rise by (shard, table, row). -/
def Key.lt (a b : Key) : Bool :=
  decide (a.shard < b.shard) || (decide (a.shard = b.shard) && (decide (a.table < b.table) ||
    (decide (a.table = b.table) && decide (a.row < b.row))))

/-- A frozen default row. -/
def State.frozenKey (s : State) (slot : Nat) (k : Key) : Bool := decide (k.row = defaultRow) && s.frozenDefault slot k.table

/-- R196: the coalescing core of a key. -/
def Key.core (k : Key) : Nat := k.shard % 256

/-- The global number of the row engine of a key (R193, R194, Table 0-3). -/
def State.engineOf (s : State) (slot : Nat) (k : Key) : Nat :=
  let p := s.placeRow slot k.table k.row
  16 * p.stack + p.re

/-- The rank that owns a shard (R192). -/
def State.ownerOf (s : State) (slot shard : Nat) : Nat := atD (s.job slot).map shard 0

/-! Row records. -/

/-- nb = ceil(N / 32). -/
def blocksOf (n : Nat) : Nat := cdiv n 32

/-- Table 7-2: bytes of a weight vector. -/
def weightBytes (f : Fmt) (n : Nat) : Nat :=
  match f with
  | .fp32 => 4 * n
  | .bf16 | .fp16 => 2 * n
  | .sb8 => 36 * blocksOf n + 32
  | .sb4 => 20 * blocksOf n + 32
  | _ => n

/-- Table 8-6: V. -/
def momentVectors : Nat → Nat
  | 1 | 2 | 5 => 1
  | 4 => 2
  | _ => 0

/-- Table 8-6: W. -/
def stateWords : Nat → Nat
  | 3 | 4 => 1
  | 5 => 2
  | _ => 0

/-- Table 7-2: offsets of the moments, the state words, the stamp and the check, and the record size. -/
structure RecLayout where
  n : Nat := 0
  moments : Nat := 0
  state : Nat := 0
  stamp : Nat := 0
  check : Nat := 0
  size : Nat := 0
  deriving DecidableEq, Repr

/-- R197: the record layout of a table. -/
def State.recLayout (s : State) (slot t : Nat) : RecLayout :=
  let n := s.dim slot t
  let o := s.optimizer slot t
  let m := roundUp (weightBytes (s.tabFmt slot t) n) 4
  let st := m + roundUp (momentVectors o * n * ((s.momentFmt slot t).size2 / 2)) 4
  let sp := st + 4 * stateWords o
  { n := n, moments := m, state := st, stamp := sp, check := sp + 4, size := roundUp (sp + 8) 64 }

/-- R195: the ordinal of a shard among those that a rank owns. -/
def State.shardOrdinal (s : State) (slot rank shard : Nat) : Nat :=
  (((s.job slot).map.take shard).filter (· == rank)).length

/-- R195: Q, the record slots of a shard in one stack's region of a table. -/
def State.regionQ (s : State) (slot t : Nat) : Nat := cdiv (s.rows slot t) (8 * s.shards slot)

/-- Table 10-3: the row regions and, from key 1024 on, the default-row areas that the module holds in a stack, with their sizes. -/
def State.regions (s : State) (slot st : Nat) : List (Nat × Nat) :=
  let owned := ((s.job slot).map.filter (· == s.ownRank)).length
  (List.range (s.tableCount slot)).flatMap (fun t =>
    let size := (s.recLayout slot t).size
    (t, owned * s.regionQ slot t * size) ::
      (if t % 8 = st && atD (s.job slot).map (t % s.shards slot) 0 = s.ownRank then [(1024 + t, size)] else []))

/-- R194, R195, R282: where a row region or default-row area begins: the regions of a stack lie in its local window, one after
another from the firmware's start in the firmware's order. -/
def State.regionBase (s : State) (slot st k : Nat) : Nat :=
  let l := s.regions slot st
  let map := (s.job slot).map
  fitAt (s.localBase st) (s.localGib * gib) ((l.map (·.2)).foldl (· + ·) 0) (Config.regionStart slot st map) +
    bytesBefore (Config.regionRank slot st map) l k

/-- R194, R195: the address of a record on this module. -/
def State.recordAddr (s : State) (slot : Nat) (k : Key) : Nat :=
  if k.row = defaultRow then s.regionBase slot (k.table % 8) (1024 + k.table)
  else
    let p := s.placeRow slot k.table k.row
    s.regionBase slot p.stack k.table +
      (s.shardOrdinal slot s.ownRank k.shard * s.regionQ slot k.table + p.slot) * (s.recLayout slot k.table).size

/-- R199: the key bytes of a record check. -/
def keyBytes (k : Key) : List Byte :=
  leBytes 2 k.table ++ leBytes 8 (if k.row = defaultRow then 2 ^ 64 - 1 else k.row)

/-- R198: the first block serial of a row. -/
def rowSerial (k : Key) : Nat := if k.row = defaultRow then 0 else k.row % 64

/-- R149: the FP32 value of an SB element of a decoded block. -/
def sbTo32 (v : FV) (esc : Bool) (side : Nat) : W32 :=
  if esc then BitVec.ofNat 32 side else (rn32 (clampFVal v)).1
where
  /-- A non-escaped element beyond the FP32 range decodes to an infinity. -/
  clampFVal : FV → FV
    | .fin s m e => if m ≠ 0 && decide (ilog2 m e ≥ 128) then .inf s else .fin s m e
    | x => x

/-- One block of an SB weight vector as FP32 codes, if its scale word passes the checks of R138. -/
def sbBlock (f : Fmt) (w ser : Nat) (side : List Nat) (codes : List Nat) : Option (List W32) :=
  if scaleOk f w ser codes then
    let vals := sbDecode f w side codes
    some (((vals.zip codes).zip (List.range 32)).map (fun y =>
      let k := ((codes.take y.2).filter (sbIsEsc f)).length
      sbTo32 y.1.1 (sbIsEsc f y.1.2 && decide (bits w 7 0 ≠ 255)) (atD side (bits w 19 16 + k) 0)))
  else none

/-- R149, R198: the weights of a row as FP32 codes; none where a scale word fails its checks. -/
def decodeWeights (f : Fmt) (n ser : Nat) (bs : List Byte) : Option (List W32) :=
  match f with
  | .sb8 | .sb4 =>
    let nb := blocksOf n
    let eb := if f = .sb8 then 32 else 16
    let word := fun (o : Nat) => leNat ((bs.drop o).take 4)
    let side := (List.range 8).map (fun i => word ((eb + 4) * nb + 4 * i))
    let bl := (List.range nb).map (fun b =>
      sbBlock f (word (eb * nb + 4 * b)) (ser + b) side (sbCodes f ((bs.drop (eb * b)).take eb)))
    if bl.all Option.isSome then some ((bl.flatMap (fun x => x.getD [])).take n) else none
  | f =>
    let w := f.size2 / 2
    some ((List.range n).map (fun i => widen32 f (leNat ((bs.drop (w * i)).take w))))

/-- R150, R198, R239: FP32 weights encoded in a table's format to nearest, with their saturations. -/
def encodeWeights (f : Fmt) (e5 : Bool) (ser : Nat) (ws : List W32) : List Byte × Nat :=
  match f with
  | .sb8 | .sb4 =>
    let nb := blocksOf ws.length
    let st := (List.range nb).foldl (fun (acc : List Byte × List Byte × List Nat × Nat) b =>
      let xs := (List.range 32).map (fun i =>
        let x := atD ws (32 * b + i) 0
        (dec32 x, x.toNat, decide (x.toNat / 2 ^ 31 = 1), RMode.nearest))
      let r := sbEncode f (ser + b) acc.2.2.1 xs
      (acc.1 ++ sbPack f r.1, acc.2.1 ++ leBytes 4 r.2.1, r.2.2.1, acc.2.2.2 + r.2.2.2.cvtSat)) ([], [], [], 0)
    (st.1 ++ st.2.1 ++ ((List.range 8).flatMap (fun i => leBytes 4 (atD st.2.2.1 i 0))), st.2.2.2)
  | f =>
    let w := f.size2 / 2
    ws.foldl (fun acc x =>
      let r := if f = .fp32 then (x.toNat, Flags.zero) else convElem f e5 .nearest (dec32 x)
      (acc.1 ++ leBytes w r.1, acc.2 + r.2.cvtSat)) ([], 0)

/-! Ingest frames (R381). -/

/-- A bag of a frame: its ids in position order and their weights. -/
structure FrameBag where
  ids : List Nat := []
  weights : List W32 := []
  deriving DecidableEq, Repr

/-- Byte offset of the bag directory of a slot's frames. -/
def State.dirOffset (s : State) (slot : Nat) : Nat :=
  32 + roundUp (4 * (s.jobCfg slot 0x900 0 + s.jobCfg slot 0x901 0)) 8

/-- COUNT of table `t` in a frame's bag directory. -/
def State.bagCount (s : State) (slot : Nat) (frame : List Byte) (t : Nat) : Nat :=
  leNat ((frame.drop (s.dirOffset slot + 4 * t)).take 2)

/-- R381: the bag of table `t` in a frame. -/
def State.frameBag (s : State) (slot : Nat) (frame : List Byte) (t : Nat) : FrameBag :=
  let nt := s.tableCount slot
  let counts := (List.range nt).map (s.bagCount slot frame)
  let before := (counts.take t).foldl (· + ·) 0
  let n := atD counts t 0
  let ids := s.dirOffset slot + roundUp (4 * nt) 8
  let total := counts.foldl (· + ·) 0
  let wBefore := ((List.range t).map (fun u => if s.weighted slot u then atD counts u 0 else 0)).foldl (· + ·) 0
  let wBase := ids + 8 * total
  { ids := (List.range n).map (fun i => leNat ((frame.drop (ids + 8 * (before + i))).take 8)),
    weights := (List.range n).map (fun i =>
      if s.weighted slot t then BitVec.ofNat 32 (leNat ((frame.drop (wBase + 4 * (wBefore + i))).take 4)) else one32) }

/-- R19, R378: the sequence number of sample `j` of microbatch `k` of a step. -/
def State.seqOf (s : State) (slot step k j : Nat) : Nat :=
  (s.job slot).firstSeq + (step - 1) * s.stepSamples slot + k * s.microbatch slot + j

/-- The sequence numbers of the `i`-th own microbatch of a step (R378). -/
def State.mbSeqs (s : State) (slot step i : Nat) : List Nat :=
  let j := s.job slot
  (List.range (s.microbatch slot)).map (s.seqOf slot step (j.position + j.ranks.length * i))

/-- R384: whether every frame of the `i`-th own microbatch of a step has landed. -/
def State.mbLanded (s : State) (slot step i : Nat) : Bool :=
  (s.mbSeqs slot step i).all (fun q => (SMap.find? (s.job slot).landed q).isSome)

/-- The cores that hold a slot's tables. -/
def State.loadedCores (s : State) (slot : Nat) : List Nat :=
  (s.cores.filter (fun k => (k.2.slot slot).loaded)).map (·.1)

/-- R52, R55, R384: signals T24 on every core for each landed microbatch in ascending order, while the counters have room. -/
def State.signalSteps : Nat → State → Nat → State
  | 0, s, _ => s
  | n + 1, s, slot =>
    let j := s.job slot
    if j.mbCount = 0 || j.signalStep = 0 || j.committed + 2 < j.signalStep then s
    else if j.mbCount ≤ j.signalled then
      State.signalSteps n (s.updJob slot (fun j => { j with signalStep := j.signalStep + 1, signalled := 0 })) slot
    else if !s.mbLanded slot j.signalStep j.signalled then s
    else if (s.loadedCores slot).all (fun c => decide (((s.core c).slot slot).token 24 < 255)) then
      let s := (s.loadedCores slot).foldl (fun s c =>
        State.updCore s c (fun k => k.updSlot slot (fun cs => cs.signal [24]))) s
      State.signalSteps n (s.updJob slot (fun j => { j with signalled := j.signalled + 1 })) slot
    else s

/-- R384: signals what can be signalled. -/
def State.signalIngest (s : State) (slot : Nat) : State := State.signalSteps (2 * (s.job slot).mbCount + 3) s slot

/-! Batch segments. -/

/-- Table 7-5, word 0. -/
def batchWord0 (slot dst src step : Nat) : Nat :=
  slot % 4 * 2 ^ 56 + dst % 4096 * 2 ^ 44 + src % 4096 * 2 ^ 32 + step % 2 ^ 32

/-- A segment of a batch: the index of its first item, how many items end in it, their bytes, and whether it is a piece of one
item. -/
structure Seg where
  first : Nat := 0
  count : Nat := 0
  bytes : List Byte := []
  piece : Bool := false
  deriving DecidableEq, Repr

/-- The bytes of items that a message of 4,096 bytes holds beside the batch header (R338, R346). -/
def segRoom : Nat := 4072

/-- An item too long for one segment, in pieces; only the last one counts it as an item (log entry 37). -/
def splitItem : Nat → Nat → List Byte → List Seg
  | 0, _, _ => []
  | n + 1, i, bs =>
    if bs.length ≤ segRoom then [{ first := i, count := 1, bytes := bs, piece := true }]
    else { first := i, bytes := bs.take segRoom, piece := true } :: splitItem n i (bs.drop segRoom)

/-- R212, R213, R346: items packed into segments, in order; `acc` holds the last segment first. -/
def packSegments : List (List Byte) → Nat → List Seg → List Seg
  | [], _, acc => acc.reverse
  | x :: xs, i, acc =>
    if segRoom < x.length then packSegments xs (i + 1) ((splitItem (x.length + 1) i x).reverse ++ acc)
    else
      match acc with
      | g :: rest =>
        if !g.piece && g.bytes.length + x.length ≤ segRoom then
          packSegments xs (i + 1) ({ g with count := g.count + 1, bytes := g.bytes ++ x } :: rest)
        else packSegments xs (i + 1) ({ first := i, count := 1, bytes := x } :: acc)
      | [] => packSegments xs (i + 1) [{ first := i, count := 1, bytes := x }]

/-- The bodies of a batch's segments: header words and items; FIRST is 0 in a request (Table 7-5), and an empty batch is
one header. -/
def segmentBodies (w0 w1 : Nat) (request : Bool) (items : List (List Byte)) : List (List Word) :=
  let segs := match packSegments items 0 [] with | [] => [({} : Seg)] | l => l
  segs.map (fun g => [BitVec.ofNat 64 w0, BitVec.ofNat 64 w1,
    BitVec.ofNat 64 (g.count * 2 ^ 32 + (if request then 0 else g.first) % 2 ^ 32)] ++ bytesWords g.bytes)

/-! FP64 sums (R186, R246). -/

/-- FP64 rounding parameters. -/
def rparam64 : RParam := ⟨53, -1022, 2 ^ 53 - 1, 971, 11⟩

/-- The exact value of an FP64 code. -/
def dec64 (c : Nat) : FV := decodeBin 11 52 1023 true c

/-- An exact value rounded to FP64, ties to even. -/
def rn64 (x : FV) : Nat :=
  match x with
  | .nan => 0x7FF8000000000000
  | .inf n => if n then 0xFFF0000000000000 else 0x7FF0000000000000
  | .fin n m e =>
    match roundFin rparam64 .nearest n m e with
    | .code c _ => c
    | .beyond n => if n then 0xFFF0000000000000 else 0x7FF0000000000000

/-- FP64 addition. -/
def add64f (a b : Nat) : Nat := rn64 (addFV (dec64 a) (dec64 b))

/-- The square of an exact value, rounded to FP64. -/
def square64 (x : FV) : Nat := rn64 (mulFV x x)

end Sys2Proof.Machine
end

