-- ==== Sys2Proof/Machine/Gather.lean ====
section
/-! DEFINITION. The gather-combine unit of a core: BAG_SCAN, KEY_MERGE and RESP_EXPAND of the look-up path (R207 to R217)
and GRAD_SCAN, GRAD_FLUSH and GRAD_MERGE of the gradient path (R220 to R229). -/

namespace Sys2Proof.Machine

open Sys2Proof

/-! Shared by the GC operations. -/

/-- A GC operation of Tables 7-3 and 8-1. -/
def isGc (op : Nat) (e : Entry) : Bool := decide (e.op = op) && e.dv

/-- TABLE_FIRST to TABLE_LAST of word 3 (Tables 7-4, 8-2). -/
def gcTables (q : QEntry) : List Nat :=
  let a := bits (dword q 3) 47 38
  (List.range (bits (dword q 3) 57 48 + 1 - a)).map (· + a)

/-- The GC as a memory requester (log entry 20). -/
def gcAsker (c slot : Nat) (q : QEntry) : Asker :=
  { cls := 3, unit := 5, core := c, slot := slot, step := q.step, phase := q.entry.phase }

/-- Changes what a core's GC holds for a slot. -/
def State.updGcSlot (s : State) (c slot : Nat) (f : GcSlot → GcSlot) : State := s.updCore c (fun k => k.updGc slot f)

/-- What a core's GC holds for a slot. -/
def State.gcSlot (s : State) (c slot : Nat) : GcSlot := (s.core c).gcSlot slot

/-- R44: the CS ranges of a look-up entry, of which the spec gives the addresses only: the first line of its input lists, read, and
the first of its work area, written (Table 7-4, log entries 30, 161). -/
def gcLookRanges (c : Nat) (q : QEntry) : List CsRange :=
  csRanges c false [(operAddr q 0 (bits (dword q 0) 20 0), 64)] ++ csRanges c true [(operAddr q 1 (bits (dword q 0) 41 21), 64)]

/-- The accumulator pool of a gradient entry: its address and bytes (Table 8-2). -/
def accPool (q : QEntry) : Nat × Nat := (bits (dword q 3) 20 0, 64 * bits (dword q 3) 37 21)

/-- R44: the CS range of a gradient entry that works on its accumulators. -/
def gcAccRanges (c : Nat) (q : QEntry) : List CsRange := csRanges c true [accPool q]

/-! BAG_SCAN. -/

/-- R201: a missing id. -/
def missingId : Nat := 2 ^ 64 - 1

/-- R201: the key that an id takes. -/
def State.idKey (s : State) (slot t id : Nat) : Key := s.keyOf slot t (if id < s.rows slot t then id else defaultRow)

/-- R202: the retained occurrences of a bag in position order. -/
def State.bagOcc (s : State) (slot t : Nat) (fb : FrameBag) : List Occ :=
  ((fb.ids.zip fb.weights).take (s.maxBag slot t)).map (fun x => { key := s.idKey slot t x.1, weight := x.2 })

/-- R203: the fold order of a shard's occurrences: ascending row, then position. -/
def foldOrder (occ : List Occ) (shard : Nat) : List Occ :=
  sortBy (fun a b => decide (a.key.row < b.key.row)) (occ.filter (fun o => decide (o.key.shard = shard)))

/-- R207: adjacent identical keys of an unweighted group merged into one with a repeat count. -/
def mergeRepeats : List Occ → List Occ
  | [] => []
  | o :: os =>
    match mergeRepeats os with
    | p :: ps => if p.key = o.key then { o with rep := o.rep + p.rep } :: ps else o :: p :: ps
    | [] => [o]

/-- R207: a bag's groups, one for each distinct shard in ascending order, each with its shard. -/
def bagGroups (weighted : Bool) (occ : List Occ) : List (Nat × List Occ) :=
  (distinctUp (occ.map (·.key.shard))).map (fun sh =>
    (sh, if weighted then foldOrder occ sh else mergeRepeats (foldOrder occ sh)))

/-- A bag's place among the samples that the module processes in a step. -/
def State.bagPos (s : State) (slot mb j : Nat) : Nat := mb * s.microbatch slot + j

/-- The partial slot that names a bag's count in the staging area (log entry 21). -/
def countPart : Nat := 65535

/-- The one that names its slot plan. -/
def planPart : Nat := 65534

/-- R207, R220: a bag's slot plan in the staging area: a bit for each partial slot in use, in whole words, as a mask that the VE
reads; then its retained occurrences, each its row, weight, shard and partial slot (log entry 21). -/
def State.slotPlan (s : State) (slot t : Nat) (occ : List Occ) (shards : List Nat) : List Byte :=
  leBytes (8 * cdiv (s.maxBag slot t) 64) (2 ^ shards.length - 1) ++
  occ.flatMap (fun o => leBytes 8 o.key.row ++ leBytes 4 o.weight.toNat ++ leBytes 2 o.key.shard ++ leBytes 2 (shards.findIdx (· == o.key.shard)))

/-- R207: one bag of BAG_SCAN. The count is staged as a 4-byte FP32 value: the spec gives it no format, so that is the model's
choice (log entry 21). -/
def State.scanBag (s : State) (c slot : Nat) (q : QEntry) (t : Nat) (r : SampleRef) : State :=
  let seq := s.seqOf slot q.step r.mb r.j
  let fb := s.frameBag slot ((SMap.find? (s.job slot).landed seq).getD []) t
  let kept := fb.ids.take (s.maxBag slot t)
  let occ := s.bagOcc slot t fb
  let w := s.weighted slot t
  let gs := bagGroups w occ
  let s := s.inc (coreReg c 0x400) fb.ids.length
  let s := s.inc (coreReg c 0x428) (kept.filter (fun i => decide (i = missingId))).length
  let s := s.inc (coreReg c 0x430) (kept.filter (fun i => decide (i ≠ missingId) && decide (s.rows slot t ≤ i))).length
  let s := if kept.length < fb.ids.length then
      (s.inc (coreReg c 0x438) 1).raiseError { code := 0x0502, unit := 5, index := c, slot := slot, step := q.step,
                                               phase := q.entry.phase, q := some q, d5 := t, d6 := seq }
    else s
  let bag : Bag := { step := q.step, mb := r.mb, j := r.j, table := t, core := c, count := occ.length, occ := occ,
                     shards := gs.map (·.1) }
  let s := s.updJob slot (fun k => { k with bags := k.bags ++ [bag] })
  let stage := bits (dword q 1) 47 0
  let cnt := (rn32 (.fin false occ.length 0)).1
  let put := fun (s : State) (part : Nat) (bs : List Byte) =>
    (s.memWrite (gcAsker c slot q) (stage + Config.stagingOffset (s.bagPos slot r.mb r.j) t part) bs).2
  let s := put (put s countPart (leBytes 4 cnt.toNat)) planPart (s.slotPlan slot t occ (gs.map (·.1)))
  (gs.zip (List.range gs.length)).foldl (fun s g => s.updGcSlot (g.1.1 % 256) slot (fun k =>
    { k with groups := k.groups ++ [{ step := q.step, dest := { mb := r.mb, j := r.j, table := t, part := g.2 },
                                      weighted := w, occ := g.1.2 }] })) s

/-- Whether every sample that a scan names has landed (R384). -/
def State.allLanded (s : State) (slot step : Nat) (l : List SampleRef) : Bool :=
  l.all (fun r => (SMap.find? (s.job slot).landed (s.seqOf slot step r.mb r.j)).isSome)

/-- BAG_SCAN's work: every bag of each table in turn; one id in a beat (Table 7-8). -/
def bagScanWork (c slot : Nat) (samples : List SampleRef) (q : QEntry) (s : State) : Work :=
  let before := s.regN (coreReg c 0x400)
  let s := (gcTables q).foldl (fun s t => samples.foldl (fun s r => s.scanBag c slot q t r) s) s
  { st := s, beats := s.regN (coreReg c 0x400) - before }

/-- BAG_SCAN waits for its frames to land (R384), and for slate lines that do not complete (R71). -/
def bagScanHold (c slot : Nat) (samples : List SampleRef) : QEntry → State → Option State :=
  stallHold c 5 slot (bagScanWork c slot samples) (fun q s => if s.allLanded slot q.step samples then none else some s)

/-- BAG_SCAN (R201 to R203, R207): the core condenses the bags of its samples into groups. -/
def execBagScan (c : CoreId) (sl : SlotId) (samples : List SampleRef) (s : State) : Res :=
  .next (s.startEntry c.val 5 sl.val (isGc 0x01) freeWhenIdle (bagScanHold c.val sl.val samples) (gcLookRanges c.val)
    (bagScanWork c.val sl.val samples))

/-! KEY_MERGE. -/

/-- R208: the set that a key probes in a side of the combining table of `entries` entries. -/
def State.probeSet (s : State) (slot entries : Nat) (k : Key) : Nat :=
  ((s.placeRow slot k.table k.row).j + 131 * k.table) % (entries / 8)

/-- R208: the ways of the index side and the key records that met a full set. -/
structure IndexFill where
  ways : SMap (List Key) := []
  spilled : List Key := []

/-- R208: one key record probes its set. -/
def State.probe (s : State) (slot : Nat) (f : IndexFill) (k : Key) : IndexFill :=
  let set := s.probeSet slot (s.gcIndexEntries slot) k
  let ways := SMap.getD f.ways set []
  if ways.contains k then f
  else if ways.length < 8 then { f with ways := SMap.put f.ways set (ways ++ [k]) }
  else { f with spilled := f.spilled ++ [k] }

/-- R68, R69, R208: the key records of an operation that go to the spill path; those of a filler job all do. -/
def State.spilledKeys (s : State) (slot : Nat) (recs : List GroupRec) : List Key :=
  let keys := recs.flatMap (fun g => g.occ.map (·.key))
  if slot = 0 then (keys.foldl (s.probe slot) {}).spilled else keys

/-- Distinct keys in ascending (shard, table, row). -/
def uniqueKeys (keys : List Key) : List Key :=
  (sortBy Key.lt keys).foldl (fun acc k => if acc.getLast? = some k then acc else acc ++ [k]) []

/-- R203: a group of one occurrence. -/
def isSingle (occ : List Occ) : Bool :=
  match occ with
  | [o] => decide (o.rep = 1)
  | _ => false

/-- R210: groups with bit-identical occurrence lists merged, with their fan-out lists. -/
def mergeGroups (recs : List GroupRec) : List GroupOut :=
  recs.foldl (fun acc g =>
    if acc.any (fun x => x.weighted == g.weighted && decide (x.occ = g.occ)) then
      acc.map (fun x => if x.weighted == g.weighted && decide (x.occ = g.occ) then { x with fan := x.fan ++ [g.dest] } else x)
    else acc ++ [{ weighted := g.weighted, occ := g.occ, fan := [g.dest] }]) []

/-- Lexicographic order of two lists of numbers. -/
def lexLt : List Nat → List Nat → Bool
  | [], [] => false
  | [], _ :: _ => true
  | _ :: _, [] => false
  | a :: as, b :: bs => decide (a < b) || (decide (a = b) && lexLt as bs)

/-- Index of a key in a batch's row entries. -/
def keyIndex (keys : List KeyOut) (k : Key) : Nat := keys.findIdx (fun x => decide (x.key = k))

/-- Table 7-7: the occurrence words of a group. -/
def occWords (keys : List KeyOut) (g : GroupOut) : List Nat := g.occ.map (fun o => o.rep % 2048 * 2 ^ 32 + keyIndex keys o.key)

/-- R211: the order of distinct groups in a batch. -/
def groupLt (keys : List KeyOut) (a b : GroupOut) : Bool :=
  let sh := fun (g : GroupOut) => match g.occ with | o :: _ => o.key.shard | [] => 0
  let k := fun (g : GroupOut) => occWords keys g
  let w := fun (g : GroupOut) => g.occ.map (·.weight.toNat)
  decide (sh a < sh b) || (decide (sh a = sh b) &&
    (lexLt (k a) (k b) || (decide (k a = k b) && lexLt (w a) (w b))))

/-- R210, R211: the request batch of one owner. -/
def makeBatch (owner : Nat) (recs : List GroupRec) : ReqBatch :=
  let singles := recs.filter (fun g => isSingle g.occ)
  let keys := (uniqueKeys (recs.flatMap (fun g => g.occ.map (·.key)))).map (fun k =>
    let mine := singles.filter (fun g => g.occ.any (fun o => decide (o.key = k)))
    ({ key := k, ret := !mine.isEmpty,
       fan := mine.map (fun g => (g.dest, match g.occ with | o :: _ => o.weight | [] => 0)) } : KeyOut))
  { owner := owner, keys := keys, groups := sortBy (groupLt keys) (mergeGroups (recs.filter (fun g => !isSingle g.occ))) }

/-- The shard of a group record. -/
def GroupRec.shard (g : GroupRec) : Nat := match g.occ with | o :: _ => o.key.shard | [] => 0

/-- R211: one request batch for each owner that holds a shard with keys, owners rising. -/
def State.makeBatches (s : State) (slot : Nat) (recs : List GroupRec) : List ReqBatch :=
  (distinctUp (recs.map (fun g => s.ownerOf slot g.shard))).map (fun o =>
    makeBatch o (recs.filter (fun g => decide (s.ownerOf slot g.shard = o))))

/-- Table 7-6: a row entry. -/
def rowEntry (k : Key) (ret : Bool) : Nat :=
  (if ret then 2 ^ 51 else 0) + k.table % 1024 * 2 ^ 40 + (if k.row = defaultRow then 2 ^ 50 else k.row % 2 ^ 40)

/-- Table 7-7: a group entry's words. -/
def groupWords (keys : List KeyOut) (g : GroupOut) : List Word :=
  let ws := if g.weighted then bytesWords (padTo 8 (g.occ.flatMap (fun o => leBytes 4 o.weight.toNat))) else []
  BitVec.ofNat 64 ((if g.weighted then 2 ^ 11 else 0) + g.occ.length % 2048) ::
    (occWords keys g).map (BitVec.ofNat 64) ++ ws

/-- R212: sends a request batch as ROW_REQUEST segments. -/
def State.sendBatch (s : State) (c slot step : Nat) (b : ReqBatch) : State :=
  let items := b.keys.map (fun k => leBytes 8 (rowEntry k.key k.ret)) ++ b.groups.map (fun g => wordsBytes (groupWords b.keys g))
  let w1 := b.groups.length % 2 ^ 24 * 2 ^ 24 + b.keys.length % 2 ^ 24
  (segmentBodies (batchWord0 slot b.owner s.ownRank step) w1 true items).foldl
    (fun s body => s.sendTo 0x03 slot b.owner step c 0 0 body) s

/-- R35: no hard boundary before a step waits for its closing round. -/
def JobSlot.closed (j : JobSlot) (step : Nat) : Bool :=
  match j.hardStep with
  | some n => decide (step ≠ n + 1) || decide (n ≤ j.closedStep)
  | none => true

/-- R31, R35: whether the row requests of a step may leave. -/
def State.requestGate (s : State) (slot step : Nat) : Bool :=
  let j := s.job slot
  decide (step ≤ j.okStep + 1) && !j.stopped && !j.halted && j.closed step

/-- R31: the held request batches of a core leave when their gate is open. -/
def State.releaseCore (s : State) (slot c : Nat) : State :=
  (s.gcSlot c slot).batches.foldl (fun s e =>
    if s.requestGate slot e.1 && e.2.any (fun b => !b.sent) then
      let s := (e.2.filter (fun b => !b.sent)).foldl (fun s b => s.sendBatch c slot e.1 b) s
      s.updGcSlot c slot (fun k => { k with batches := SMap.upd k.batches e.1 [] (fun l => l.map (fun b => { b with sent := true })) })
    else s) s

/-- R31: the held request batches of a slot leave. -/
def State.releaseRequests (s : State) (slot : Nat) : State :=
  (s.cores.map (·.1)).foldl (fun s c => s.releaseCore slot c) s

/-- The group records of a step at a core. -/
def GcSlot.ofStep (k : GcSlot) (step : Nat) : List GroupRec := k.groups.filter (fun g => decide (g.step = step))

/-- R209: the chunks of the spill pool that an operation needs. -/
def chunksFor (spilled : Nat) : Nat := cdiv (16 * spilled) 65536

/-- R209: the chunks that a core holds for a step, by number. -/
def GcSlot.chunksOf (k : GcSlot) (step : Nat) : List Nat := (k.chunks.filter (fun x => decide (x.1 = step))).map (·.2)

/-- R209: an operation that lacks chunks asks for the next one, behind the requests before its own, and waits, counted in
GC_FULL_STALL. -/
def State.askChunk (s : State) (c slot need : Nat) : State :=
  let s := s.updJob slot (fun j => if j.spillWait.contains c then j else { j with spillWait := j.spillWait ++ [c] })
  (s.updGcSlot c slot (fun k => { k with wanted := need })).inc (coreReg c 0x80) 1

/-- The module address of the `i`-th spilled key record of a step: 4,096 records fill a chunk (Table 7-4, R209). -/
def spillAddr (q : QEntry) (chunks : List Nat) (i : Nat) : Nat :=
  bits (dword q 2) 47 0 + 65536 * atD chunks (i / 4096) 0 + 16 * (i % 4096)

/-- A key record of 16 bytes: the row entry's word, then the shard (log entry 144). -/
def keyRecord (k : Key) : List Byte := leBytes 8 (rowEntry k false) ++ leBytes 8 k.shard

/-- R68, R208, R209: the spilled key records go to their chunks, and come back to be sorted. -/
def State.spillKeys (s : State) (c slot : Nat) (q : QEntry) (keys : List Key) : State :=
  let chunks := (s.gcSlot c slot).chunksOf q.step
  let at_ := keys.zip ((List.range keys.length).map (spillAddr q chunks))
  let s := at_.foldl (fun s x => (State.memWrite s (gcAsker c slot q) x.2 (keyRecord x.1)).2) s
  at_.foldl (fun s x => (State.memRead s (gcAsker c slot q) x.2 16).st) s

/-- KEY_MERGE's work: the keys of the records addressed to the core are numbered and the batches formed (R208 to R211). -/
def keyMergeWork (c slot : Nat) (q : QEntry) (s : State) : Work :=
  let recs := (s.gcSlot c slot).ofStep q.step
  let keys := s.spilledKeys slot recs
  let spilled := keys.length
  let s := s.spillKeys c slot q keys
  let batches := s.makeBatches slot recs
  let nKeys := (batches.map (·.keys.length)).foldl (· + ·) 0
  let nGroups := (batches.map (·.groups.length)).foldl (· + ·) 0
  let multi := (recs.filter (fun g => !isSingle g.occ)).length
  let s := (s.inc (coreReg c 0x408) nKeys).inc (coreReg c 0x410) nGroups
  let s := (s.inc (coreReg c 0x418) (multi - nGroups)).inc (coreReg c 0x420) spilled
  let s := if spilled = 0 then s else s.inc (coreReg c 0x78) 1
  let s := s.updGcSlot c slot (fun k =>
    { k with groups := k.groups.filter (fun g => decide (g.step ≠ q.step)), wanted := 0, batches := SMap.put k.batches q.step batches })
  { st := s.releaseCore slot c, beats := recs.length + (if spilled = 0 then 0 else 4 * spilled + nKeys) }

/-- KEY_MERGE waits for the chunks that its spilled keys need (R209), for credits and for slate lines that do not complete (R71). -/
def keyMergeHold (c slot : Nat) : QEntry → State → Option State :=
  stallHold c 5 slot (keyMergeWork c slot) (fun q s =>
    let k := s.gcSlot c slot
    let need := chunksFor (s.spilledKeys slot (k.ofStep q.step)).length
    if need ≤ (k.chunksOf q.step).length then s.creditHold slot (coreReg c 0x80) else some (s.askChunk c slot need))

/-- KEY_MERGE (R208 to R211, R218): a coalescing core merges the groups of its shards into unique keys and batches. -/
def execKeyMerge (c : CoreId) (sl : SlotId) (s : State) : Res :=
  .next (s.startEntry c.val 5 sl.val (isGc 0x02) freeWhenIdle (keyMergeHold c.val sl.val) (gcLookRanges c.val)
    (keyMergeWork c.val sl.val))

/-- R209: the chunks of a slot's pool that its cores hold. -/
def State.chunksHeld (s : State) (slot : Nat) : List Nat := s.cores.flatMap (fun k => (k.2.gcSlot slot).chunks.map (·.2))

/-- R209: the chunks of the pool that the waiting operation's descriptor gives. -/
def poolChunks (q : QEntry) : Nat := bits (dword q 3) 37 0 * 64 / 65536

/-- SPILL_CHUNK_GRANT (R209): the XU of die 0 grants a free chunk of the pool to a core whose request is the oldest of its pool. -/
def execSpillChunkGrant (c : CoreId) (s : State) : Res :=
  .next (match (List.range 4).find? (fun sl => (s.job sl).spillWait.head? = some c.val) with
  | none => s
  | some sl =>
    match s.head c.val 5 sl with
    | none => s
    | some q =>
      match (List.range (poolChunks q)).find? (fun n => !(s.chunksHeld sl).contains n) with
      | none => s
      | some n =>
        (s.updJob sl (fun j => { j with spillWait := j.spillWait.drop 1 })).updGcSlot c.val sl (fun k => { k with chunks := k.chunks ++ [(q.step, n)] }))

/-! RESP_EXPAND. -/

/-- R213: the items of the response to a batch. -/
def ReqBatch.expected (b : ReqBatch) : Nat := (b.keys.filter (·.ret)).length + b.groups.length

/-- R347: every item of a batch's response has arrived. -/
def ReqBatch.arrived (b : ReqBatch) : Bool := b.sent && decide (b.items.length = b.expected)

/-- FP32 codes as bytes. -/
def w32Bytes (l : List W32) : List Byte := l.flatMap (fun x => leBytes 4 x.toNat)

/-- Bytes as `n` FP32 codes. -/
def bytesW32 (n : Nat) (bs : List Byte) : List W32 := (List.range n).map (fun i => BitVec.ofNat 32 (leNat ((bs.drop (4 * i)).take 4)))

/-- Writes a partial into a bag's partial slot in the staging area. -/
def State.putPartial (s : State) (c slot : Nat) (q : QEntry) (d : BagSlot) (p : List W32) : State :=
  (s.memWrite (gcAsker c slot q) (bits (dword q 1) 47 0 + Config.stagingOffset (s.bagPos slot d.mb d.j) d.table d.part) (w32Bytes p)).2

/-- R217: one returned row: each single group's partial is rn32(w*x); a scale word that fails R138 is an error of the row. -/
def State.expandRow (s : State) (c slot : Nat) (q : QEntry) (k : KeyOut) (bs : List Byte) : State :=
  let n := s.dim slot k.key.table
  let f := s.tabFmt slot k.key.table
  match decodeWeights f n (rowSerial k.key) ((bs.drop 8).take (weightBytes f n)) with
  | some x => k.fan.foldl (fun s d => s.putPartial c slot q d.1 (x.map (fun v => (fmul d.2 v).1))) s
  | none => s.entryError 0x0303 c slot q false k.key.table k.key.row 0

/-- R217: one batch's items go to the bags on their fan-out lists. -/
def State.expandBatch (s : State) (c slot : Nat) (q : QEntry) (b : ReqBatch) : State :=
  let rets := b.keys.filter (·.ret)
  let s := (rets.zip (List.range rets.length)).foldl (fun s k => s.expandRow c slot q k.1 (SMap.getD b.items k.2 [])) s
  (b.groups.zip (List.range b.groups.length)).foldl (fun s g =>
    let n := match g.1.occ with | o :: _ => s.dim slot o.key.table | [] => 0
    let p := bytesW32 n (SMap.getD b.items (rets.length + g.2) [])
    g.1.fan.foldl (fun s d => s.putPartial c slot q d p) s) s

/-- The request batches of a step at a core. -/
def State.batchesOf (s : State) (c slot step : Nat) : List ReqBatch := SMap.getD (s.gcSlot c slot).batches step []

/-- RESP_EXPAND's work. -/
def respExpandWork (c slot : Nat) (q : QEntry) (s : State) : Work :=
  let bs := s.batchesOf c slot q.step
  let fan := (bs.map (fun b => (b.keys.map (·.fan.length)).foldl (· + ·) 0 + (b.groups.map (·.fan.length)).foldl (· + ·) 0)).foldl (· + ·) 0
  let s := bs.foldl (fun s b => s.expandBatch c slot q b) s
  { st := s.updGcSlot c slot (fun k => { k with batches := SMap.upd k.batches q.step [] (fun l => l.map (fun b => { b with expanded := true })) }),
    beats := fan }

/-- RESP_EXPAND waits for the items of the responses, and for slate lines that do not complete (R71). -/
def respExpandHold (c slot : Nat) : QEntry → State → Option State :=
  stallHold c 5 slot (respExpandWork c slot) (fun q s => if (s.batchesOf c slot q.step).all ReqBatch.arrived then none else some s)

/-- RESP_EXPAND (R217): the partials of this core's responses go into the bags' partial slots; it waits for the items. -/
def execRespExpand (c : CoreId) (sl : SlotId) (s : State) : Res :=
  .next (s.startEntry c.val 5 sl.val (isGc 0x03) freeWhenIdle (respExpandHold c.val sl.val) (gcLookRanges c.val)
    (respExpandWork c.val sl.val))

/-! Occurrence gradients (R220 to R224). -/

/-- `numerics.row_grad_headroom`. -/
def State.headroom (s : State) (slot : Nat) : Nat := s.jobCfg slot 0x8202 4

/-- G_T of the last step; `numerics.row_grad_exp_init` where no step and no checkpoint set it (R176). -/
def State.gT (s : State) (slot t : Nat) : Int :=
  SMap.getD (s.job slot).num.gT t (sint 32 (s.jobCfg slot 0x8203 (2 ^ 32 - 12)))

/-- E_T of the open step (R176). -/
def State.eT (s : State) (slot t : Nat) : Int := s.gT slot t + s.headroom slot

/-- A code with its NaNs made 0x7FC0_0000. -/
def canon32 (w : W32) : W32 := if isNan32 w then qnan else w

/-- R220, R221: the occurrence gradient of an occurrence of weight `w` in a bag with gradient `g`. -/
def occGrad (mean weighted : Bool) (count : Nat) (w : W32) (g : List W32) : List W32 :=
  let n := (rn32 (.fin false count 0)).1
  let d := if mean then g.map (fun x => (fdiv x n).1) else g
  if weighted then d.map (fun x => canon32 (fmul w x).1) else d

/-- The bag-gradient area of an entry's own microbatch (R220, Table 8-2). -/
def gradArea (q : QEntry) : Nat := operAddr q 0 (bits (dword q 0) 47 0)

/-- The bag's gradient in a bag-gradient area (R220). -/
def State.bagGrad (s : State) (c slot : Nat) (q : QEntry) (area : Nat) (b : Bag) : List W32 × State :=
  let n := s.dim slot b.table
  let r := s.memRead (gcAsker c slot q) (area + Config.bagGradOffset b.j b.table) (4 * n)
  (bytesW32 n (r.bytes.getD []), r.st)

/-- What one occurrence's conversion gave: its q vector, its non-finite block mask, the elements that were clamped, and
the number of non-finite elements. -/
structure OccConv where
  q : List Int := []
  nf : Nat := 0
  sat : List Nat := []
  bad : Nat := 0
  deriving DecidableEq, Repr

/-- The largest BI48 magnitude that R222 clamps to. -/
def bi48Max : Int := 2 ^ 47 - 1

/-- BI48 saturation of element `e`, and the element if it saturated. -/
def satBI48 (e : Nat) (x : Int) : Int × List Nat := let c := clampInt (-bi48Max) bi48Max x; (c, if c = x then [] else [e])

/-- R222: the conversion of an occurrence under its own Pennant key. -/
def convertOcc (seed step t mb j pos : Nat) (ex : Int) (x : List W32) : OccConv :=
  (x.zip (List.range x.length)).foldl (fun o v =>
    match dec32 v.1 with
    | .fin neg m e =>
      let u := pennantU seed step (0xFC00 + t) mb ((j * 1024 + pos) * 1024 + v.2)
      let r := satBI48 v.2 (toBI (.stochastic u) ex (.fin neg m e))
      { o with q := o.q ++ [r.1], sat := o.sat ++ r.2 }
    | _ => { o with q := o.q ++ [0], nf := o.nf ||| 2 ^ (v.2 / 32), bad := o.bad + 1 }) {}

/-- BI48 addition of two vectors with saturation, and the elements that saturated. -/
def addBI48 (a b : List Int) : List Int × List Nat :=
  (a.zip b).foldl (fun acc x => let r := satBI48 acc.1.length (x.1 + x.2); (acc.1 ++ [r.1], acc.2 ++ r.2)) ([], [])

/-- Counts clamps and saturations in GC_GRAD_SAT and the step's guard-overflow count, and records them with the table and
the first element's block (R173, R222). -/
def State.countSat (s : State) (c slot t : Nat) (q : QEntry) (l : List Nat) : State :=
  match l with
  | [] => s
  | e :: _ =>
    let s := (s.inc (coreReg c 0x450) l.length).updJob slot (fun j => { j with num := { j.num with guardOvf := j.num.guardOvf + l.length } })
    s.raiseError { code := 0x0604, unit := 5, index := c, slot := slot, step := q.step, phase := q.entry.phase, q := some q,
                   d5 := t, d6 := e / 32 }

/-! GRAD_SCAN. -/

/-- R225: the resident keys that share a key's set. -/
def State.setMates (s : State) (slot : Nat) (l : List GradAcc) (k : Key) : Nat :=
  let e := 4096 - s.gcIndexEntries slot
  (l.filter (fun a => decide (s.probeSet slot e a.key = s.probeSet slot e k))).length

/-- R225: the lines of the accumulator pool that the resident keys take. -/
def State.accLines (s : State) (slot : Nat) (l : List GradAcc) : Nat :=
  (l.map (fun a => 3 * blocksOf (s.dim slot a.key.table))).foldl (· + ·) 0

/-- R69, R225, R226, R247: whether a new key finds a way and room in the pool; a filler's never does. -/
def State.gradRoom (s : State) (slot : Nat) (q : QEntry) (l : List GradAcc) (k : Key) : Bool :=
  decide (slot = 0) && decide (s.setMates slot l k < 8) &&
  decide (s.accLines slot l + 3 * blocksOf (s.dim slot k.table) ≤ bits (dword q 3) 37 21)

/-- Adds a q vector into the accumulator of its key, which the list holds. -/
def addAcc (l : List GradAcc) (k : Key) (nf : Nat) (q : List Int) : List GradAcc × List Nat :=
  l.foldl (fun acc a =>
    if a.key = k then
      let r := addBI48 a.sums q
      (acc.1 ++ [{ a with nf := a.nf ||| nf, sums := r.1 }], acc.2 ++ r.2)
    else (acc.1 ++ [a], acc.2)) ([], [])

/-- R226: a spill record of 16 bytes: the row entry's word, then (k, j, pos) (log entry 144). -/
def SpillRec.bytes (r : SpillRec) : List Byte :=
  leBytes 8 (rowEntry r.key false) ++ leBytes 8 (r.mb % 2 ^ 24 * 2 ^ 26 + r.j % 2 ^ 16 * 2 ^ 10 + r.pos % 2 ^ 10)

/-- The module address of the `i`-th spill record of a core (Table 8-2). -/
def gspillAddr (q : QEntry) (i : Nat) : Nat := bits (dword q 2) 47 0 + 16 * i

/-- R225, R226: one converted occurrence goes to its accumulator or to the spill path. -/
def State.takeOcc (s : State) (c slot : Nat) (q : QEntry) (b : Bag) (pos : Nat) (k : Key) (o : OccConv) : State :=
  let l := (s.gcSlot c slot).resident
  if l.any (fun a => decide (a.key = k)) then
    let r := addAcc l k o.nf o.q
    (s.updGcSlot c slot (fun g => { g with resident := r.1 })).countSat c slot k.table q r.2
  else if s.gradRoom slot q l k then
    s.updGcSlot c slot (fun g => { g with resident := g.resident ++ [{ key := k, nf := o.nf, sums := o.q }] })
  else
    let r : SpillRec := { key := k, mb := b.mb, j := b.j, pos := pos, area := gradArea q }
    let s := (s.memWrite (gcAsker c slot q) (gspillAddr q (s.gcSlot c slot).spill.length) r.bytes).2
    (s.updGcSlot c slot (fun g => { g with spill := g.spill ++ [r] })).inc (coreReg c 0x448) 1

/-- R224: the code of the largest non-zero finite element. -/
def occCode (x : List W32) : Nat := maxCode ((x.map dec32).filter FV.isFin)

/-- The occurrence gradient and its conversion (R220 to R222). -/
def State.occurrence (s : State) (slot step : Nat) (b : Bag) (pos : Nat) (g : List W32) : List W32 × OccConv :=
  let w := match b.occ[pos]? with | some o => o.weight | none => 0
  let x := occGrad (s.meanPool slot b.table) (s.weighted slot b.table) b.count w g
  (x, convertOcc (s.seed slot) step b.table b.mb b.j pos (s.eT slot b.table) x)

/-- R221 to R226: one occurrence of GRAD_SCAN. -/
def State.scanOcc (s : State) (c slot : Nat) (q : QEntry) (b : Bag) (g : List W32) (o : Occ × Nat) : State :=
  if s.frozenKey slot o.1.key then s.inc (coreReg c 0x460) 1
  else
    let r := s.occurrence slot q.step b o.2 g
    let s := ((s.inc (coreReg c 0x440) 1).inc (coreReg c 0x458) r.2.bad).countSat c slot b.table q r.2.sat
    let s := s.updJob slot (fun j => { j with num := { j.num with gCodes := SMap.upd j.num.gCodes b.table 0 (max (occCode r.1)) } })
    s.takeOcc c slot q b o.2 o.1.key r.2

/-- R225: the bags that a GRAD_SCAN entry takes, in ascending sample index, then table. -/
def State.gradBags (s : State) (c slot : Nat) (q : QEntry) : List Bag :=
  sortBy (fun a b => decide (a.j < b.j) || (decide (a.j = b.j) && decide (a.table < b.table)))
    ((s.job slot).bags.filter (fun b => decide (b.step = q.step) && decide (b.core = c) && decide (some b.mb = q.mb) &&
      (gcTables q).contains b.table))

/-- R220, R225: one bag of GRAD_SCAN; an empty bag's gradient is never read. -/
def State.scanGrad (s : State) (c slot : Nat) (q : QEntry) (b : Bag) : State :=
  if b.occ.isEmpty then s
  else
    let r := s.bagGrad c slot q (gradArea q) b
    (b.occ.zip (List.range b.occ.length)).foldl (fun s o => s.scanOcc c slot q b r.1 o) r.2

/-! The accumulator pool (R225): each resident key's blocks of 192 bytes in the order in which the keys came. -/

/-- The bytes of an accumulator: BI48 elements, those past N zero. -/
def accBytes (nb : Nat) (sums : List Int) : List Byte := (List.range (32 * nb)).flatMap (fun e => leBytes 6 (ofInt 48 (atD sums e 0)))

/-- The bytes of accumulators one after another. -/
def poolBytes (l : List GradAcc) : List Byte := l.flatMap (fun a => accBytes (blocksOf a.sums.length) a.sums)

/-- Accumulators with their sums as the pool holds them. -/
def fromPool (bs : List Byte) : List GradAcc → List GradAcc
  | [] => []
  | a :: rest =>
    { a with sums := (List.range a.sums.length).map (fun e => sint 48 (leNat ((bs.drop (6 * e)).take 6))) } ::
      fromPool (bs.drop (192 * blocksOf a.sums.length)) rest

/-- The bytes of the pool in use. -/
def poolUse (l : List GradAcc) : Nat := (l.map (fun a => 192 * blocksOf a.sums.length)).foldl (· + ·) 0

/-- R225: the resident accumulators as the core store holds them; none where a word of them cannot be corrected (Table 16-1). -/
def State.loadAccs (s : State) (c slot : Nat) (q : QEntry) : Option (List GradAcc) :=
  let l := (s.gcSlot c slot).resident
  let a := (accPool q).1
  let k := s.core c
  if k.cs.bad a (poolUse l) then none else some (fromPool (k.cs.read a (poolUse l)) l)

/-- R225: the resident accumulators go to the core store. -/
def State.storeAccs (s : State) (c slot : Nat) (q : QEntry) : State :=
  let bs := poolBytes (s.gcSlot c slot).resident
  s.updCore c (fun k => { k with cs := (k.cs.write (accPool q).1 bs).1 })

/-- What a gradient entry does when its accumulators cannot be read. -/
def accFault (c slot : Nat) (q : QEntry) (s : State) : Work :=
  let a := (accPool q).1
  { st := s.entryError 0x0103 c slot q false ((s.core c).cs.badAt [(a, poolUse (s.gcSlot c slot).resident)] a) 0 0, dead := true }

/-- GRAD_SCAN's work; its first spill counts GC_SPILL_COUNT once (R226). -/
def gradScanWork (c slot : Nat) (q : QEntry) (s : State) : Work :=
  match s.loadAccs c slot q with
  | none => accFault c slot q s
  | some l =>
    let before := s.regN (coreReg c 0x448)
    let bags := s.gradBags c slot q
    let s := s.updGcSlot c slot (fun g => { g with resident := l })
    let s := (bags.foldl (fun s b => s.scanGrad c slot q b) s).storeAccs c slot q
    let s := if before < s.regN (coreReg c 0x448) then s.inc (coreReg c 0x78) 1 else s
    { st := s, beats := (bags.map (·.occ.length)).foldl (· + ·) 0 }

/-- GRAD_SCAN waits for slate lines that do not complete (R71). -/
def gradScanHold (c slot : Nat) : QEntry → State → Option State := stallHold c 5 slot (gradScanWork c slot) noHold

/-- GRAD_SCAN (R220 to R226, R247): the microbatch's occurrence gradients are converted and accumulated by key. -/
def execGradScan (c : CoreId) (sl : SlotId) (s : State) : Res :=
  .next (s.startEntry c.val 5 sl.val (isGc 0x10) freeWhenIdle (gradScanHold c.val sl.val) (gcAccRanges c.val) (gradScanWork c.val sl.val))

/-! GRAD_FLUSH. -/

/-- R227: one spilled occurrence is converted again and added into its key's sum. -/
def State.unspill (c slot : Nat) (q : QEntry) (acc : List GradAcc × State) (r : SpillRec) : List GradAcc × State :=
  match (acc.2.job slot).bags.find? (fun b => decide (b.step = q.step) && decide (b.mb = r.mb) && decide (b.j = r.j) &&
      decide (b.table = r.key.table) && decide (b.core = c)) with
  | none => acc
  | some b =>
    let g := acc.2.bagGrad c slot q r.area b
    let o := (g.2.occurrence slot q.step b r.pos g.1).2
    if acc.1.any (fun a => decide (a.key = r.key)) then
      let x := addAcc acc.1 r.key o.nf o.q
      (x.1, g.2.countSat c slot r.key.table q x.2)
    else (acc.1 ++ [{ key := r.key, nf := o.nf, sums := o.q }], g.2)

/-- R226, R227: the spill records are read back. -/
def State.readSpill (s : State) (c slot : Nat) (q : QEntry) (n : Nat) : State :=
  (List.range n).foldl (fun s i => (State.memRead s (gcAsker c slot q) (gspillAddr q i) 16).st) s

/-- GRAD_FLUSH's work: one flush record for each unique key goes to the key's coalescing core. -/
def gradFlushWork (c slot : Nat) (q : QEntry) (s : State) : Work :=
  match s.loadAccs c slot q with
  | none => accFault c slot q s
  | some l =>
    let k := s.gcSlot c slot
    let spill := sortBy (fun a b => Key.lt a.key b.key) k.spill
    let r := spill.foldl (State.unspill c slot q) (l, s.readSpill c slot q k.spill.length)
    let recs := sortBy (fun a b => Key.lt a.key b.key) r.1
    let s := r.2.updGcSlot c slot (fun g => { g with resident := [], spill := [] })
    { st := recs.foldl (fun s a => s.updGcSlot a.key.core slot (fun g => { g with flushed := g.flushed ++ [a] })) s,
      beats := 4 * spill.length + recs.length }

/-- GRAD_FLUSH waits for slate lines that do not complete (R71). -/
def gradFlushHold (c slot : Nat) : QEntry → State → Option State := stallHold c 5 slot (gradFlushWork c slot) noHold

/-- GRAD_FLUSH (R227): the core's sums leave for the coalescing cores. -/
def execGradFlush (c : CoreId) (sl : SlotId) (s : State) : Res :=
  .next (s.startEntry c.val 5 sl.val (isGc 0x11) freeWhenIdle (gradFlushHold c.val sl.val) (gcAccRanges c.val) (gradFlushWork c.val sl.val))

/-! GRAD_MERGE. -/

/-- R228: a key's sum over the flush records. -/
def flushSum (n : Nat) (k : Key) (l : List GradAcc) : GradAcc × List Nat :=
  (l.filter (fun a => decide (a.key = k))).foldl (fun acc a =>
    let r := addBI48 acc.1.sums a.sums
    ({ key := k, nf := acc.1.nf ||| a.nf, sums := r.1 }, acc.2 ++ r.2)) ({ key := k, sums := List.replicate n 0 }, [])

/-- Table 8-4: a gradient entry's bytes. -/
def gradEntryBytes (nb entry : Nat) (a : GradAcc) : List Byte :=
  leBytes 8 (rowEntry a.key false) ++ leBytes 8 (entry % 2 ^ 24 * 2 ^ 32 + a.nf % 2 ^ 32) ++ accBytes nb a.sums

/-- R228, R229: the gradient batch that answers a request batch. -/
def State.sendGrad (s : State) (c slot : Nat) (q : QEntry) (flushed : List GradAcc) (b : ReqBatch) : State :=
  let es := (b.keys.zip (List.range b.keys.length)).filter (fun k => !s.frozenKey slot k.1.key)
  let sums := es.map (fun k => (flushSum (s.dim slot k.1.key.table) k.1.key flushed, k.2))
  let items := sums.map (fun x => gradEntryBytes (blocksOf (s.dim slot x.1.1.key.table)) x.2 x.1.1)
  let s := sums.foldl (fun s x => s.countSat c slot x.1.1.key.table q x.1.2) (s.inc (coreReg c 0x468) items.length)
  (segmentBodies (batchWord0 slot b.owner s.ownRank q.step) (c % 256 * 2 ^ 24 + items.length % 2 ^ 24) false items).foldl
    (fun s body => s.sendTo 0x05 slot b.owner q.step c 0 0 body) s

/-- GRAD_MERGE's work; a flush record whose key is not in the list stops it with a record (R228). -/
def gradMergeWork (c slot : Nat) (q : QEntry) (s : State) : Work :=
  let k := s.gcSlot c slot
  let bs := s.batchesOf c slot q.step
  match k.flushed.find? (fun a => !bs.any (fun b => b.keys.any (fun x => decide (x.key = a.key)))) with
  | some a => { st := s.entryError 0x0405 c slot q false s.ownRank c (rowEntry a.key false), dead := true }
  | none =>
    let s := (bs.filter (fun b => !b.gradSent)).foldl (fun s b => s.sendGrad c slot q k.flushed b) s
    let sent := fun (b : ReqBatch) => { b with gradSent := true }
    { st := s.updGcSlot c slot (fun g => { g with flushed := [], batches := SMap.upd g.batches q.step [] (List.map sent) }),
      beats := k.flushed.length }

/-- GRAD_MERGE waits for credits (R71). -/
def gradMergeHold (c slot : Nat) (_ : QEntry) (s : State) : Option State := s.creditHold slot (coreReg c 0x80)

/-- GRAD_MERGE (R228, R229): one BI48 sum for each key goes to its owner in the batch that answers its request batch. -/
def execGradMerge (c : CoreId) (sl : SlotId) (s : State) : Res :=
  .next (s.startEntry c.val 5 sl.val (isGc 0x12) freeWhenIdle (gradMergeHold c.val sl.val) (fun _ => []) (gradMergeWork c.val sl.val))

end Sys2Proof.Machine
end

