-- ==== Sys2Proof/Machine/RowOptim.lean ====
section
/-! DEFINITION. The arithmetic of a row update (R235 to R239): the optimisers of Table 8-6 over one row, the conversion of
its summed gradient, and the new record. -/

namespace Sys2Proof.Machine

open Sys2Proof

/-- A table's optimiser and its hyperparameters in force, as FP32 codes (Table 8-5). -/
structure OptParams where
  kind : Nat := 3
  lr : W32 := 0
  decay : W32 := 0
  coupled : Bool := true
  mu : W32 := 0
  beta1 : W32 := 0
  beta2 : W32 := 0
  eps : W32 := 0
  deriving DecidableEq, Repr

/-- Table 8-5: the fields of a table with their derivations; 4 and 5 are the adam kinds. -/
def State.optParams (s : State) (slot t : Nat) : OptParams :=
  let o := s.optimizer slot t
  let f := fun (id d : Nat) => (BitVec.ofNat 32 (s.tab slot id t d) : W32)
  { kind := o, lr := f 0x401 0x3C23D70A, decay := f 0x402 0,
    coupled := decide (s.tab slot 0x8403 t (if o = 4 || o = 5 then 1 else 0) = 0),
    mu := f 0x8404 0x3F666666, beta1 := f 0x8405 0x3F666666, beta2 := f 0x8406 0x3F7FBE77,
    eps := f 0x8407 (if o = 4 || o = 5 then 0x322BCC77 else 0x2EDBE6FF) }

/-- A row's values: weights, moment vectors, state words (Table 8-6). -/
structure RowVals where
  w : List W32 := []
  vecs : List (List W32) := []
  state : List W32 := []
  deriving DecidableEq, Repr

/-- Element by element over two rows. -/
def zip2 (f : W32 → W32 → W32) (a b : List W32) : List W32 := (a.zip b).map (fun x => f x.1 x.2)

/-- One FP32 operation without its events. -/
def mulF (a b : W32) : W32 := (fmul a b).1
/-- Addition. -/
def addF (a b : W32) : W32 := (fadd a b).1
/-- Division. -/
def divF (a b : W32) : W32 := (fdiv a b).1
/-- Square root. -/
def sqrtF (a : W32) : W32 := (fsqrt a).1
/-- fma32 of R88. -/
def fmaF (a b c : W32) : W32 := (fma32 a b c).1

/-- rowsum of R238: the fold of R119 over the whole row. -/
def rowsum (l : List W32) : W32 := ((rowFold fadd (l.map some)).1).getD 0

/-- The FP32 value of a count. -/
def countTo32 (n : Nat) : W32 := (rn32 (.fin false n 0)).1

/-- The number that an FP32 integer holds, 0 for anything else. -/
def countOf32 (c : W32) : Nat :=
  match dec32 c with
  | .fin false m e => if 0 ≤ e then m * 2 ^ e.toNat else m / 2 ^ (-e).toNat
  | _ => 0

/-- rn32(1 - beta) (R235). -/
def oneMinus (b : W32) : W32 := (fsub one32 b).1

/-- The divisor of an adaptive step. -/
def rootEps (a eps : W32) : W32 := addF (sqrtF a) eps

/-- c = min(c + 1, 2^24). -/
def stepCount (c : W32) : W32 := (fmin (addF c one32) 0x4B800000).1

/-- R238: u, with the new moment vectors and state words, from the decayed gradient. -/
def optDirection (o : OptParams) (g : List W32) (r : RowVals) : List W32 × List (List W32) × List W32 :=
  let n := countTo32 g.length
  let v := fun (i : Nat) => atD r.vecs i []
  let st := fun (i : Nat) => atD r.state i 0
  let sq := g.map (fun x => mulF x x)
  match o.kind with
  | 0 => (g, [], [])
  | 1 =>
    let m := zip2 (fun m x => fmaF o.mu m x) (v 0) g
    (m, [m], [])
  | 2 =>
    let a := zip2 (fun a x => fmaF x x a) (v 0) g
    (zip2 (fun x a => divF x (rootEps a o.eps)) g a, [a], [])
  | 3 =>
    let a := addF (st 0) (divF (rowsum sq) n)
    (g.map (fun x => divF x (rootEps a o.eps)), [], [a])
  | 4 =>
    let c := stepCount (st 0)
    let m := zip2 (fun m x => fmaF o.beta1 m (mulF (oneMinus o.beta1) x)) (v 0) g
    let w := zip2 (fun v x => fmaF o.beta2 v (mulF (oneMinus o.beta2) x)) (v 1) sq
    let k1 := cr32OneMinusPow o.beta1 (countOf32 c)
    let k2 := cr32OneMinusPow o.beta2 (countOf32 c)
    (zip2 (fun m v => divF (divF m k1) (rootEps (divF v k2) o.eps)) m w, [m, w], [c])
  | _ =>
    let c := stepCount (st 1)
    let m := zip2 (fun m x => fmaF o.beta1 m (mulF (oneMinus o.beta1) x)) (v 0) g
    let w := fmaF o.beta2 (st 0) (mulF (oneMinus o.beta2) (divF (rowsum sq) n))
    let k1 := cr32OneMinusPow o.beta1 (countOf32 c)
    let k2 := cr32OneMinusPow o.beta2 (countOf32 c)
    (m.map (fun m => divF (divF m k1) (rootEps (divF w k2) o.eps)), [m], [w, c])

/-- Whether a decay step runs. -/
def OptParams.decays (o : OptParams) : Bool := decide (o.decay.toNat % 2 ^ 31 ≠ 0)

/-- R238: the row after one update by the gradient `g`. -/
def optStep (o : OptParams) (g : List W32) (r : RowVals) : RowVals :=
  let g' := if o.decays && o.coupled then zip2 (fun w x => fmaF o.decay w x) r.w g else g
  let d := optDirection o g' r
  let u := if o.decays && !o.coupled then zip2 (fun w x => fmaF o.decay w x) r.w d.1 else d.1
  { w := zip2 (fun u w => fmaF (fneg o.lr).1 u w) u r.w, vecs := d.2.1, state := d.2.2 }

/-- R237: the Pennant key of an element of a row: tensor id, microbatch index, flat index. -/
def rowConvKey (k : Key) (e : Nat) : Nat × Nat × Nat :=
  if k.row = defaultRow then (0xF400 + k.table, 0, e)
  else (0xF800 + k.table, k.row / 2 ^ 16 % 2 ^ 24, k.row % 2 ^ 16 * 1024 + e)

/-- R237: the gradient of a row from its totals. -/
def rowGradient (seed step : Nat) (ex : Int) (a : GradAcc) : List W32 :=
  (a.sums.zip (List.range a.sums.length)).map (fun x =>
    if a.nf / 2 ^ (x.2 / 32) % 2 = 1 then qnan
    else
      let k := rowConvKey a.key x.2
      (fromBI (.stochastic (pennantU seed step k.1 k.2.1 k.2.2)) ex x.1).1)

/-- The moments and state words of a record as stored (Table 7-2). -/
def recordVals (f : Fmt) (o : Nat) (l : RecLayout) (w : List W32) (bs : List Byte) : RowVals :=
  let e := f.size2 / 2
  { w := w,
    vecs := (List.range (momentVectors o)).map (fun v => (List.range l.n).map (fun i =>
      widen32 f (leNat ((bs.drop (l.moments + (v * l.n + i) * e)).take e)))),
    state := (List.range (stateWords o)).map (fun i => BitVec.ofNat 32 (leNat ((bs.drop (l.state + 4 * i)).take 4))) }

/-- R197, R199, R239: the record of a row's values, and the saturations of its weights and of its moments. -/
def encodeRecord (f mf : Fmt) (e5 : Bool) (k : Key) (step : Nat) (r : RowVals) : List Byte × Nat × Nat :=
  let w := encodeWeights f e5 (rowSerial k) r.w
  let m := encodeWeights mf e5 0 r.vecs.flatten
  let pre := padTo 4 w.1 ++ padTo 4 m.1 ++ w32Bytes r.state ++ leBytes 4 (step % 2 ^ 32)
  (padTo 64 (pre ++ leBytes 4 (crc32c (keyBytes k ++ pre))), w.2, m.2)

end Sys2Proof.Machine
end

