-- ==== Sys2Proof/Machine/RowEngine.lean ====
section
/-! DEFINITION. The row engines and the owner's side of the exchange rounds: request batches (R212 to R216, R230 to R232),
responses at the requester (R213, R347), row updates in hot-first order (R33, R234 to R239), record writes and their
acceptance (R240, R241), and what a phase-9 re-execution does to the update lists (R242). -/

namespace Sys2Proof.Machine

open Sys2Proof

/-- Changes the owner state of a slot. -/
def State.updOwner (s : State) (slot : Nat) (f : OwnerState → OwnerState) : State :=
  s.updJob slot (fun j => { j with owner := f j.owner })

/-- The base die of a key's home stack. -/
def State.stackOf (s : State) (slot : Nat) (k : Key) : Nat := (s.placeRow slot k.table k.row).stack

/-- A row engine as a memory requester (R289). -/
def reAsker (cls slot step phase : Nat) : Asker := { cls := cls, unit := 9, slot := slot, step := step, phase := phase }

/-! Segments. -/

/-- Words 0 to 2 of a batch header (Tables 7-5, 8-3). -/
structure SegHead where
  w0 : Word := 0
  w1 : Word := 0
  w2 : Word := 0
  deriving DecidableEq, Repr

/-- ITEMS. -/
def SegHead.items (h : SegHead) : Nat := Word.fld h.w2 63 32
/-- FIRST. -/
def SegHead.first (h : SegHead) : Nat := Word.fld h.w2 31 0

/-- The header and the item words of a segment. -/
def segment (m : Message) : SegHead × List Word :=
  ({ w0 := atD m.body 0 0, w1 := atD m.body 1 0, w2 := atD m.body 2 0 }, m.body.drop 3)

/-- R212: the record of a bad batch, and the abort of its step. -/
def State.batchInvalid (s : State) (m : Message) (core entry : Nat) : State :=
  s.serviceError 0x0405 (sinkUnit m.kind) 0 m.slot (s.fullStep m) (if m.kind = 3 then 3 else 6) m.src core entry

/-! Request batches. -/

/-- Table 7-6: the key and RET of a row entry; none where a reserved field is non-zero. -/
def State.readRowEntry (s : State) (slot : Nat) (w : Word) : Option (Key × Bool) :=
  let row := Word.fld w 39 0
  let dflt := decide (Word.fld w 50 50 = 1)
  if Word.fld w 63 52 ≠ 0 || (dflt && decide (row ≠ 0)) then none
  else some (s.keyOf slot (Word.fld w 49 40) (if dflt then defaultRow else row), decide (Word.fld w 51 51 = 1))

/-- Table 7-7: one group entry of a batch of `rows` row entries, and the words after it. -/
def readGroup (rows : Nat) (ws : List Word) : Option ((Bool × List (Nat × Nat × W32)) × List Word) :=
  match ws with
  | [] => none
  | h :: rest =>
    let n := Word.fld h 10 0
    let weighted := decide (Word.fld h 11 11 = 1)
    let occ := rest.take n
    let wb := wordsBytes ((rest.drop n).take (cdiv n 2))
    let os := (occ.zip (List.range n)).map (fun x =>
      (Word.fld x.1 31 0, Word.fld x.1 42 32,
       if weighted then (BitVec.ofNat 32 (leNat ((wb.drop (4 * x.2)).take 4)) : W32) else one32))
    let after := if weighted then (rest.drop n).drop (cdiv n 2) else rest.drop n
    let need := n + (if weighted then cdiv n 2 else 0)
    let bad := Word.fld h 63 12 ≠ 0 || n = 0 || 1024 < n || rest.length < need ||
      occ.any (fun w => Word.fld w 63 43 ≠ 0) ||
      os.any (fun o => decide (rows ≤ o.1) || decide (o.2.1 = 0) || decide (1024 < o.2.1) || (weighted && decide (1 < o.2.1))) ||
      (decide (n = 1) && os.all (fun o => decide (o.2.1 = 1)))
    if bad then none else some ((weighted, os), after)

/-- The group entries of a batch, and the words after them. -/
def readGroups : Nat → Nat → List Word → Option (List (Bool × List (Nat × Nat × W32)))
  | 0, _, ws => if ws.isEmpty then some [] else none
  | n + 1, rows, ws =>
    match readGroup rows ws with
    | none => none
    | some (g, rest) => (readGroups n rows rest).map (fun gs => g :: gs)

/-- R212: the row and group entries of a whole batch. -/
def State.readBatch (s : State) (slot nRows nGroups : Nat) (ws : List Word) : Option (List OwnRow × List (Bool × List (Nat × Nat × W32))) :=
  let rows := (ws.take nRows).map (s.readRowEntry slot)
  if ws.length < nRows || !rows.all Option.isSome then none
  else
    (readGroups nGroups nRows (ws.drop nRows)).map (fun gs =>
      (rows.filterMap (fun r => r.map (fun x => { key := x.1, ret := x.2 })), gs))

/-- R212: the header fields that a request must hold 0. -/
def badRequestHead (h : SegHead) : Bool := Word.fld h.w0 63 58 ≠ 0 || Word.fld h.w1 63 48 ≠ 0

/-- Whether an owner batch is the one of a source, core and step. -/
def OwnBatch.is (b : OwnBatch) (src core step : Nat) : Bool := decide (b.src = src) && decide (b.core = core) && decide (b.step = step)

/-- Every item of the batch has arrived. -/
def OwnBatch.whole (b : OwnBatch) : Bool := decide (b.items = b.nRows + b.nGroups)

/-! The record check (R199, R214, R216). -/

/-- The weights of a record whose check, padding and scale words are good. A record whose padding is not zero is taken as one that
fails its check (DESIGN CHOICE, log entry 153). -/
def State.recordWeights (s : State) (slot : Nat) (k : Key) (bs : List Byte) : Option (List W32) :=
  let l := s.recLayout slot k.table
  if leNat ((bs.drop l.check).take 4) = crc32c (keyBytes k ++ bs.take l.check) && (bs.drop (l.check + 4)).all (fun b => b = 0) then
    decodeWeights (s.tabFmt slot k.table) l.n (rowSerial k) bs
  else none

/-- The row id that a record or an export names. -/
def Key.rowId (k : Key) : Nat := if k.row = defaultRow then 2 ^ 64 - 1 else k.row

/-- R399: damage to the row regions of a slot, with the committed step it followed. -/
def State.rowDamage (s : State) (slot : Nat) : State := s.updJob slot (fun j => { j with damaged := some j.committed })

/-- R214, R216: reads a record, once more when it fails its check; a second failure is recorded. -/
def State.readRecord (s : State) (a : Asker) (k : Key) : Option (List Byte × List W32) × State :=
  let addr := s.recordAddr a.slot k
  let size := (s.recLayout a.slot k.table).size
  let good := fun (r : MemRead) => r.bytes.bind (fun bs => (s.recordWeights a.slot k bs).map (fun w => (bs, w)))
  let r := s.memRead a addr size
  if r.bytes.isNone then (none, r.st.rowDamage a.slot)
  else
    match good r with
    | some x => (some x, r.st)
    | none =>
      let r2 := r.st.memRead a addr size
      match good r2 with
      | some x => (some x, r2.st)
      | none =>
        let st := s.stackOf a.slot k
        let s := (r2.st.inc (dieReg st 0x20) 1).rowDamage a.slot
        (none, if a.phase = 9 then s.inputsLost 0x0303 9 st a.slot a.step 9 k.table k.rowId addr
               else s.serviceError 0x0303 9 st a.slot a.step a.phase k.table k.rowId addr)

/-! Serving a batch. -/

/-- Key of a combined-gradient slot: the record's address and the step's parity (R231). -/
def gradKey (addr step : Nat) : Nat := 2 * addr + step % 2

/-- R32: whether a row waits for the update of an earlier step. -/
def State.rowWaits (s : State) (slot step : Nat) (k : Key) : Bool :=
  (s.job slot).owner.updates.any (fun u => decide (u.key = k) && !u.accepted && decide (u.step < step))

/-- R32, R33: the waiting look-ups of a batch are counted and their rows move to the head of their engines' order. -/
def State.markHot (s : State) (slot : Nat) (b : OwnBatch) : State :=
  b.rows.foldl (fun s r =>
    if s.rowWaits slot b.step r.key then
      let s := s.inc (dieReg (s.stackOf slot r.key) 0x10) 1
      s.updOwner slot (fun o => { o with order := o.order + 1, updates := o.updates.map (fun u =>
        if u.key = r.key && !u.accepted && !u.begun && u.hot.isNone then { u with hot := some o.order } else u) })
    else s) s

/-! Combined-gradient slots (R231, R232, R243). -/

/-- The bytes of 64-bit accumulators. -/
def gradBytes (sums : List Int) : List Byte := sums.flatMap (fun x => leBytes 8 (ofInt 64 x))

/-- The accumulators that bytes hold. -/
def bytesGrads (n : Nat) (bs : List Byte) : List Int := (List.range n).map (fun e => sint 64 (leNat ((bs.drop (8 * e)).take 8)))

/-- R231: where a row's new slot goes: after the slots of its stack that are held for steps of its parity (log entry 145). -/
def State.gradPlace (s : State) (slot st step : Nat) : Nat :=
  (s.job slot).owner.grads.foldl (fun a g =>
    if decide (g.1 % 2 = step % 2) && decide (s.stackOf slot g.2.key = st) then max a (roundUp (g.2.addr + 8 * g.2.len) 64) else a)
    (fitAt (s.localBase st) (s.localGib * gib) (Config.gradBytes slot st (s.memberCount slot)) (Config.gradStart slot st (step % 2)))

/-- R243: the record of a lost input of phase 9: the structure and its address. -/
def State.lostInput (s : State) (slot st step phase kind addr : Nat) : State :=
  s.inputsLost 0x0306 9 st slot step phase (Config.lostStructure kind) addr 0

/-- The accumulators of a slot; an uncorrectable error in them is a lost input. -/
def State.readGrad (s : State) (slot step phase : Nat) (g : GradSlot) : Option (List Int) × State :=
  let r := s.memRead (reAsker 3 slot step phase) g.addr (8 * g.len)
  match r.bytes with
  | some bs => (some (bytesGrads g.len bs), r.st)
  | none => (none, r.st.lostInput slot (s.stackOf slot g.key) step phase 0 g.addr)

/-- Stores a slot's accumulators. -/
def State.writeGrad (s : State) (slot step phase : Nat) (g : GradSlot) (sums : List Int) : State :=
  (s.memWrite (reAsker 3 slot step phase) g.addr (gradBytes sums)).2

/-- The line that stands for a stack's update list, request map or pending map (log entry 145). -/
def State.listAddr (s : State) (slot st kind : Nat) : Nat :=
  fitAt (s.localBase st) (s.localGib * gib) 64 (Config.listPlace slot st kind)

/-- R243: the lists and maps of a stack that hold an uncorrectable error. -/
def State.lostLists (s : State) (slot st : Nat) : List Nat :=
  [1, 2, 3].filter (fun k => decide (SMap.find? s.memErr (s.listAddr slot st k / 64) = some true))

/-- R215, R231: a row's first look-up of a step enters it in the update list with its combined-gradient slot. -/
def State.enterUpdate (s : State) (slot step : Nat) (k : Key) (bs : List Byte) : State :=
  if s.frozenKey slot k || (s.job slot).owner.updates.any (fun u => decide (u.key = k) && decide (u.step = step)) then s
  else
    let l := s.recLayout slot k.table
    let aliased := decide (leNat ((bs.drop l.stamp).take 4) = step % 2 ^ 32)
    let addr := s.recordAddr slot k
    let row : UpdateRow := { key := k, addr := addr, engine := s.engineOf slot k, alias_ := aliased, step := step }
    let s := if aliased then s.inc (dieReg (s.stackOf slot k) 0x18) 1 else s
    let g : GradSlot := { key := k, addr := s.gradPlace slot (s.stackOf slot k) step, len := l.n }
    let s := s.updOwner slot (fun o => { o with updates := o.updates ++ [row], grads := SMap.put o.grads (gradKey addr step) g })
    s.writeGrad slot step 3 g (List.replicate l.n 0)

/-- R214: reads one row of a batch, entering it in the update list; none where its record fails twice. -/
def State.serveRow (s : State) (slot step : Nat) (k : Key) : Option (List Byte) × State :=
  let s := s.inc (dieReg (s.stackOf slot k) 0) 1
  let x := s.readRecord (reAsker 1 slot step 3) k
  match x.1 with
  | some y => (some y.1, x.2.enterUpdate slot step k y.1)
  | none => (none, x.2)

/-- R32, R214: reads the rows of a batch that have not been served and wait for no update, each once; the answer says whether every
record was good. -/
def State.serveRows (s : State) (slot step : Nat) : List OwnRow → Bool × List OwnRow × State
  | [] => (true, [], s)
  | r :: rest =>
    if r.got.isSome || s.rowWaits slot step r.key then
      let t := State.serveRows s slot step rest
      (t.1, r :: t.2.1, t.2.2)
    else
      let x := s.serveRow slot step r.key
      let t := State.serveRows x.2 slot step rest
      (x.1.isSome && t.1, { r with got := x.1 } :: t.2.1, t.2.2)

/-- R204: the fold of a group, occurrence by occurrence, each word standing for its repeats. -/
def foldGroup (rows : List (List W32)) (occ : List (Nat × Nat × W32)) : List W32 :=
  let l := occ.flatMap (fun o => List.replicate o.2.1 (o.2.2, atD rows o.1 []))
  match l with
  | [] => []
  | (w, x) :: rest => rest.foldl (fun p o => (o.2.zip p).map (fun v => fmaF o.1 v.1 v.2)) (x.map (fun v => (fmul w v).1))

/-- R214: counts a group's fold at the engine of its first row and the bytes of the rows that other stacks send it. -/
def State.countFold (s : State) (slot : Nat) (b : OwnBatch) (g : Bool × List (Nat × Nat × W32)) : State :=
  let key := fun (i : Nat) => (atD b.rows i {}).key
  match g.2 with
  | [] => s
  | o :: _ =>
    let home := s.stackOf slot (key o.1)
    (distinctUp (g.2.map (·.1))).foldl (fun s i =>
      let st := s.stackOf slot (key i)
      if st = home then s
      else s.inc (dieReg st 0x28) (weightBytes (s.tabFmt slot (key i).table) (s.dim slot (key i).table))) (s.inc (dieReg home 8) 1)

/-- R213: the items of a response: returned rows, each padded to 8 bytes, then partials. -/
def State.responseItems (s : State) (slot : Nat) (b : OwnBatch) (vals : List (List Byte × List W32)) : List (List Byte) :=
  let rows := (b.rows.zip vals).zip (List.range b.rows.length)
  (rows.filter (fun r => r.1.1.ret)).map (fun r =>
    let n := s.dim slot r.1.1.key.table
    leBytes 8 (r.2 % 2 ^ 32) ++ padTo 8 (r.1.2.1.take (weightBytes (s.tabFmt slot r.1.1.key.table) n))) ++
  b.groups.map (fun g => w32Bytes (foldGroup (vals.map (·.2)) g.2))

/-- R213: the header of the response swaps SRC and DST. -/
def State.sendResponse (s : State) (slot : Nat) (b : OwnBatch) (items : List (List Byte)) : State :=
  let w1 := b.groups.length % 2 ^ 24 * 2 ^ 24 + (b.rows.filter (·.ret)).length % 2 ^ 24
  (segmentBodies (batchWord0 slot b.src s.ownRank b.step) w1 false items).foldl
    (fun s body => s.sendTo 0x04 slot b.src b.step b.core 0 0 body) s

/-- The rows that a batch has, and whether it is dealt with: answered, or stopped by a bad record. -/
def State.keepBatch (s : State) (slot : Nat) (b : OwnBatch) (rows : List OwnRow) (answered : Bool) : State :=
  s.updOwner slot (fun o => { o with batches := o.batches.map (fun x =>
    if x.is b.src b.core b.step then { x with rows := rows, answered := answered } else x) })

/-- The record and the weights of a served row. -/
def State.rowVals (s : State) (slot : Nat) (r : OwnRow) : Option (List Byte × List W32) :=
  r.got.bind (fun bs => (s.recordWeights slot r.key bs).map (fun w => (bs, w)))

/-- R32, R214, R216: serves the rows of a batch that can be served, and folds and answers it with the last of them; a record that
fails twice leaves it without a response. -/
def State.serveBatch (s : State) (slot : Nat) (b : OwnBatch) : State :=
  let r := s.serveRows slot b.step b.rows
  let vals := r.2.1.map (s.rowVals slot)
  let s := r.2.2.keepBatch slot b r.2.1 (!r.1 || vals.all Option.isSome)
  if r.1 && vals.all Option.isSome then
    let s := b.groups.foldl (fun s g => s.countFold slot b g) s
    s.sendResponse slot b (s.responseItems slot b (vals.filterMap id))
  else s

/-- Serves what can be served of every whole, unanswered batch, the primary's before a filler's (R39). -/
def State.serveReady (s : State) (slot : Nat) : State :=
  (s.job slot).owner.batches.foldl (fun s b => if b.whole && !b.answered then s.serveBatch slot b else s) s

/-- A segment of a request batch joins its batch; items come in the order of arrival, FIRST being 0 in a request. -/
def State.joinRequest (s : State) (m : Message) : State :=
  let h := (segment m).1
  let ws := (segment m).2
  let core := m.tag % 256
  let step := s.fullStep m
  if badRequestHead h then s.batchInvalid m core 0
  else
    let bs := (s.job m.slot).owner.batches
    let old := (bs.find? (fun b => b.is m.src core step)).getD
      { src := m.src, core := core, step := step, nRows := Word.fld h.w1 23 0, nGroups := Word.fld h.w1 47 24 }
    if old.whole && bs.any (fun b => b.is m.src core step) then s.inc (xuReg 0x28) h.items
    else
      let all := SMap.getD old.segments 0 [] ++ ws
      let b := { old with segments := [(0, all)], items := old.items + h.items }
      let put := fun (b : OwnBatch) (s : State) => s.updOwner m.slot (fun o =>
        { o with batches := o.batches.filter (fun x => !x.is m.src core step) ++ [b] })
      if !b.whole then put b s
      else
        match s.readBatch m.slot b.nRows b.nGroups all with
        | none => put { b with answered := true } (s.batchInvalid m core (b.nRows + b.nGroups))
        | some (rows, groups) =>
          let b := { b with segments := [], rows := rows, groups := groups }
          ((put b s).markHot m.slot b).serveReady m.slot

/-- ROW_REQUEST (R212, R214 to R216, R32): a segment of a request batch arrives at the owner. -/
def execRowRequest (m : Message) (s : State) : Res := .next (s.sink 0x03 m (fun s => s.joinRequest m))

/-! Responses at the requester. -/

/-- Bytes of response item `i` of a batch. -/
def State.itemBytes (s : State) (slot : Nat) (b : ReqBatch) (i : Nat) : Nat :=
  let rets := b.keys.filter (·.ret)
  if i < rets.length then
    let t := (atD rets i {}).key.table
    8 + roundUp (weightBytes (s.tabFmt slot t) (s.dim slot t)) 8
  else
    match (atD b.groups (i - rets.length) {}).occ with
    | o :: _ => 4 * s.dim slot o.key.table
    | [] => 0

/-- R347: places items by index; the answer counts those already placed. -/
def State.placeItems (s : State) (slot : Nat) (b : ReqBatch) : Nat → Nat → List Byte → SMap (List Byte) × Nat → SMap (List Byte) × Nat
  | 0, _, _, acc => acc
  | n + 1, i, bs, acc =>
    if b.expected ≤ i then acc
    else
      let k := s.itemBytes slot b i
      let acc := if (SMap.find? acc.1 i).isSome then (acc.1, acc.2 + 1) else (SMap.put acc.1 i (bs.take k), acc.2)
      s.placeItems slot b n (i + 1) (bs.drop k) acc

/-- A piece of an item joins its other piece; once both are here the answer holds the whole item (log entry 37). -/
def joinPiece (pieces : SMap (List Byte)) (i : Nat) (last : Bool) (bs : List Byte) : SMap (List Byte) × Option (List Byte) :=
  let p := SMap.put pieces (2 * i + if last then 1 else 0) bs
  match SMap.find? p (2 * i), SMap.find? p (2 * i + 1) with
  | some a, some b => (p, some (a ++ b))
  | _, _ => (p, none)

/-- R213, R347: the items of a response segment placed in their batch, and how many were there before. -/
def State.placeSegment (s : State) (slot : Nat) (b : ReqBatch) (h : SegHead) (bs : List Byte) : ReqBatch × Nat :=
  let k := s.itemBytes slot b h.first
  if segRoom < k && h.first < b.expected then
    if (SMap.find? b.items h.first).isSome then (b, h.items)
    else
      let r := joinPiece b.pieces h.first (decide (h.items ≠ 0)) (bs.take (if h.items = 0 then segRoom else k - segRoom))
      ({ b with pieces := r.1, items := match r.2 with | some x => SMap.put b.items h.first x | none => b.items }, 0)
  else
    let r := s.placeItems slot b h.items h.first bs (b.items, 0)
    ({ b with items := r.1 }, r.2)

/-- R213, R347: a response segment's items go to the request batch they answer. -/
def State.takeResponse (s : State) (m : Message) : State :=
  let core := m.tag % 256
  let step := s.fullStep m
  match (s.batchesOf core m.slot step).find? (fun b => decide (b.owner = m.src)) with
  | none => s
  | some b =>
    let r := s.placeSegment m.slot b (segment m).1 (wordsBytes (segment m).2)
    (s.inc (xuReg 0x28) r.2).updGcSlot core m.slot (fun k => { k with batches := SMap.upd k.batches step [] (fun l =>
      l.map (fun x => if x.owner = m.src then r.1 else x)) })

/-- ROW_RESPONSE (R213, R347): a response segment arrives at the requester. -/
def execRowResponse (m : Message) (s : State) : Res := .next (s.sink 0x04 m (fun s => s.takeResponse m))

/-! Gradient batches at the owner. -/

/-- R232: adds one gradient entry into its row's accumulators unless its added bit is set. -/
def State.addGrad (s : State) (slot : Nat) (b : OwnBatch) (entry nf : Nat) (q : List Int) : State :=
  let r := atD b.rows entry {}
  let cur := match (s.job slot).owner.batches.find? (fun x => x.is b.src b.core b.step) with
    | some x => (atD x.rows entry {}).added
    | none => false
  if cur then s.inc (dieReg (s.stackOf slot r.key) 0x50) 1
  else
    let k := gradKey (s.recordAddr slot r.key) b.step
    let s := s.updOwner slot (fun o => { o with batches := o.batches.map (fun x =>
      if x.is b.src b.core b.step then { x with rows := modAt x.rows entry (fun r => { r with added := true }) } else x) })
    match SMap.find? (s.job slot).owner.grads k with
    | none => s
    | some g =>
      let x := s.readGrad slot b.step 6 g
      match x.1 with
      | none => x.2
      | some sums =>
        (x.2.updOwner slot (fun o => { o with grads := SMap.put o.grads k { g with nf := g.nf ||| nf } })).writeGrad slot b.step 6 g
          ((sums.zip q).map (fun v => v.1 + v.2))

/-- BI48 elements of a gradient entry. -/
def bi48s (nb n : Nat) (ws : List Word) : List Int :=
  let bs := wordsBytes (ws.take (24 * nb))
  (List.range n).map (fun e => sint 48 (leNat ((bs.drop (6 * e)).take 6)))

/-- R230, R232: the entries of a gradient segment in turn; a bad one stops it. -/
def State.takeGrads (s : State) (m : Message) (b : OwnBatch) : Nat → List Word → State
  | 0, _ => s
  | n + 1, ws =>
    let w1 := atD ws 1 0
    let entry := Word.fld w1 55 32
    match s.readRowEntry m.slot (atD ws 0 0) with
    | none => s.batchInvalid m b.core entry
    | some (k, ret) =>
      if ret || Word.fld w1 63 56 ≠ 0 || b.rows.length ≤ entry || (atD b.rows entry {}).key ≠ k then s.batchInvalid m b.core entry
      else
        let dim := s.dim m.slot k.table
        let nb := blocksOf dim
        let s := s.addGrad m.slot b entry (Word.fld w1 31 0) (bi48s nb dim (ws.drop 2))
        s.takeGrads m b n (ws.drop (2 + 24 * nb))

/-- A segment that is one piece of a gradient entry: a beginning ends no entry, and an end is no whole number of blocks long. -/
def gradPiece (h : SegHead) (ws : List Word) : Bool :=
  (h.items = 0 && !ws.isEmpty) || (h.items = 1 && (8 * ws.length + 176) % 192 ≠ 0)

/-- The entries of a gradient segment of a batch; one that comes in pieces is taken once both are here (log entry 37). -/
def State.takeGradSegment (s : State) (m : Message) (b : OwnBatch) (h : SegHead) (ws : List Word) : State :=
  if gradPiece h ws then
    let r := joinPiece b.pieces h.first (decide (h.items ≠ 0)) (wordsBytes ws)
    let s := s.updOwner m.slot (fun o => { o with batches := o.batches.map (fun x =>
      if x.is b.src b.core b.step then { x with pieces := r.1 } else x) })
    match r.2 with
    | some bs => s.takeGrads m b 1 (bytesWords bs)
    | none => s
  else s.takeGrads m b h.items ws

/-- R230: a gradient segment meets the request batch that it answers. -/
def State.joinGrad (s : State) (m : Message) : State :=
  let h := (segment m).1
  let core := Word.fld h.w1 31 24
  let step := s.fullStep m
  if Word.fld h.w0 63 58 ≠ 0 || Word.fld h.w1 63 32 ≠ 0 then s.batchInvalid m core 0
  else
    match (s.job m.slot).owner.batches.find? (fun b => b.is m.src core step) with
    | none => if h.items = 0 then s else s.batchInvalid m core h.first
    | some b => s.takeGradSegment m b h (segment m).2

/-- GRAD_BATCH (R230, R232): a gradient batch segment arrives at the owner. -/
def execGradBatch (m : Message) (s : State) : Res := .next (s.sink 0x05 m (fun s => s.joinGrad m))

/-! Row updates. -/

/-- R33: whether update `a` comes before `b`. -/
def UpdateRow.before (a b : UpdateRow) : Bool :=
  match a.hot, b.hot with
  | some x, some y => decide (x < y)
  | some _, none => true
  | none, some _ => false
  | none, none => decide (a.addr < b.addr)

/-- The rows that an engine may begin: those of a step with an all-ok result (R26, R234), once the sweep records of the steps
before it are read (R390), in a slot that has not lost its inputs (R559). -/
def State.readyRows (s : State) (slot e : Nat) : List UpdateRow :=
  let j := s.job slot
  if j.stopped || j.halted || decide (j.cause = 0x3001) then []
  else sortBy UpdateRow.before (j.owner.updates.filter (fun u => decide (u.engine = e) && !u.begun && decide (u.step ≤ j.okStep) &&
    j.exp.sweeps.all (fun x => decide (u.step ≤ x.1))))

/-- R246: whether the update-to-weight sums are kept. -/
def State.watchRatio (s : State) (slot : Nat) : Bool := decide (s.jobCfg slot 0x209 0 ≠ 0) || decide (s.jobCfg slot 0x20A 0 ≠ 0)

/-- R246: adds the squares of one row's changes and old weights in FP64. -/
def ratioAdd (acc : Nat × Nat) (old new : List W32) : Nat × Nat :=
  (old.zip new).foldl (fun a x =>
    (add64f a.1 (square64 (addFV (dec32 x.2) (dec32 x.1).neg)), add64f a.2 (square64 (dec32 x.1)))) acc

/-- E_T of a step whose result has come: the exponent before the last G_T (R176). -/
def State.eTPrev (s : State) (slot t : Nat) : Int :=
  SMap.getD (s.job slot).num.gPrev t (sint 32 (s.jobCfg slot 0x8203 (2 ^ 32 - 12))) + s.headroom slot

/-- Sets an update row's fields. -/
def State.updRow (s : State) (slot : Nat) (k : Key) (step : Nat) (f : UpdateRow → UpdateRow) : State :=
  s.updOwner slot (fun o => { o with updates := o.updates.map (fun u => if u.key = k && decide (u.step = step) then f u else u) })

/-- R231, R243: the combined gradient of an update row; none where it, or a list or map of its stack, is lost. -/
def State.rowSums (s : State) (slot : Nat) (u : UpdateRow) : Option GradAcc × State :=
  let st := s.stackOf slot u.key
  match s.lostLists slot st with
  | k :: _ => (none, s.lostInput slot st u.step 9 k (s.listAddr slot st k))
  | [] =>
    match SMap.find? (s.job slot).owner.grads (gradKey u.addr u.step) with
    | none => (some { key := u.key, sums := List.replicate (s.dim slot u.key.table) 0 }, s)
    | some g =>
      let x := s.readGrad slot u.step 9 g
      (x.1.map (fun sums => { key := u.key, nf := g.nf, sums := sums }), x.2)

/-- R237 to R240: computes a row's new record from its combined gradient and issues it as one write to its controller. -/
def State.updateFrom (s : State) (slot : Nat) (u : UpdateRow) (acc : GradAcc) : State :=
  let r := s.readRecord (reAsker (if u.hot.isSome then 1 else 3) slot u.step 9) u.key
  match r.1 with
  | none => r.2
  | some (bs, w) =>
    let s := r.2
    let t := u.key.table
    let st := s.stackOf slot u.key
    let g := rowGradient (s.seed slot) u.step (s.eTPrev slot t) acc
    let f := s.tabFmt slot t
    let mf := s.momentFmt slot t
    let v := optStep (s.optParams slot t) g (recordVals mf (s.optimizer slot t) (s.recLayout slot t) w bs)
    let e := encodeRecord f mf (s.e5m2Inf slot) u.key u.step v
    let stored := (decodeWeights f w.length (rowSerial u.key) e.1).getD []
    let s := s.inc (dieReg st 0x58) (if g.all isFin32 then 0 else 1)
    let s := s.inc (dieReg st 0x60) (e.2.1 + e.2.2)
    let s := if f = .fp32 then s else s.countConversions slot true [f.code * 8 + 4] w.length e.2.1
      ((v.w.zip stored).filter (fun x => !(dec32 x.1).isZero && (dec32 x.2).isZero)).length
    let kept := (recordVals mf (s.optimizer slot t) (s.recLayout slot t) stored e.1).vecs.flatten
    let s := if mf = .fp32 || v.vecs.isEmpty then s
      else s.countConversions slot true [mf.code * 8 + 4] v.vecs.flatten.length e.2.2
        ((v.vecs.flatten.zip kept).filter (fun x => !(dec32 x.1).isZero && (dec32 x.2).isZero)).length
    let s := s.updRow slot u.key u.step (fun u => { u with begun := true })
    s.updMc st (fun m => { m with records := m.records ++ [{ slot := slot, key := u.key, step := u.step, addr := u.addr, bytes := e.1, old := w }] })

/-- R237 to R240, R243: updates one row unless an input of it is lost. -/
def State.updateRow (s : State) (slot : Nat) (u : UpdateRow) : State :=
  let x := s.rowSums slot u
  match x.1 with
  | some acc => x.2.updateFrom slot u acc
  | none => x.2

/-- R234: an engine takes the next row of a slot in hot-first order, counting one taken ahead of its address order. -/
def State.takeRow (s : State) (slot e : Nat) : State :=
  match s.readyRows slot e with
  | [] => s
  | u :: rest =>
    let s := if rest.any (fun x => decide (x.addr < u.addr)) then s.inc (dieReg (s.stackOf slot u.key) 0x38) 1 else s
    s.updateRow slot u

/-- ROW_UPDATE (R234, R237 to R240): a row engine updates the next row of its lists, the primary's before a filler's. -/
def execRowUpdate (e : EngineId) (s : State) : Res :=
  .next (match (List.range 4).find? (fun sl => !(s.readyRows sl e.val).isEmpty) with
  | some sl => s.takeRow sl e.val
  | none => s)

/-- R246: an updated row's squares join its engine's sums once the update is accepted. -/
def State.addRatio (s : State) (r : RecordWrite) : State :=
  let t := r.key.table
  if s.watchRatio r.slot then
    s.updOwner r.slot (fun o => { o with ratios := SMap.upd o.ratios (s.engineOf r.slot r.key * 1024 + t) (0, 0) (fun a =>
      ratioAdd a r.old ((decodeWeights (s.tabFmt r.slot t) r.old.length (rowSerial r.key) r.bytes).getD [])) })
  else s

/-- R241: the acceptance of a record write in one action: the row's pending bit and ALIAS clear, its difference is queued
and the look-ups that wait for it are served. -/
def State.acceptRecord (s : State) (st : Nat) (r : RecordWrite) : State :=
  let l := s.recLayout r.slot r.key.table
  let s := (s.memWrite (reAsker 3 r.slot r.step 9) r.addr r.bytes).2
  let s := s.inc (dieReg st 0x30) 1
  let s := s.updRow r.slot r.key r.step (fun u => { u with accepted := true, alias_ := false })
  let s := s.updOwner r.slot (fun o => { o with diffs := o.diffs ++ [{ key := r.key, step := r.step, bytes := r.bytes.take (l.check + 4) }] })
  let s := s.addRatio r
  s.serveReady r.slot

/-- RECORD_WRITE_ACCEPT (R240, R241): a controller accepts the oldest record write issued to it. -/
def execRecordWriteAccept (st : StackId) (s : State) : Res :=
  .next (match (s.mc st.val).records with
  | [] => s
  | r :: rest => (s.updMc st.val (fun m => { m with records := rest })).acceptRecord st.val r)

/-! Local re-execution of phase 9. -/

/-- R215: whether a row's stamp shows the step. -/
def State.stampShows (s : State) (slot : Nat) (u : UpdateRow) : Bool :=
  let l := s.recLayout slot u.key.table
  !u.alias_ && decide (leNat (Mem.bytes s.mem (u.addr + l.stamp) 4) = u.step % 2 ^ 32)

/-- R242: each engine walks its list of a step again: a row whose stamp shows the step is skipped, any other is updated
again from its held gradient; record writes not yet accepted are issued anew. -/
def State.rewalk (s : State) (slot step : Nat) : State :=
  let mine := fun (r : RecordWrite) => decide (r.slot = slot) && decide (r.step = step)
  let s := { s with controllers := s.controllers.map (fun m => (m.1, { m.2 with records := m.2.records.filter (fun r => !mine r) })) }
  let rows := sortBy UpdateRow.before ((s.job slot).owner.updates.filter (fun u => decide (u.step = step)))
  rows.foldl (fun s u =>
    let st := s.stackOf slot u.key
    if s.stampShows slot u then s.inc (dieReg st 0x48) 1
    else (s.inc (dieReg st 0x40) 1).updateRow slot u) s

end Sys2Proof.Machine
end

