-- ==== Sys2Proof/Machine/Exchange.lean ====
section
/-! DEFINITION. The XU's part of a step: exchange rounds (R346 to R348), exponent agreement and reduce-scatter (R169, R172,
R175, R350, R351), dense all-gathers (R263, R272, R352), and the slices they work on (R251 to R253, R258). -/

namespace Sys2Proof.Machine

open Sys2Proof

/-! Exchange rounds. -/

/-- The request batches that the module's cores send to a rank in a step. -/
def State.batchCount (s : State) (slot step rank : Nat) : Nat :=
  (s.cores.map (fun k => (s.batchesOf k.1 slot step).filter (fun b => decide (b.owner = rank)))).flatten.length

/-- Whether a core's loaded table holds a KEY_MERGE entry. -/
def CoreState.hasKeyMerge (k : CoreState) (slot : Nat) : Bool :=
  (k.slot slot).loaded && (List.range (k.slot slot).entries).any (fun i =>
    let e := k.entryAt slot i
    decide (e.unit = 5) && decide (e.op = 2))

/-- Every core that merges keys has formed its batches of a step. -/
def State.merged (s : State) (slot step : Nat) : Bool :=
  s.cores.all (fun k => !k.2.hasKeyMerge slot || (SMap.find? (k.2.gcSlot slot).batches step).isSome)

/-- Key of a COUNT received: step and source rank. -/
def countKey (step rank : Nat) : Nat := step * 4096 + rank

/-- R346: sends one COUNT to every member, once in a step. -/
def State.sendCounts (s : State) (slot step : Nat) : State :=
  if step ≤ (s.job slot).xchStep then s
  else
    let s := (s.job slot).ranks.foldl (fun s r =>
      s.sendTo 0x02 slot r step 2 0 0 [BitVec.ofNat 64 (s.batchCount slot step r % 512)]) s
    s.updJob slot (fun j => { j with xchStep := step })

/-- R347: round 2 of a step is complete on the module. -/
def State.round2Done (s : State) (slot step : Nat) : Bool :=
  let j := s.job slot
  decide (step ≤ j.xchStep) && s.cores.all (fun k => (s.batchesOf k.1 slot step).all (·.sent)) &&
  j.ranks.all (fun r =>
    let mine := j.owner.batches.filter (fun b => decide (b.src = r) && decide (b.step = step) && b.whole)
    decide (SMap.find? j.countsRx (countKey step r) = some mine.length))

/-- A RESP_EXPAND entry. -/
def Entry.expands (e : Entry) : Bool := decide (e.unit = 5) && decide (e.op = 3)

/-- Whether the sequencer has yet to dispatch entry `i` of a slot for a step: in an iteration to come, in the rest of this one,
or in a further run of a loop. -/
def CoreSlot.toDispatch (k : CoreSlot) (e : Entry) (i step : Nat) : Bool :=
  let it := if e.next then step - 1 else step
  decide (k.iter < it) || (decide (k.iter = it) && (e.next || !k.prologue) &&
    (decide (k.pc ≤ i) || k.loops.any (fun f => decide (f.start ≤ i) && decide (i < f.stop) && decide (f.index + 1 < f.count))))

/-- Whether a core still has a RESP_EXPAND entry of a step to complete: running, queued, or to be dispatched. -/
def CoreState.expanding (k : CoreState) (slot step : Nat) : Bool :=
  let cs := k.slot slot
  (k.unit 5).running.any (fun r => decide (r.slot = slot) && r.q.entry.expands && decide (r.q.step = step)) ||
  (cs.queue 5).any (fun q => q.entry.expands && decide (q.step = step)) ||
  (cs.loaded && (List.range cs.entries).any (fun i =>
    let e := k.entryAt slot i
    e.expands && cs.toDispatch e i step))

/-- R217, R347: round 4 of a step is complete and its RESP_EXPAND entries have completed on every core. -/
def State.round4Done (s : State) (slot step : Nat) : Bool :=
  s.cores.all (fun k => (s.batchesOf k.1 slot step).all (fun b => b.arrived && b.expanded) && !k.2.expanding slot step)

/-- R233: phase 6 of a step is complete on the module; a batch that the router has passed on is accepted (log entry 159). -/
def State.round6Done (s : State) (slot step : Nat) : Bool :=
  (s.job slot).owner.batches.all (fun b => decide (b.step ≠ step) ||
    (b.whole && b.rows.all (fun r => r.added || s.frozenKey slot r.key))) &&
  s.cores.all (fun k => (s.batchesOf k.1 slot step).all (·.gradSent)) &&
  s.router.all (fun w => !(decide (w.msg.kind = 5) && decide (w.msg.src = s.ownRank) && decide (w.msg.slot = slot) &&
    decide (w.msg.stepLo = step % 2 ^ 32))) &&
  s.inbox.all (fun m => !(decide (m.kind = 5) && decide (m.slot = slot) && decide (m.src = s.ownRank)))

/-- R347: whether a round is complete. -/
def State.roundDone (s : State) (slot step round : Nat) : Bool :=
  match round with
  | 2 => s.round2Done slot step
  | 4 => s.round4Done slot step
  | 6 => s.round6Done slot step
  | _ => true

/-- EXCH_CLOSE of round 2 waits for the step's batches to be formed, and for credits (R71). -/
def exchCloseHold (c slot : Nat) (q : QEntry) (s : State) : Option State :=
  if q.entry.imm ≠ 2 then none
  else if !s.merged slot q.step then some s
  else s.creditHold slot (coreReg c 0x88)

/-- EXCH_CLOSE (R346 to R348): in round 2 it first sends the COUNT messages; it completes with its round. -/
def execExchClose (c : CoreId) (sl : SlotId) (s : State) : Res :=
  .next (s.startEntry c.val 6 sl.val (fun e => decide (e.op = 1)) freeWhenIdle
    (exchCloseHold c.val sl.val) (fun _ => [])
    (fun q s => { st := if q.entry.imm = 2 then s.sendCounts sl.val q.step else s }))

/-- COUNT (R346, R347, R365): the number of request batches that a member sends here, or with TAG 0 of permute messages. -/
def execCountMsg (m : Message) (s : State) : Res :=
  .next (s.sink 0x02 m (fun s =>
    if m.tag = 0 then s.updJob m.slot (fun j => { j with permuteCounts := j.permuteCounts ++ [(atD m.body 0 0).toNat] })
    else
    let key := countKey (s.fullStep m) m.src
    if (SMap.find? (s.job m.slot).countsRx key).isSome then s.inc (xuReg 0x28) 1
    else s.updJob m.slot (fun j => { j with countsRx := SMap.put j.countsRx key (Word.fld (atD m.body 0 0) 8 0) })))

/-! Dense tensors and slices. -/

/-- The dense tensors of a slot with their elements, in ascending TENSOR_ID. -/
def State.tensors (s : State) (slot : Nat) : List (Nat × Nat) :=
  s.cfg.filterMap (fun e => if e.1 / 65536 = (slot + 1) * 65536 + 0x500 then some (e.1 % 65536, e.2) else none)

/-- R251: the padded length. -/
def padded (n : Nat) : Nat := roundUp n 1024

/-- Elements of a whole slice (R252). -/
def sliceLen : Nat := 16384

/-- R252: the first global slice number of a tensor. -/
def State.firstSlice (s : State) (slot tid : Nat) : Nat :=
  ((s.tensors slot).filter (fun t => decide (t.1 < tid))).foldl (fun a t => a + cdiv (padded t.2) sliceLen) 0

/-- `tensor.elements` of a tensor. -/
def State.elements (s : State) (slot tid : Nat) : Nat := s.cfgV (slot + 1) 0x500 tid 0

/-- Elements of a slice of a tensor. -/
def State.sliceElems (s : State) (slot tid i : Nat) : Nat := min sliceLen (padded (s.elements slot tid) - sliceLen * i)

/-- R252: the owner position of a slice. -/
def State.sliceOwner (s : State) (slot g : Nat) : Nat := g % s.memberCount slot

/-- R253: mirror mode is in effect. -/
def State.mirrorActive (s : State) (slot : Nat) : Bool := decide (s.jobCfg slot 0x508 0 = 1) && decide (2 ≤ s.memberCount slot)

/-- R253: the mirror position of a slice. -/
def State.sliceMirror (s : State) (slot g : Nat) : Nat := (g + cdiv (s.memberCount slot) 2) % s.memberCount slot

/-- R252: the core of a slice on its owner, by its ordinal. -/
def State.sliceCore (s : State) (slot g : Nat) : Nat := g / s.memberCount slot % 256

/-- The address of a slice's reduced gradient in its core's store (R260); mirrored slices take their own places. -/
def State.gradAddr (s : State) (slot g : Nat) (mirror : Bool) : Nat :=
  Config.gradArea slot (2 * (g / s.memberCount slot / 256) + if mirror then 1 else 0)

/-- `tensor.work_format`. -/
def State.workFmt (s : State) (slot tid : Nat) : Fmt :=
  match s.cfgV (slot + 1) 0x501 tid 0 with
  | 0 => .sb8 | 1 => .sb4 | 2 => .bf16 | _ => .fp16

/-- R258: bytes of element data, scale words and side lists of a run of elements. -/
def workParts (f : Fmt) (n : Nat) : List Nat :=
  match f with
  | .sb8 => [n, n / 8, n / 32]
  | .sb4 => [n / 2, n / 8, n / 32]
  | _ => [2 * n]

/-- R258: where each part of a tensor's image, or of a slice's page, begins. -/
def partBases (f : Fmt) (n : Nat) : List Nat :=
  ((workParts f n).foldl (fun (acc : List Nat × Nat) b => (acc.1 ++ [acc.2], acc.2 + roundUp b 64)) ([], 0)).1

/-- Bytes of a tensor's working-copy image. -/
def imageBytes (f : Fmt) (n : Nat) : Nat := (workParts f n).foldl (fun a b => a + roundUp b 64) 0

/-- R255: the moment vectors of `dense.optimizer`: sgd, momentum, adagrad, adam. -/
def State.denseMoments (s : State) (slot : Nat) : Nat := atD [0, 1, 1, 2] (s.jobCfg slot 0x504 3) 0

/-- R255, R282: the base of a dense page: a master or moment page takes a 64 KiB page of the slate window, a working copy lies in
the spread window. -/
def State.densePage (s : State) (slot g b part : Nat) : Nat :=
  let choice := Config.densePage slot g b part
  if part = 3 then s.inSpread 65536 choice else slateBase + 65536 * (choice % (slateSize / 65536))

/-- Bytes of a part of a slice's page. -/
def State.partBytes (s : State) (slot : Nat) (x : SliceState) (part : Nat) : Nat :=
  let n := s.sliceElems slot x.tensor x.index
  if part = 3 then Sys2Proof.Machine.imageBytes (s.workFmt slot x.tensor) n else 4 * n

/-- Table 9-4: the parts of a slice: master, moments, working copy. -/
def State.slicePartList (s : State) (slot : Nat) : List Nat := List.range (1 + s.denseMoments slot) ++ [3]

/-- The dense page that holds an address: its slice, buffer and part, and its base. -/
def State.pageAt (s : State) (slot a : Nat) : Option (Nat × Nat × Nat × Nat) :=
  (s.job slot).slices.findSome? (fun g => (s.slicePartList slot).findSome? (fun part => [0, 1].findSome? (fun b =>
    let p := s.densePage slot g.1 b part
    if p ≤ a && a < p + s.partBytes slot g.2 part then some (g.1, b, part, p) else none)))

/-- R256: the step of a phase-9 entry that decides its buffers; none for other work. -/
def QEntry.denseStep (q : QEntry) : Option Nat := if q.entry.phase = 9 && !q.entry.next then some q.step else none

/-- R256, R257: an operand word of an update's move: an address in a dense page of either buffer names the same place of
buffer `b` (DESIGN CHOICE, log entry 143). -/
def State.toBuffer (s : State) (slot b : Nat) (q : QEntry) (o : Nat) : Nat :=
  let w := dword q o
  let base := bits w 47 0
  let a := operAddr q o base
  match s.pageAt slot a with
  | some (g, _, part, p) => w - base + (base + 2 ^ 48 + s.densePage slot g b part - p) % 2 ^ 48
  | none => w

/-! Collectives: fragments of AGREE_MAX and REDUCE_SCATTER. -/

/-- The collective instance that an entry names (Table 12-2; log entry 23). -/
def collTag (c : Nat) (q : QEntry) : Nat := (q.flat * 2 ^ 20 + c * 4096 + q.num) % 2 ^ 24

/-- Elements of a fragment of an operation. -/
def fragElems (op : Nat) : Nat := if op = 2 then 2048 else 512

/-- `numerics.fast_float_reduce`. -/
def State.fastFloat (s : State) (slot : Nat) : Bool := decide (s.jobCfg slot 0x8201 0 = 1)

/-- Bytes of one element in a fragment: a 16-bit code, a BI48 partial, or a BF16 partial of fast-float mode (R165). -/
def State.fragBytes (s : State) (slot op : Nat) : Nat := if op = 2 then 2 else if s.fastFloat slot then 2 else 6

/-- The slice of a fragment. -/
def State.collSlice (s : State) (k : Collective) : Nat :=
  s.firstSlice k.slot k.object + k.offset / s.fragBytes k.slot k.op / sliceLen

/-- The root of a fragment's tree: position 0, or the owner of its slice (R350, R351). -/
def State.collRoot (s : State) (k : Collective) : Nat := if k.op = 3 then s.sliceOwner k.slot (s.collSlice k) else 0

/-- The positions whose fragments a member combines; in fast-float mode the owner takes them all (R165). -/
def State.collKids (s : State) (k : Collective) : List Nat :=
  let n := s.memberCount k.slot
  let p := (s.job k.slot).position
  if k.op = 3 && s.fastFloat k.slot then (if p = s.collRoot k then (List.range n).filter (· != p) else [])
  else childPos n (s.collRoot k) p

/-- Where a member sends its sum. -/
def State.collUp (s : State) (k : Collective) : Option Nat :=
  let n := s.memberCount k.slot
  let p := (s.job k.slot).position
  if k.op = 3 && s.fastFloat k.slot then (if p = s.collRoot k then none else some (s.collRoot k))
  else parentPos n (s.collRoot k) p

/-- A fragment's values as the words of a body. -/
def packFrag (w : Nat) (l : List Int) : List Word := bytesWords (l.flatMap (fun x => leBytes w (ofInt (8 * w) x)))

/-- `n` values of a body; codes are unsigned and partials signed. -/
def unpackFrag (op w n : Nat) (ws : List Word) : List Int :=
  let bs := wordsBytes ws
  (List.range n).map (fun i =>
    let v := leNat ((bs.drop (w * i)).take w)
    if op = 2 || w = 2 then (v : Int) else sint (8 * w) v)

/-- Combines a child's values: maxima of codes, sums of partials; fast-float partials keep apart. -/
def combineFrag (op : Nat) (a b : List Int) : List Int := (a.zip b).map (fun x => if op = 2 then max x.1 x.2 else x.1 + x.2)

/-- R165: the owner's FP32 sums of BF16 partials in ascending position, as codes. -/
def chainFrag (n : Nat) (parts : List (List Int)) : List Int :=
  (List.range n).map (fun i =>
    let xs := parts.map (fun p => widen32 .bf16 (atD p i 0).toNat)
    match xs with
    | [] => 0
    | x :: rest => ((foldAdd rest x).toNat : Int))

/-- The member's total of a fragment: its own values and its children's (R350, R351, R353). -/
def State.collTotal (s : State) (k : Collective) (own : List Int) : List Int :=
  let w := s.fragBytes k.slot k.op
  let kids := k.kids.map (fun x => (x.1, unpackFrag k.op w own.length x.2))
  if k.op = 3 && s.fastFloat k.slot then
    if s.collRoot k = (s.job k.slot).position then
      chainFrag own.length ((SMap.put kids (s.job k.slot).position own).map (·.2))
    else own
  else kids.foldl (fun a x => combineFrag k.op a x.2) own

/-- The identity of a fragment. -/
def Collective.is (k : Collective) (slot step tag object offset : Nat) : Bool :=
  decide (k.slot = slot) && decide (k.step = step) && decide (k.tag = tag) && decide (k.object = object) && decide (k.offset = offset)

/-- Stores a fragment's state. -/
def State.putColl (s : State) (k : Collective) : State :=
  { s with collectives := s.collectives.filter (fun x => !x.is k.slot k.step k.tag k.object k.offset) ++ [k] }

/-- The XU as a memory requester: class 2 (R289). -/
def xuAsker (c slot step phase : Nat) : Asker := { cls := 2, unit := 8, core := c, slot := slot, step := step, phase := phase }

/-- R142, R169: writes the agreed exponents of a fragment as exponent words and keeps them for R178. -/
def State.deliverCodes (s : State) (k : Collective) (total : List Int) : State :=
  let b0 := k.offset / 2
  let es := total.map (fun c => decodeMaxCode c.toNat)
  let words := (es.zip (List.range es.length)).flatMap (fun x => leBytes 4 (ofInt 16 x.1 + (b0 + x.2) % 64 * 65536))
  let s := (s.memWrite (xuAsker k.core k.slot k.step 7) (k.dest + 4 * b0) words).2
  s.updJob k.slot (fun j => { j with num := { j.num with agreed := SMap.upd j.num.agreed k.object [] (fun l => l ++ es) } })

/-- R175: the reduced FP32 value of an element of total `t`. -/
def reducedValue (seed step tid flat : Nat) (e : Int) (t : Int) : W32 :=
  if e = 0x7FFF then qnan else (fromBI (.stochastic (pennantU seed step tid noMicrobatch flat)) e t).1

/-- R175, R260: converts a fragment's totals and places them in the dense gradient area of the slice's core; padding holds +0
(R251). -/
def State.deliverSums (s : State) (k : Collective) (mirror : Bool) (total : List Int) : State :=
  let e0 := k.offset / s.fragBytes k.slot k.op
  let g := s.collSlice k
  let fast := s.fastFloat k.slot
  let r := s.memRead (xuAsker k.core k.slot k.step 7) (k.exps + 4 * (e0 / 32)) (if fast then 0 else 4 * cdiv total.length 32)
  let s := r.st
  let ex := fun (i : Nat) => sint 16 (leNat (((r.bytes.getD []).drop (4 * (i / 32))).take 2))
  let vals := (total.zip (List.range total.length)).map (fun x =>
    if s.elements k.slot k.object ≤ e0 + x.2 then 0 else if fast then (BitVec.ofNat 32 (ofInt 32 x.1) : W32) else reducedValue (s.seed k.slot) k.step k.object (e0 + x.2) (ex x.2) x.1)
  let at_ := e0 % sliceLen
  let s := s.updCore (s.sliceCore k.slot g) (fun c => { c with cs := (c.cs.write (s.gradAddr k.slot g mirror + 4 * at_) (w32Bytes vals)).1 })
  s.updJob k.slot (fun j => { j with slices := SMap.upd j.slices g {} (fun x => { x with grad := SMap.put x.grad at_ vals }) })

/-- R350: sends a result down the tree rooted at position 0. -/
def State.bcastColl (s : State) (k : Collective) (body : List Word) : State :=
  (childPos (s.memberCount k.slot) 0 (s.job k.slot).position).foldl (fun s p =>
    s.sendTo 0x11 k.slot (s.rankOf k.slot p) k.step k.tag k.object k.offset body) s

/-- A fragment whose own values and children are all here goes up, or is finished at the root. -/
def State.advanceColl (s : State) (k : Collective) : State :=
  match k.own with
  | none => s.putColl k
  | some own =>
    if k.sent || k.done || !(s.collKids k).all (fun p => (SMap.find? k.kids p).isSome) then s.putColl k
    else
      let total := s.collTotal k own
      let w := s.fragBytes k.slot k.op
      match s.collUp k with
      | some p =>
        let mirrorHere := k.op = 3 && s.mirrorActive k.slot && decide (s.sliceMirror k.slot (s.collSlice k) = (s.job k.slot).position)
        let k := { k with sent := true, done := decide (k.op = 3) && !mirrorHere }
        (s.putColl k).sendTo 0x10 k.slot (s.rankOf k.slot p) k.step k.tag k.object k.offset (packFrag w total)
      | none =>
        let s := s.putColl { k with sent := true, done := true }
        if k.op = 2 then (s.deliverCodes k total).bcastColl k (packFrag w total)
        else
          let s := s.deliverSums k false total
          if s.mirrorActive k.slot then
            s.sendTo 0x11 k.slot (s.rankOf k.slot (s.sliceMirror k.slot (s.collSlice k))) k.step k.tag k.object k.offset
              (packFrag (if s.fastFloat k.slot then 4 else w) total)
          else s

/-- The fragment of an entry at element `e`, joined with what came before the entry started. -/
def State.openColl (s : State) (c slot op : Nat) (q : QEntry) (off : Nat) (own : List Int) : State :=
  let tid := bits (dword q 2) 47 32
  let tag := collTag c q
  let old := (s.collectives.find? (fun k => k.is slot q.step tag tid off)).getD
    { slot := slot, step := q.step, tag := tag, object := tid, offset := off }
  s.advanceColl { old with op := op, core := c, dest := operAddr q 1 (bits (dword q 1) 47 0), exps := bits (dword q 3) 47 0,
                           own := some own }

/-- The own values of a COLLECT entry, read from its source; a member with no microbatch gives the identity (R169, R353). -/
def State.collOwn (s : State) (c slot op : Nat) (q : QEntry) (n : Nat) : List Int × State :=
  if (s.job slot).mbCount = 0 then (List.replicate n 0, s)
  else
    let w := if op = 2 || s.fastFloat slot then 2 else 4
    let r := s.memRead (xuAsker c slot q.step q.entry.phase) (operAddr q 0 (bits (dword q 0) 47 0)) (w * n)
    let bs := r.bytes.getD []
    ((List.range n).map (fun i =>
      let v := leNat ((bs.drop (w * i)).take w)
      if w = 2 then (v : Int) else sint 32 v), r.st)

/-- The work of AGREE_MAX and REDUCE_SCATTER: every fragment of the entry opens. -/
def collWork (c slot op : Nat) (q : QEntry) (s : State) : Work :=
  let n := bits (dword q 2) 31 0
  let count := if op = 2 then cdiv n 32 else n
  let r := s.collOwn c slot op q count
  let fe := fragElems op
  let s := if op = 2 then r.2.updJob slot (fun j => { j with num := { j.num with agreed := SMap.put j.num.agreed (bits (dword q 2) 47 32) [] } })
    else r.2
  { st := (List.range (cdiv count fe)).foldl (fun s i =>
      s.openColl c slot op q (i * fe * s.fragBytes slot op) ((r.1.drop (i * fe)).take fe)) s,
    beats := cdiv count 32 }

/-- A COLLECT entry waits for credits (R71), and by handshake for slate lines that do not complete (R296). -/
def collHold (c slot op : Nat) : QEntry → State → Option State :=
  stallHold c 6 slot (collWork c slot op) (fun _ s => s.creditHold slot (coreReg c 0x88))

/-- AGREE_MAX (R169, R350): the all-reduce of exponent codes. -/
def execAgreeMax (c : CoreId) (sl : SlotId) (s : State) : Res :=
  .next (s.startEntry c.val 6 sl.val (fun e => decide (e.op = 2) && e.dv) freeWhenIdle (collHold c.val sl.val 2) (fun _ => []) (collWork c.val sl.val 2))

/-- REDUCE_SCATTER (R172, R175, R351): local sums go up to the owners of their slices. -/
def execReduceScatter (c : CoreId) (sl : SlotId) (s : State) : Res :=
  .next (s.startEntry c.val 6 sl.val (fun e => decide (e.op = 3) && e.dv) freeWhenIdle (collHold c.val sl.val 3) (fun _ => []) (collWork c.val sl.val 3))

/-- R350, R351, R347: a child's fragment arrives; a second copy is discarded. -/
def State.takeReduce (s : State) (m : Message) : State :=
  let step := s.fullStep m
  match s.posOf m.slot m.src with
  | none => s
  | some p =>
    let k := (s.collectives.find? (fun k => k.is m.slot step m.tag m.object m.offset)).getD
      { slot := m.slot, step := step, tag := m.tag, object := m.object, offset := m.offset }
    if (SMap.find? k.kids p).isSome then s.inc (xuReg 0x28) 1
    else s.advanceColl { k with kids := SMap.put k.kids p m.body }

/-- REDUCE_UP (R350, R351, R353): a child's partials or codes arrive. -/
def execReduceUp (m : Message) (s : State) : Res := .next (s.sink 0x10 m (fun s => s.takeReduce m))

/-! Dense all-gathers. -/

/-- R258: the slice and part of a byte offset of a tensor's image. -/
def State.imageSlice (s : State) (slot tid off : Nat) : Nat :=
  let f := s.workFmt slot tid
  let n := padded (s.elements slot tid)
  let x := ((partBases f n).zip (workParts f sliceLen)).foldl (fun (acc : Nat) b => if b.1 ≤ off then (off - b.1) / max 1 b.2 else acc) 0
  s.firstSlice slot tid + x

/-- R258: the lines of a slice: byte offset in its page, byte offset in the tensor's image, count, for each part. -/
def State.sliceParts (s : State) (slot tid i : Nat) : List (Nat × Nat × Nat) :=
  let f := s.workFmt slot tid
  let n := s.sliceElems slot tid i
  let img := partBases f (padded (s.elements slot tid))
  let page := partBases f n
  let full := workParts f sliceLen
  let mine := workParts f n
  (List.range mine.length).map (fun p => (atD page p 0, atD img p 0 + i * atD full p 0, cdiv (atD mine p 0) 64))

/-- Table 9-4: the hash of a gathered line. -/
def gatherHash (tid line : Nat) (bs : List Byte) : Nat := crc32c (leBytes 2 tid ++ leBytes 6 line ++ bs)

/-- Whether a gather is the one of a slot's step, tag and tensor. -/
def GatherState.is (g : GatherState) (step tag tid : Nat) : Bool := decide (g.step = step) && decide (g.tag = tag) && decide (g.tensor = tid)

/-- Changes a gather. -/
def State.updGather (s : State) (slot step tag tid : Nat) (f : GatherState → GatherState) : State :=
  s.updJob slot (fun j => { j with gathers := j.gathers.map (fun g => if g.is step tag tid then f g else g) })

/-- R272, R352: places the lines of a fragment and adds each to the gathered-copy digest; lines placed before are
discarded and counted. -/
def State.placeLines (s : State) (slot : Nat) (g : GatherState) (off : Nat) (bs : List Byte) : State :=
  let l0 := off / 64
  let new := (List.range (bs.length / 64)).filter (fun i => !g.placed.contains (l0 + i))
  let s := s.inc (xuReg 0x28) (bs.length / 64 - new.length)
  let s := new.foldl (fun s i =>
    (s.memWrite (xuAsker g.core slot g.step 5) (g.dest + off + 64 * i) ((bs.drop (64 * i)).take 64)).2) s
  let h := new.foldl (fun a i => a + gatherHash g.tensor (l0 + i) ((bs.drop (64 * i)).take 64)) 0
  let s := s.updGather slot g.step g.tag g.tensor (fun x => { x with placed := x.placed ++ new.map (l0 + ·) })
  s.updJob slot (fun j => { j with num := { j.num with gatherDigest := (j.num.gatherDigest + h) % 2 ^ 64 } })

/-- R352: forwards gathered lines to the children in the tree of the slice's owner. -/
def State.forwardLines (s : State) (slot step tag tid off : Nat) (body : List Word) : State :=
  let root := s.sliceOwner slot (s.imageSlice slot tid off)
  (childPos (s.memberCount slot) root (s.job slot).position).foldl (fun s p =>
    s.sendTo 0x11 slot (s.rankOf slot p) step tag tid off body) s

/-- ALL_GATHER's work: the gather opens, and what came before it is placed. -/
def gatherWork (c slot : Nat) (q : QEntry) (s : State) : Work :=
  let tid := bits (dword q 2) 47 32
  let tag := collTag c q
  let old := ((s.job slot).gathers.find? (fun g => g.is q.step tag tid)).getD { tag := tag, tensor := tid, step := q.step }
  let g := { old with core := c, dest := operAddr q 1 (bits (dword q 1) 47 0), started := true, early := [] }
  let s := s.updJob slot (fun j => { j with gathers := j.gathers.filter (fun x => !x.is q.step tag tid) ++ [g] })
  { st := old.early.foldl (fun s e =>
      let g := ((s.job slot).gathers.find? (fun g => g.is q.step tag tid)).getD g
      s.placeLines slot g e.1 (wordsBytes e.2)) s }

/-- ALL_GATHER waits by handshake for slate lines that do not complete (R296). -/
def gatherHold (c slot : Nat) : QEntry → State → Option State := stallHold c 6 slot (gatherWork c slot) noHold

/-- ALL_GATHER (R263, R352): a tensor's working copy is gathered into the gather area. -/
def execAllGather (c : CoreId) (sl : SlotId) (s : State) : Res :=
  .next (s.startEntry c.val 6 sl.val (fun e => decide (e.op = 4) && e.dv) freeWhenIdle (gatherHold c.val sl.val) (fun _ => []) (gatherWork c.val sl.val))

/-- R263: the stamp of the buffer that a gather of step `m` reads. -/
def SliceState.gatherStamp (x : SliceState) (m : Nat) : Nat := if (m - 1) % 2 = 0 then x.stamp0 else x.stamp1

/-- R352: the owner reads its slice, places its own lines and sends them to its children, 64 lines to a message. -/
def State.sendSlice (s : State) (slot : Nat) (g : GatherState) (n : Nat) (x : SliceState) : State :=
  let page := s.densePage slot n ((g.step - 1) % 2) 3
  let s := s.updGather slot g.step g.tag g.tensor (fun y => { y with served := y.served ++ [n] })
  (s.sliceParts slot x.tensor x.index).foldl (fun s p =>
    (List.range (cdiv p.2.2 64)).foldl (fun s b =>
      let lines := min 64 (p.2.2 - 64 * b)
      let r := s.memRead (xuAsker g.core slot g.step 5) (page + p.1 + 4096 * b) (64 * lines)
      match r.bytes with
      | none => r.st
      | some bs =>
        let off := p.2.1 + 4096 * b
        let cur := ((r.st.job slot).gathers.find? (fun y => y.is g.step g.tag g.tensor)).getD g
        (r.st.placeLines slot cur off bs).forwardLines slot g.step g.tag g.tensor off (bytesWords bs)) s) s

/-- DENSE_GATHER_SERVE (R35, R263): an owned slice goes into the next all-gather of its tensor once its stamp is that of the
step before; until then the request waits, counted once. After a hard boundary nothing leaves before the closing round. -/
def execDenseGatherServe (sl : SlotId) (n : Nat) (s : State) : Res :=
  .next (match SMap.find? (s.job sl.val).slices n with
  | none => s
  | some x =>
    match (s.job sl.val).gathers.find? (fun g => g.started && decide (g.tensor = x.tensor) && !g.served.contains n) with
    | none => s
    | some g =>
      if x.mirror || !(s.job sl.val).closed g.step then s
      else if x.gatherStamp g.step = (g.step - 1) % 2 ^ 32 then s.sendSlice sl.val g n x
      else if g.counted.contains n then s
      else (s.inc (denseReg 0x20) 1).updGather sl.val g.step g.tag g.tensor (fun y => { y with counted := y.counted ++ [n] }))

/-- A fragment of an all-gather arrives: it is forwarded, and placed once the entry has started here. -/
def State.takeGather (s : State) (m : Message) : State :=
  let step := s.fullStep m
  let s := s.forwardLines m.slot step m.tag m.object m.offset m.body
  match (s.job m.slot).gathers.find? (fun g => g.is step m.tag m.object) with
  | some g =>
    if g.started then s.placeLines m.slot g m.offset m.bytes
    else s.updGather m.slot step m.tag m.object (fun g => { g with early := g.early ++ [(m.offset, m.body)] })
  | none =>
    s.updJob m.slot (fun j => { j with gathers := j.gathers ++
      [{ tag := m.tag, tensor := m.object, step := step, early := [(m.offset, m.body)] }] })

/-- A result of AGREE_MAX, or the final sums that an owner sends to its mirror. -/
def State.takeResult (s : State) (m : Message) (k : Collective) : State :=
  match k.own with
  | none => s
  | some own =>
    if k.done then s.inc (xuReg 0x28) 1
    else
      let w := if k.op = 3 && s.fastFloat k.slot then 4 else s.fragBytes k.slot k.op
      let total := unpackFrag k.op w own.length m.body
      let s := s.putColl { k with done := true }
      if k.op = 2 then (s.bcastColl k m.body).deliverCodes k total else s.deliverSums k true total

/-- BCAST_DOWN (R350 to R352): results or gathered lines arrive. -/
def execBcastDown (m : Message) (s : State) : Res :=
  .next (s.sink 0x11 m (fun s =>
    match s.collectives.find? (fun k => k.is m.slot (s.fullStep m) m.tag m.object m.offset) with
    | some k => s.takeResult m k
    | none => s.takeGather m))

/-! Completion. -/

/-- R348: whether the result of an XU entry is in place on the module. -/
def State.xuInPlace (s : State) (c slot : Nat) (q : QEntry) : Bool :=
  let tag := collTag c q
  match q.entry.op with
  | 1 => s.roundDone slot q.step q.entry.imm
  | 2 | 3 => s.collectives.all (fun k => !(decide (k.slot = slot) && decide (k.step = q.step) && decide (k.tag = tag)) || k.done)
  | 4 =>
    let tid := bits (dword q 2) 47 32
    match (s.job slot).gathers.find? (fun g => g.is q.step tag tid) with
    | some g => decide (imageBytes (s.workFmt slot tid) (padded (s.elements slot tid)) / 64 ≤ g.placed.length)
    | none => false
  | _ => true

end Sys2Proof.Machine
end

