-- ==== Sys2Proof/Machine/Pace.lean ====
section
/-! DEFINITION. Pace, power, slope and heat (Pace, power and timing domains): the windows of R502, the governor (R504 to
R508), the slope ceiling (R510, R511), the power cap (R514) and the sensors (R517). -/

namespace Sys2Proof.Machine

open Sys2Proof

/-! Limits and targets. -/

/-- HL_LIVE_POWER_CAP in force, W. -/
def State.powerCap (s : State) : Nat := s.rfld (liveReg 0x00) 15 0
/-- HL_LIVE_PACE_CEIL in force, beats/µs. -/
def State.paceCeiling (s : State) : Nat := s.rfld (liveReg 0x08) 15 0
/-- `pace.v_max_mv`. -/
def State.vMax (s : State) : Nat := s.modCfg 0x8C01 850
/-- `pace.v_min_mv`. -/
def State.vMin (s : State) : Nat := s.modCfg 0x8C02 550
/-- DOM_STATE of a domain. -/
def domState (d : Nat) : Nat := pgReg (0x800 + 16 * d)
/-- A domain's rail, mV. -/
def State.rail (s : State) (d : Nat) : Nat := s.rfld (domState d) 15 0
/-- The upper rail limit of a domain, its trim included (R505, R506). -/
def State.railTop (s : State) (d : Nat) : Nat := ((s.vMax : Int) + SMap.getD s.pace.trims d 0).toNat

/-- R505: the lowest monitor pace of a core-group domain. -/
def State.lowestMonitor (s : State) (d : Nat) : Nat :=
  (List.range 8).foldl (fun m i => min m (s.rfld (pgReg (0x1000 + 8 * (8 * d + i))) 31 16)) 65535

/-- The powered core-group domains. -/
def State.coreDomains (s : State) : List Nat := (List.range 32).filter (fun d => s.start.domainsUp.contains d)

/-! 64-bit FP arithmetic of R506. -/

/-- An integer as FP64. -/
def i64f (x : Int) : Nat := rn64 (.fin (decide (x < 0)) x.natAbs 0)

/-- FP64 product. -/
def mul64f (a b : Nat) : Nat := rn64 (mulFV (dec64 a) (dec64 b))

/-- FP64 difference. -/
def sub64f (a b : Nat) : Nat := rn64 (addFV (dec64 a) (dec64 b).neg)

/-- FP64 quotient of two integers, the second not 0. -/
def quot64f (x : Int) (n : Nat) : Nat :=
  if n = 0 || x = 0 then 0
  else
    let q := divSticky x.natAbs 0 n 0
    rn64 (.fin (decide (x < 0)) q.1 q.2)

/-- Whether one FP64 value is below another. -/
def lt64f (a b : Nat) : Bool := cmpFV (dec64 a) (dec64 b) == .lt

/-- The lower of two FP64 values. -/
def min64f (a b : Nat) : Nat := if lt64f b a then b else a

/-- An FP64 value rounded down to a whole number, 0 below 0. -/
def floor64f (a : Nat) : Nat :=
  match dec64 a with
  | .fin false m e => if e ≥ 0 then m * 2 ^ e.toNat else m / 2 ^ (-e).toNat
  | _ => 0

/-- R506: the pace that a domain is estimated to reach at its upper rail limit; before calibration a restored TRIM entry
gives it, and a domain without one takes a gain of 3. -/
def State.estimate (s : State) (d : Nat) : Nat :=
  let head := (s.railTop d : Int) - s.rail d
  match SMap.find? s.pace.gains d with
  | some g => add64f (i64f (s.lowestMonitor d)) (mul64f (quot64f g.1 g.2) (i64f head))
  | none =>
    match SMap.find? s.pace.topPace d with
    | some p => i64f p
    | none => add64f (i64f (s.lowestMonitor d)) (mul64f (i64f 3) (i64f head))

/-- R506: P_volt. -/
def State.pVolt (s : State) : Nat :=
  match s.coreDomains.map s.estimate with
  | [] => 0
  | e :: es => es.foldl min64f e

/-- R506: the temperature that limits the pace, in whole °C. -/
def State.hotC (s : State) : Int := max s.pace.tempJ (s.pace.tempH + 80) / 8

/-- R506: P_therm. -/
def State.pTherm (s : State) : Nat :=
  if s.hotC ≥ 105 then
    let x := sub64f (i64f 1) (mul64f (quot64f 1 25) (i64f (s.hotC - 104)))
    mul64f s.pVolt (if lt64f x (quot64f 1 5) then quot64f 1 5 else x)
  else s.pVolt

/-- R506: the sustainable pace S. -/
def State.sustainablePace (s : State) : Nat :=
  let guarded := mul64f s.pVolt (sub64f (i64f 1) (quot64f (s.modCfg 0x8C03 2) 100))
  let m := min64f (min64f guarded s.pTherm) (min64f (i64f s.pace.pPow) (i64f s.paceCeiling))
  max 1 (floor64f m)

/-- R504: the target pace P_t, as the limiter applies it. -/
def State.targetPace (s : State) : Nat :=
  match s.pace.agreed with
  | some a =>
    if (s.job 0).member then min (min a (floor64f s.pTherm)) (min s.pace.pPow s.paceCeiling)
    else min 1250 s.sustainablePace
  | none => min 1250 s.sustainablePace

/-- R504, R514, Tables 17-9 and 17-10: the registers that follow the limits. -/
def State.refreshPace (s : State) : State :=
  let t := s.targetPace
  let s := s.setReg (pgReg 0x08) (BitVec.ofNat 64 t)
  let s := s.setReg (pgReg 0x18) (BitVec.ofNat 64 (floor64f s.pVolt % 65536 + floor64f s.pTherm % 65536 * 2 ^ 16 + s.pace.pPow % 65536 * 2 ^ 32))
  let s := s.setFld (pgReg 0) 2 2 (if s.pace.pPow < s.paceCeiling then 1 else 0)
  s.setFld (pgReg 0) 0 0 (if s.pace.agreed.isSome && (s.job 0).member then 1 else 0)

/-- R504: with the always-on domain running, the pace registers follow. -/
def State.paceEvent (s : State) : State := if s.start.aoOn then s.refreshPace else s

/-! The commands. -/

/-- PACE_WINDOW (R502): a window of 1 µs ends: CORE_PACE shows its counts, the limiter having admitted at most P_t beats
(R503), and local time and the counters of waiting microseconds advance. -/
def execPaceWindow (counts : List PaceCount) (s : State) : Res :=
  .next (if !s.start.aoOn then s
  else
    let t := s.targetPace
    let s := s.setFld hlLocalTime 47 0 (s.now + 1)
    let s := (counts.zip (List.range 256)).foldl (fun s x =>
      s.setReg (pgReg (0x1000 + 8 * x.2)) (BitVec.ofNat 64 (min x.1.beats t % 65536 + x.1.monitor % 65536 * 2 ^ 16))) s
    let s := if s.rfld (pgReg 0) 2 2 = 1 then s.inc (pgReg 0x28) 1 else s
    let s := if s.rfld (expReg 0x40) 8 8 = 1 then s.inc (expReg 0x50) 1 else s
    s.refreshPace)

/-- R508, Table 16-9: the rail that Flint holds at the running stress point. -/
def State.flintRail (s : State) : Option Nat :=
  match s.faults.flintPoint with
  | some 1 => some (s.modCfg 0x8B0A 550)
  | some 2 => some 850
  | _ => none

/-- R505: the rail change for a lowest monitor pace `m` at target `p`, in mV. -/
def railChange (m p : Nat) : Int :=
  if 100 * m < 95 * p then 20
  else if 100 * m < 101 * p then 5
  else if 100 * m ≤ 103 * p then 0
  else if 100 * m ≤ 105 * p then -5
  else -20

/-- R505, R508: moves one domain's rail for the target `p`; VMAX shows a domain at its upper limit below the target. -/
def State.governDomain (p : Nat) (s : State) (d : Nat) : State :=
  match s.flintRail with
  | some v => s.setFld (domState d) 15 0 v
  | none =>
    let m := s.lowestMonitor d
    let top := s.railTop d
    let v := (clampInt s.vMin top (s.rail d + railChange m p)).toNat
    let s := s.setFld (domState d) 15 0 v
    s.setFld (domState d) 35 35 (if v ≥ top && m < p then 1 else 0)

/-- GOVERNOR_TICK (R505): every 10 µs the governor moves the rail of each powered core-group domain. -/
def execGovernorTick (s : State) : Res :=
  .next (if !s.start.aoOn then s
  else
    let s := s.coreDomains.foldl (State.governDomain s.targetPace) s
    (s.setFld (pgReg 0) 3 3 (if s.coreDomains.any (fun d => decide (s.rfld (domState d) 35 35 = 1)) then 1 else 0)).refreshPace)

/-- Whether a start that was held still waits at the head of its queue. -/
def State.stillWaits (s : State) (key : Nat) : Bool := (s.head (key / 32) (key / 4 % 8) (key % 4)).isSome

/-- R510: the ceiling of a domain moves by at most one level: up while a start waits there, down towards the levels held. -/
def State.slopeDomain (s : State) (d : Nat) : State :=
  let c := s.ceiling d
  let wants := s.pace.waiting.any (fun k => decide (k / 32 / 8 = d))
  let c' := if wants then min 64 (c + 1) else if s.levels d < c then c - 1 else c
  { s with pace := { s.pace with ceilings := if c' = 0 then SMap.del s.pace.ceilings d else SMap.put s.pace.ceilings d c' } }

/-- SLOPE_CEILING_TICK (R510, R511): each ceiling moves by at most one level; ballast passes fill the levels below a
ceiling, for a number of beats that no rule states (a free value). -/
def execSlopeCeilingTick (s : State) : Res :=
  .next (if !s.start.aoOn then s
  else
    let s := { s with pace := { s.pace with waiting := s.pace.waiting.filter s.stillWaits } }
    let s := (List.range 32).foldl State.slopeDomain s
    if (List.range 32).any (fun d => decide (s.levels d < s.ceiling d)) then
      let f := s.free
      f.2.inc (pgReg 0x38) f.1
    else s)

/-- The sum of the power samples held. -/
def State.powerSum (s : State) : Nat := s.pace.samples.foldl (· + ·) 0

/-- R514: sets P_pow, never below 256. -/
def State.setPow (s : State) (p : Nat) : State := ({ s with pace := { s.pace with pPow := max 256 p } }).refreshPace

/-- POWER_SAMPLE (R514): a sample joins the last 100; one above 1.25 of the cap lowers P_pow at once. -/
def execPowerSample (watts volts : Nat) (s : State) : Res :=
  .next (if !s.start.aoOn then s
  else
    let l := s.pace.samples ++ [watts]
    let l := l.drop (l.length - 100)
    let s := { s with pace := { s.pace with samples := l } }
    let avg := s.powerSum / l.length
    let s := s.setReg (pgReg 0x20) (BitVec.ofNat 64 (avg % 65536 + volts % 65536 * 2 ^ 16 + l.foldl max 0 % 65536 * 2 ^ 32))
    if 4 * watts > 5 * s.powerCap then s.setPow (9 * s.pace.pPow / 10) else s.refreshPace)

/-- POWER_DECREASE_TICK (R514): every 100 µs, with the 1 ms average above the cap. -/
def execPowerDecreaseTick (s : State) : Res :=
  .next (if s.start.aoOn && s.powerSum > s.powerCap * s.pace.samples.length then s.setPow (99 * s.pace.pPow / 100) else s)

/-- POWER_INCREASE_TICK (R514): every 1 ms, with the 1 ms average more than 25 W below the cap. -/
def execPowerIncreaseTick (s : State) : Res :=
  .next (if s.start.aoOn && s.powerSum + 25 * s.pace.samples.length < s.powerCap * s.pace.samples.length then
    s.setPow (min s.paceCeiling (cdiv (101 * s.pace.pPow) 100))
  else s)

/-- R507: one domain's calibration: its gain, its trim, and a TRIM entry with the pace at its trimmed upper limit. -/
def State.calibrate (s : State) (x : CalReading × Nat) : State :=
  let d := x.2
  let g : Int × Nat := ((x.1.high : Int) - x.1.low, s.vMax - s.vMin)
  let s := { s with pace := { s.pace with gains := SMap.put s.pace.gains d g, trims := SMap.put s.pace.trims d x.1.trim } }
  let s := s.setFld (domState d) 15 0 s.vMax
  let top := floor64f (add64f (i64f x.1.high) (mul64f (quot64f g.1 g.2) (i64f x.1.trim)))
  s.jqueue { kind := 5, body := [BitVec.ofNat 64 (d % 64 + ofInt 16 x.1.trim * 2 ^ 16 + top % 65536 * 2 ^ 32)] }

/-- PACE_CALIBRATION (R507): in stage DOMAINS the governor has held each powered core-group domain at both rail limits. -/
def execPaceCalibration (readings : List CalReading) (s : State) : Res :=
  .next (if s.stage ≠ 3 then s
  else
    let s := ((readings.zip (List.range 32)).filter (fun x => s.start.domainsUp.contains x.2)).foldl State.calibrate s
    (s.setBit (pgReg 0) 1).refreshPace)

/-! Sensors. -/

/-- R516: junction sensors in the order of that rule: cores, base dies (2 each), die uncores (4 each), optical engines,
host link, service complex; the domain of each. -/
def sensorDomain (n : Nat) : Nat :=
  if n < 256 then n / 8
  else if n < 272 then 32 + (n - 256) / 2
  else if n < 280 then 44 + (n - 272) / 4
  else if n < 284 then 40 + (n - 280)
  else if n = 284 then 47
  else 48

/-- The hottest of a list of readings and its first index. -/
def hottest (l : List Int) : Option (Int × Nat) :=
  (l.zip (List.range l.length)).foldl (fun acc x =>
    match acc with
    | none => some x
    | some y => if x.1 > y.1 then some x else some y) none

/-- R516, Table 17-9: DOM_TEMP of each domain that has a reading; a stack's DRAM counts in its base die's domain. -/
def State.domTemps (s : State) (junction hbm : List Int) : State :=
  let all := ((junction.zip (List.range 286)).map (fun x => (sensorDomain x.2, x.1))) ++
    ((hbm.zip (List.range 8)).map (fun x => (32 + x.2, x.1)))
  (List.range 50).foldl (fun s d =>
    match hottest ((all.filter (fun x => decide (x.1 = d))).map (·.2)) with
    | some h => s.setFld (pgReg (0x808 + 16 * d)) 15 0 (ofInt 16 h.1)
    | none => s) s

/-- Table 17-4: the conditions 0 to 5 (warning, limit and fault, junction then HBM) and their thresholds, °C. -/
def State.thermalLimits (s : State) : List Int := [s.modCfg 0xC00 95, 85, 105, 95, 115, 100]

/-- R517: one condition against a reading in 0.125 °C: entered at its threshold, cleared 2 °C below it. -/
def State.thermalCondition (s : State) (k sensor : Nat) (reading : Int) : State :=
  let th := 8 * atD s.thermalLimits k 0
  if s.pace.thermal.contains k then
    if reading < th - 16 then { s with pace := { s.pace with thermal := s.pace.thermal.filter (fun x => x != k) } } else s
  else if reading ≥ th then
    let s := { s with pace := { s.pace with thermal := s.pace.thermal ++ [k] } }
    let s := if k < 2 then s.setBit (pgReg 0) 5 else s
    (s.raiseInt 9).raiseError { code := 0x0903, unit := 14, d5 := sensor, d6 := ofInt 16 reading }
  else s

/-- Table 17-10: THERM_FAULT, THERM_LIMITED and HBM_HOT follow the conditions that hold. -/
def State.thermalBits (s : State) : State :=
  let on := fun (l : List Nat) => if l.any (fun k => s.pace.thermal.contains k) then 1 else 0
  (((s.setFld (pgReg 0) 8 8 (on [4, 5])).setFld (pgReg 0) 7 7 (on [2, 3])).setFld (pgReg 0) 6 6 (on [1])).refreshPins

/-- SENSOR_READ (R516, R517): the always-on domain reads every sensor. -/
def execSensorRead (junction hbm : List Int) (s : State) : Res :=
  .next (if !s.start.aoOn then s
  else
    let s := s.domTemps junction hbm
    let s := match hottest junction with
      | some h =>
        let s := { s with pace := { s.pace with tempJ := h.1 } }
        let s := s.setReg (pgReg 0x40) (BitVec.ofNat 64 (ofInt 16 h.1 + h.2 % 65536 * 2 ^ 16))
        [0, 2, 4].foldl (fun s k => State.thermalCondition s k h.2 h.1) s
      | none => s
    let s := match hottest hbm with
      | some h =>
        let s := { s with pace := { s.pace with tempH := h.1 } }
        let s := s.setReg (pgReg 0x48) (BitVec.ofNat 64 (ofInt 16 h.1 + h.2 % 8 * 2 ^ 16))
        [1, 3, 5].foldl (fun s k => State.thermalCondition s k h.2 h.1) s
      | none => s
    s.thermalBits.refreshPace)

end Sys2Proof.Machine
end

