-- ==== Sys2Proof/Machine/Live.lean ====
section
/-! DEFINITION. Live settings (R10 to R12, R403, R433 to R436): writes are staged, and a commit point takes them by
agreement group. -/

namespace Sys2Proof.Machine

open Sys2Proof

/-- The host link answers the host's accesses (R404). -/
def State.hostUp (s : State) : Bool := s.link.ready && s.link.l0

/-- HL_LIVE_EXPORT_WINDOW in force. -/
def State.exportWindow (s : State) : Nat := s.rfld (liveReg 0x10) 3 0

/-- The value of a live register that a group's check uses (R433): staged, else in force. -/
def State.liveValue (s : State) (o : Nat) : Word := (SMap.find? s.staged o).getD (s.reg o)

/-- Table 14-12: the agreement groups by their registers. -/
def liveGroups : List (List Nat) :=
  [[liveReg 0x00, liveReg 0x08], [liveReg 0x10], [liveReg 0x18], [liveReg 0x20], [numReg 0x28]]

/-- Whether an offset is a live setting. -/
def liveOffset (o : Nat) : Bool := liveGroups.any (fun g => g.contains o)

/-- R433: the REJECT_CODE of a group, 0 where its check passes. -/
def State.groupCode (s : State) (g : List Nat) : Nat :=
  let v := fun (o : Nat) => (s.liveValue o).toNat
  let reserved := g.any (fun o => (SMap.find? s.staged o).isSome && decide ((v o) &&& (regAccess o).cm ≠ v o))
  let w := v (g.headD 0)
  if reserved then 3
  else if g.contains (liveReg 0x00) then
    let cap := v (liveReg 0x00)
    let ceil := v (liveReg 0x08)
    if cap < 400 || cap > 1600 || ceil < 256 || ceil > 1600 then 1
    else if 100 * cap < 25000 + 45 * ceil then 2 else 0
  else if g.contains (liveReg 0x10) then (if w < 1 || w > 8 then 1 else 0)
  else if g.contains (liveReg 0x18) then (if w > 30 then 1 else 0)
  else if g.contains (numReg 0x28) then (if w > 1000000 then 1 else 0)
  else 0

/-- R8: PENDING shows whether a staged value waits. -/
def State.refreshPending (s : State) : State := s.setFld (liveReg 0x28) 0 0 (if s.staged.isEmpty then 0 else 1)

/-- R403, R456: a staged value takes effect: it is in force, journalled, and a wall-clock offset ends CLOCK_STALE. -/
def State.applyLive (s : State) (o : Nat) : State :=
  match SMap.find? s.staged o with
  | none => s
  | some v =>
    let s := (s.setReg o v).jqueue { kind := 1, body := [BitVec.ofNat 64 o, v] }
    let s := if o = liveReg 0x20 then s.clearBit startStatus 6 else s
    { s with staged := SMap.del s.staged o }

/-- R433, R434: a group with a staged value takes effect whole, or its staged values are discarded and the rejection
shown. -/
def State.commitGroup (s : State) (step : Option Nat) (g : List Nat) : State :=
  if !g.any (fun o => (SMap.find? s.staged o).isSome) then s
  else
    let code := s.groupCode g
    if code = 0 then
      let s := (g.foldl State.applyLive s).raiseInt 5
      match step with
      | some n => s.setReg (liveReg 0x38) (BitVec.ofNat 64 n)
      | none => s
    else
      let s := { s with staged := g.foldl SMap.del s.staged }
      ((s.setFld (liveReg 0x28) 15 8 code).setBit (liveReg 0x30) 0).raiseInt 5

/-- LIVE_COMMIT (R403, R435): with HOLD clear, every staged value takes effect in one action. -/
def State.liveCommit (s : State) (step : Option Nat) : State :=
  if s.rfld (liveReg 0x40) 0 0 = 1 then s
  else (liveGroups.foldl (fun s g => State.commitGroup s step g) s).refreshPending.paceEvent

/-- R403: the primary job is not running. -/
def State.notRunning (s : State) : Bool :=
  decide (s.stage ≠ 8) || decide (s.rfld faultStatus 2 2 = 1)

/-- R403: a write to a live-setting register stages its value. -/
def State.stageLive (s : State) (o : Nat) (v : Word) : State :=
  let s := (s.writePlain o v).refreshPending
  { s with link := { s.link with liveWritten := true } }

/-- LIVE_SETTING_WRITE (R403): the value is staged until a commit point. -/
def execLiveSettingWrite (off : Nat) (v : Word) (s : State) : Res :=
  .next (if s.hostUp && liveOffset off then s.stageLive off v else s)

/-- R435: HOLD takes effect at once; a write that clears it makes an idle commit point while the primary is not
running. -/
def State.writeHold (s : State) (v : Word) : State :=
  let was := s.rfld (liveReg 0x40) 0 0
  let s := s.setReg (liveReg 0x40) (v &&& 1)
  if was = 1 && s.rfld (liveReg 0x40) 0 0 = 0 && s.notRunning then s.liveCommit none else s

/-- HL_LIVE_HOLD (R435). -/
def execHlLiveHold (v : Word) (s : State) : Res := .next (if s.hostUp then s.writeHold v else s)

/-- IDLE_COMMIT_POINT (R403): 1 ms after the last write to a live setting, with HOLD clear and the primary not running;
HL_LIVE_COMMIT_STEP does not change. -/
def execIdleCommitPoint (s : State) : Res :=
  .next (if s.notRunning && s.link.liveWritten && decide (s.rfld (liveReg 0x40) 0 0 = 0) then
    let s := s.liveCommit none
    { s with link := { s.link with liveWritten := false } }
  else s)

end Sys2Proof.Machine
end

