-- ==== Sys2Proof/Machine/Mailbox.lean ====
section
/-! DEFINITION. The mailbox (R402): a command's argument, its response, the codes that name no command, and ERRLOG (R497). -/

namespace Sys2Proof.Machine

open Sys2Proof

/-- The HL_MBOX_CMD word: command, tag, argument bytes. -/
def mboxOf (w : Word) : MboxRun := { cmd := Word.fld w 15 0, tag := Word.fld w 31 16, len := Word.fld w 63 32 }

/-- R402: the response goes to HL_MBOX_BUF, HL_MBOX_RESP shows the status, and MBOX is raised. -/
def State.mboxDone (s : State) (status : Nat) (resp : List Byte) : State :=
  match s.link.mbox with
  | none => s
  | some m =>
    let s := if resp.isEmpty then s else s.emit (.hostWrite (s.regN (liveReg 0x108)) resp)
    let s := s.setReg (liveReg 0x118) (BitVec.ofNat 64 (status + m.tag % 65536 * 2 ^ 16 + resp.length % 2 ^ 32 * 2 ^ 32))
    ({ s with link := { s.link with mbox := none } }).raiseInt 4

/-- Recovery mode (R412). -/
def State.recovery (s : State) : Bool := decide (s.rfld (imgReg 0) 2 2 = 1)

/-- R402: a write of HL_MBOX_DB starts the command unless one runs; its argument is read. -/
def State.mboxStart (s : State) : State :=
  if s.link.mbox.isSome then s.inc (liveReg 0x120) 1
  else
    let m := mboxOf (s.reg (liveReg 0x100))
    if m.len = 0 then { s with link := { s.link with mbox := some { m with arg := some [] } } }
    else ({ s with link := { s.link with mbox := some m } }).emit (.hostRead (s.regN (liveReg 0x108)) m.len)

/-- MAILBOX_ARGUMENT_READ (R402): the read of the argument returns; the fourth failed attempt ends the command with status 2
and a record of the input class, whose number no rule gives (a free value). -/
def execMailboxArgumentRead (res : ReadResult) (s : State) : Res :=
  .next (match s.link.mbox with
  | none => s
  | some m =>
    if m.arg.isSome then s
    else
      match res with
      | .ok bs => { s with link := { s.link with mbox := some { m with arg := some (bs.take m.len) } } }
      | .failed =>
        if m.tries < 3 then
          ({ s with link := { s.link with mbox := some { m with tries := m.tries + 1 } } }).emit
            (.hostRead (s.regN (liveReg 0x108)) m.len)
        else
          let f := s.free
          (f.2.raiseError { code := 0x0500 + f.1 % 256, unit := 12 }).mboxDone 2 [])

/-- The argument of a running command of a code, once it has been read. -/
def State.mboxArg (s : State) (cmd : Nat) : Option (List Byte) :=
  match s.link.mbox with
  | some m => if m.cmd = cmd then m.arg else none
  | none => none

/-- Runs a mailbox command: in recovery mode only those of R412 are answered, with status 3 for the others. -/
def State.mboxRun (s : State) (cmd : Nat) (f : List Byte → State → State) : State :=
  match s.mboxArg cmd with
  | none => s
  | some a => if s.recovery && 4 ≤ cmd then s.mboxDone 3 [] else f a s

/-- Table 13-10: the codes that name a command. -/
def mboxCodes : List Nat := [0x01, 0x02, 0x03, 0x10, 0x11, 0x20, 0x30]

/-- MAILBOX_RESERVED_CODE (R402): status 1. -/
def execMailboxReservedCode (s : State) : Res :=
  .next (match s.link.mbox with
  | some m => if mboxCodes.contains m.cmd then s else s.mboxDone 1 []
  | none => s)

/-- The words of a record in the window. -/
def State.windowRecord (s : State) (idx : Nat) : List Word :=
  (List.range 8).map (fun i => s.reg (0x240000 + 64 * (idx % 4096) + 8 * i))

/-- RECORD_INDEX of an error entry of the journal. -/
def JEntry.recordIndex (e : JEntry) : Nat := Word.fld (atD e.body 4 0) 63 32

/-- R497: the records from an index onward, in ascending index: those of the window, and older ones of the journal. -/
def State.recordsFrom (s : State) (first : Nat) : List (List Word) :=
  let next := s.regN (faultReg 8)
  let oldest := s.regN (faultReg 0x10)
  let old := (s.journal.errors.filter (fun e => decide (e.recordIndex < oldest))).map (fun e => (e.recordIndex, e.body))
  let win := (List.range (next - oldest)).map (fun i => (oldest + i, s.windowRecord (oldest + i)))
  (((sortBy (fun a b => decide (a.1 < b.1)) old ++ win).filter (fun x => decide (first ≤ x.1))).take 64).map (·.2)

/-- ERRLOG (R497): up to 64 records from an index onward; an index beyond the next record gives status 2. -/
def execErrlog (s : State) : Res :=
  .next (s.mboxRun 0x30 (fun a s =>
    let first := leNat (a.take 8)
    if a.length ≠ 8 || s.regN (faultReg 8) < first then s.mboxDone 2 []
    else s.mboxDone 0 ((s.recordsFrom first).flatMap wordsBytes)))

end Sys2Proof.Machine
end

