-- ==== Sys2Proof/Machine/Settings.lean ====
section
/-! DEFINITION. Field records and the effective configuration (R424 to R429): the field catalogue of Tables 6-4 to 17-8,
the decoding of field sections, defaults, derivations, checks and limits. -/

namespace Sys2Proof.Machine

open Sys2Proof

/-- The kind of a field's Values column (R425): an integer of a range and a multiple, a power of two of a range, an FP32
value above a bound, an enumeration of a number of values, the seed. -/
inductive FieldKind where
  | int (lo hi : Int) (mult : Nat)
  | pow2 (lo hi : Nat)
  | fp (least : Option W32) (strict belowOne : Bool)
  | enum (n : Nat)
  | seed
  deriving DecidableEq, Repr

/-- How an absent field gets its value (R428): it is required, it has a default, or it is derived. -/
inductive FieldAbsent where
  | required
  | default (v : Nat)
  | derived
  deriving DecidableEq, Repr

/-- The scope of a field: the module, a job, a table, a tensor or an object of a job (R424, R426). -/
inductive FieldScope where
  | module
  | job
  | table
  | tensor
  | object
  deriving DecidableEq, Repr

/-- A field of the catalogue. Bit 15 of its ID marks the Expert level (R426). -/
structure FieldSpec where
  id : Nat
  scope : FieldScope
  kind : FieldKind
  absent : FieldAbsent
  deriving DecidableEq, Repr

/-- A field's values as 64-bit two's complement. -/
def fieldInt (x : Int) : Nat := ofInt 64 x

/-- An integer field of a range. -/
def iField (id : Nat) (sc : FieldScope) (lo hi d : Int) : FieldSpec := ⟨id, sc, .int lo hi 1, .default (fieldInt d)⟩

/-- Table 14-11. -/
def fields14 : List FieldSpec :=
  [⟨0x0100, .job, .int 16 (2 ^ 26) 1, .required⟩, ⟨0x0101, .job, .int 16 4096 16, .default 256⟩, ⟨0x0102, .job, .seed, .required⟩,
   iField 0x0107 .module 400 1600 1400, iField 0x0108 .module 256 1600 1600, iField 0x0109 .module 0 30 5,
   iField 0x010A .module (-(2 ^ 63)) (2 ^ 63 - 1) 0, ⟨0x8103, .job, .int 0 255 1, .derived⟩,
   ⟨0x8104, .job, .int 0 (2 ^ 32 - 1) 1, .derived⟩, iField 0x8105 .job 1 1000 10, iField 0x8106 .job 0 1 0]

/-- An FP32 field of 0 or more. -/
def fField (id : Nat) (sc : FieldScope) (d : Nat) : FieldSpec := ⟨id, sc, .fp (some 0) false false, .default d⟩

/-- An FP32 field of 0 or more and below 1. -/
def uField (id : Nat) (sc : FieldScope) (d : Nat) : FieldSpec := ⟨id, sc, .fp (some 0) false true, .default d⟩

/-- Table 6-4. -/
def fields06 : List FieldSpec :=
  [⟨0x0200, .job, .enum 2, .default 0⟩, iField 0x0204 .job 1 64 16, iField 0x0206 .module 0 1000000 100,
   iField 0x0207 .job 0 1000000 1000, iField 0x0208 .job 0 1000000 10000, fField 0x0209 .job 0, fField 0x020A .job 0,
   ⟨0x8201, .job, .int 0 1 1, .derived⟩, iField 0x8202 .job 0 16 4, iField 0x8203 .job (-126) 127 (-12), iField 0x8205 .job 0 1000 1]

/-- Table 7-1. -/
def fields07 : List FieldSpec :=
  [⟨0x0300, .table, .int 1 (2 ^ 40) 1, .required⟩, ⟨0x0301, .table, .int 4 1024 1, .required⟩, ⟨0x0302, .table, .enum 6, .default 1⟩,
   ⟨0x0303, .table, .enum 2, .default 0⟩, iField 0x0304 .table 0 1 0, iField 0x0305 .table 1 1024 64, ⟨0x0306, .table, .enum 2, .default 1⟩,
   ⟨0x0307, .table, .fp none false false, .default 0⟩, ⟨0x0308, .table, .enum 6, .default 3⟩, ⟨0x8309, .table, .enum 2, .default 0⟩,
   ⟨0x830A, .table, .enum 2, .default 0⟩, ⟨0x830B, .table, .int 1 (2 ^ 40 - 1) 1, .derived⟩, ⟨0x830C, .table, .int 0 (2 ^ 40 - 1) 1, .derived⟩,
   ⟨0x830D, .job, .pow2 256 65536, .default 16384⟩, ⟨0x830E, .job, .int 512 3584 512, .default 2048⟩,
   ⟨0x830F, .job, .int 0 (2 ^ 63 - 1) 65536, .derived⟩]

/-- Table 8-5, after its first field, which Table 7-1 names. -/
def fields08 : List FieldSpec :=
  [fField 0x0401 .table 0x3C23D70A, fField 0x0402 .table 0, ⟨0x8403, .table, .enum 2, .derived⟩, uField 0x8404 .table 0x3F666666,
   uField 0x8405 .table 0x3F666666, uField 0x8406 .table 0x3F7FBE77, ⟨0x8407, .table, .fp (some 0) true false, .derived⟩,
   ⟨0x8408, .job, .int 0 1048576 64, .default 262144⟩, ⟨0x8409, .job, .int 0 (2 ^ 63 - 1) 64, .derived⟩]

/-- Table 9-1. -/
def fields09 : List FieldSpec :=
  [⟨0x0500, .tensor, .int 1 (2 ^ 32) 1, .required⟩, ⟨0x0501, .tensor, .enum 4, .default 0⟩, iField 0x0502 .tensor 0 1 1,
   iField 0x0503 .tensor 0 1 1, ⟨0x0504, .job, .enum 4, .default 3⟩, fField 0x0505 .job 0x3A83126F, fField 0x0506 .job 0,
   fField 0x0507 .job 0, ⟨0x0508, .job, .enum 2, .default 0⟩, ⟨0x8509, .job, .enum 2, .derived⟩, uField 0x850A .job 0x3F666666,
   uField 0x850B .job 0x3F666666, uField 0x850C .job 0x3F7FBE77, ⟨0x850D, .job, .fp (some 0) true false, .derived⟩,
   ⟨0x850E, .job, .int 65536 1048576 65536, .default 524288⟩, ⟨0x850F, .job, .int 0 (2 ^ 63 - 1) 64, .derived⟩,
   ⟨0x8510, .job, .int 0 0x1FFFFF 256, .default 0x1FFC00⟩]

/-- Table 10-7. -/
def fields10 : List FieldSpec :=
  [iField 0x0600 .module 0 736 512, iField 0x0602 .module 0 736 32, iField 0x0603 .module 0 512 256, ⟨0x0604, .module, .enum 2, .default 0⟩,
   iField 0x060A .module 0 168 24, ⟨0x060B, .object, .enum 3, .default 2⟩, ⟨0x8601, .module, .int 0 92 1, .derived⟩,
   ⟨0x8605, .module, .int 0 64 1, .derived⟩, iField 0x8606 .module 16 65535 256, iField 0x8607 .module 10 10000 100,
   iField 0x8608 .module 0 25 5, iField 0x8609 .module 1 1000 20]

/-- Tables 11-8, 12-6 and 13-13. -/
def fields11 : List FieldSpec :=
  [iField 0x0700 .module 0 0xFFFFFFFF 0, iField 0x0701 .module 0 0xFFFF 0xFFFF, iField 0x8702 .module 1 1000 100,
   iField 0x8703 .module 50 600 600, iField 0x8704 .module 1 600 10, ⟨0x0800, .job, .enum 4, .default 3⟩, iField 0x0801 .job 1 4096 1,
   iField 0x8802 .job 1 10000 50, ⟨0x0900, .job, .int 0 256 1, .required⟩, ⟨0x0901, .job, .int 0 4096 1, .required⟩,
   ⟨0x0902, .module, .int 256 65536 64, .default 8192⟩, ⟨0x0903, .module, .pow2 1 256, .default 16⟩, iField 0x0905 .module 1 65536 4096,
   ⟨0x0906, .module, .enum 2, .default 0⟩, iField 0x0907 .module 1 8 4, ⟨0x8904, .module, .int 0 (2 ^ 63 - 1) 64, .derived⟩]

/-- Tables 15-10, 16-11 and 17-8. -/
def fields15 : List FieldSpec :=
  [iField 0x0A00 .module 1 3600 60, iField 0x8A01 .module 10 10000 100, iField 0x8A02 .module 16 4096 256,
   iField 0x0B00 .module 1 16 2, iField 0x0B01 .module 0 720 0, iField 0x0B02 .module 1 16 2, iField 0x8B03 .module 0 8 2,
   iField 0x8B04 .module 0 8 2, iField 0x8B05 .module 1 (2 ^ 32) 1000000, iField 0x8B06 .module 1 100 20, iField 0x8B07 .module 1 10000 100,
   iField 0x8B08 .module 1 3600 60, iField 0x8B09 .module 1 1000 16, iField 0x8B0A .module 550 700 550, iField 0x8B0B .module 70 100 95,
   iField 0x8B0C .module 1 720 24, iField 0x0C00 .module 70 104 95, iField 0x8C01 .module 700 850 850, iField 0x8C02 .module 550 700 550,
   iField 0x8C03 .module 0 10 2, iField 0x8C04 .module 10 40 40, iField 0x8C05 .module 1 1000 10, iField 0x8C06 .module 0 2047 0]

/-- R426: the field catalogue in ascending ID. -/
def fieldCatalogue : List FieldSpec :=
  sortBy (fun a b => decide (a.id < b.id))
    (fields14 ++ fields06 ++ fields07 ++ fields08 ++ fields09 ++ fields10 ++ fields11 ++ fields15)

/-- The field of an ID. -/
def fieldOf (id : Nat) : Option FieldSpec :=
  (fields14 ++ fields06 ++ fields07 ++ fields08 ++ fields09 ++ fields10 ++ fields11 ++ fields15).find? (fun f => decide (f.id = id))

/-- Expert level. -/
def FieldSpec.expert (f : FieldSpec) : Bool := decide (f.id ≥ 0x8000)

/-- R425: the value bytes of a kind. -/
def FieldKind.bytes : FieldKind → Nat
  | .int _ _ _ | .pow2 _ _ => 8
  | .fp _ _ _ => 4
  | .enum _ => 1
  | .seed => 32

/-- R428: whether a value lies in its Values. -/
def FieldKind.inRange (k : FieldKind) (v : Nat) : Bool :=
  match k with
  | .int lo hi m => let x := sint 64 v; decide (lo ≤ x) && decide (x ≤ hi) && decide (x % m = 0)
  | .pow2 lo hi => decide (lo ≤ v) && decide (v ≤ hi) && decide (2 ^ Nat.log2 v = v)
  | .enum n => decide (v < n)
  | .seed => true
  | .fp least strict belowOne =>
    let x := dec32 (BitVec.ofNat 32 v)
    let above := match least with
      | none => true
      | some w =>
        let c := cmpFV x (dec32 w)
        c == .gt || (!strict && c == .eq)
    (least.isNone || !x.isNan) && above && (!belowOne || cmpFV x (dec32 one32) == .lt)

/-! Field records (R424). -/

/-- A field record with the section-table index it came from. -/
structure FieldRec where
  id : Nat := 0
  index : Nat := 0
  value : Nat := 0
  sec : Nat := 0
  deriving DecidableEq, Repr

/-- What a check found wrong (R431): its code, the section-table index, the job slot, the field ID and the INDEX. -/
structure Reject where
  code : Nat := 0
  sec : Nat := 0
  slot : Nat := 0
  field : Nat := 0
  index : Nat := 0
  deriving DecidableEq, Repr

/-- Whether a field may lie in a section of a type (R427): 0x10 MODULE, 0x11 MODULE_EXPERT, 0x20 JOB, 0x21 JOB_EXPERT. -/
def FieldSpec.inSection (f : FieldSpec) (kind : Nat) : Bool :=
  decide (f.expert = (kind % 16 == 1)) && decide ((f.scope == .module) = (kind < 0x20))

/-- R424 to R427: the records of a field section, or the first that breaks their format. -/
def readRecords : Nat → Nat → Nat → Nat → Option (Nat × Nat) → List Byte → List FieldRec → Except Reject (List FieldRec)
  | 0, _, _, _, _, _, acc => .ok acc.reverse
  | n + 1, kind, sec, slot, last, bs, acc =>
    if bs.isEmpty then .ok acc.reverse
    else
      let h := leNat (bs.take 8)
      let id := bits h 15 0
      let index := bits h 31 16
      let len := bits h 47 32
      let bad := fun (c : Nat) => Except.error { code := c, sec := sec, slot := slot, field := id, index := index }
      match fieldOf id with
      | none => bad 0x0301
      | some f =>
        let size := roundUp f.kind.bytes 8
        let val := (bs.drop 8).take size
        if !f.inSection kind then bad 0x0301
        else if (match last with | some l => decide (id < l.1 ∨ (id = l.1 ∧ index ≤ l.2)) | none => false) then bad 0x0302
        else if len ≠ f.kind.bytes || bs.length < 8 + size then bad 0x0303
        else if bits h 63 48 ≠ 0 || (val.drop len).any (fun b => decide (b ≠ 0)) then bad 0x0106
        else readRecords n kind sec slot (some (id, index)) (bs.drop (8 + size))
          ({ id := id, index := index, value := leNat (val.take len), sec := sec } :: acc)

/-! Defaults, derivations and checks (R428). -/

/-- A configuration under construction and the value of an item. -/
def cfgGet (c : SMap Nat) (scope id index d : Nat) : Nat := SMap.getD c (cfgKey scope id index) d

/-- Bmax of R209 and R226. -/
def cfgBmax (c : SMap Nat) (sc : Nat) : Nat :=
  let m := cfgGet c sc 0x101 0 256
  m * cdiv (cfgGet c sc 0x100 0 16) (m * max 1 (cfgGet c sc 0x801 0 1))

/-- The INDEX values at which a scope holds a field. -/
def cfgIndexes (c : SMap Nat) (sc id : Nat) : List Nat :=
  (c.filter (fun e => decide (e.1 / 65536 = sc * 65536 + id))).map (fun e => e.1 % 65536)

/-- The sum of `table.max_bag` over a slot's tables. -/
def cfgBags (c : SMap Nat) (sc : Nat) : Nat := (cfgIndexes c sc 0x300).foldl (fun a t => a + cfgGet c sc 0x305 t 64) 0

/-- R209: the minimum of `lookup.spill_bytes`. -/
def minSpill (c : SMap Nat) (sc : Nat) : Nat := roundUp (16 * cfgBmax c sc * cfgBags c sc) 65536 + 256 * 65536

/-- R226: the minimum of `update.grad_spill_bytes`. -/
def minGradSpill (c : SMap Nat) (sc : Nat) : Nat := roundUp (16 * cdiv (cfgBmax c sc) 256 * cfgBags c sc) 64

/-- R259: the minimum of `dense.contrib_bytes`, over the tensors that have gradients. -/
def minContrib (c : SMap Nat) (sc : Nat) (grads : List Nat) : Nat :=
  let ep := ((cfgIndexes c sc 0x500).filter grads.contains).foldl (fun a t => a + roundUp (cfgGet c sc 0x500 t 0) 1024) 0
  roundUp (4 * (cfgBmax c sc / max 1 (cfgGet c sc 0x101 0 256)) * ep) 64

/-- R94, R102, R496: the tiles or registers that no filler slot names, less those of filler Flint. -/
def restMask (c : SMap Nat) (id all flint : Nat) : Nat :=
  let named := [2, 3, 4].foldl (fun m sc => m ||| cfgGet c sc id 0 0) 0
  let f := if cfgGet c 0 0xB01 0 0 ≠ 0 && (SMap.find? c (cfgKey 4 0x100 0)).isNone then flint else 0
  all - (all &&& (named ||| f))

/-- R428: the derived value of an absent Expert field; none for a filler's masks, which have no derivation. -/
def deriveField (c : SMap Nat) (sc : Nat) (grads : List Nat) (id t : Nat) : Option Nat :=
  let opt := cfgGet c sc 0x308 t 3
  match id with
  | 0x8103 => if sc = 1 then some (restMask c 0x8103 0xFF 0x80) else none
  | 0x8104 => if sc = 1 then some (restMask c 0x8104 0xFFFFFFFF 0xF0000000) else none
  | 0x8201 => some (cfgGet c sc 0x200 0 0)
  | 0x830B => some (hashMultAux (cfgGet c sc 0x300 t 1) 4096 0x9E3779B97F)
  | 0x830C => some (0x5851F42D * (t + 1) % max 1 (cfgGet c sc 0x300 t 1))
  | 0x830F => some (minSpill c sc)
  | 0x8403 => some (if opt = 4 || opt = 5 then 1 else 0)
  | 0x8407 => some (if opt = 4 || opt = 5 then 0x322BCC77 else 0x2EDBE6FF)
  | 0x8409 => some (minGradSpill c sc)
  | 0x8509 => some (if cfgGet c sc 0x504 0 3 = 3 then 1 else 0)
  | 0x850D => some (if cfgGet c sc 0x504 0 3 = 3 then 0x322BCC77 else 0x2EDBE6FF)
  | 0x850F => some (minContrib c sc grads)
  | 0x8601 => some (cdiv (cfgGet c 0 0x600 0 512) 8)
  | 0x8605 => some (if cfgGet c 0 0x604 0 0 = 0 then 16 else 0)
  | 0x8904 => some (256 * cfgGet c 0 0x903 0 16)
  | _ => none

/-- The "Check when present" of an Expert field. -/
def checkField (c : SMap Nat) (sc : Nat) (grads : List Nat) (id t v : Nat) : Bool :=
  let opt := cfgGet c sc 0x308 t 3
  let dopt := cfgGet c sc 0x504 0 3
  match id with
  | 0x830B => decide (v % 2 = 1) && decide (Nat.gcd v (cfgGet c sc 0x300 t 1) = 1)
  | 0x830C => decide (v < cfgGet c sc 0x300 t 1)
  | 0x830F => decide (minSpill c sc ≤ v)
  | 0x8404 => decide (opt = 1)
  | 0x8405 | 0x8406 => decide (opt = 4) || decide (opt = 5)
  | 0x8407 => decide (2 ≤ opt)
  | 0x8409 => decide (minGradSpill c sc ≤ v)
  | 0x850A => decide (dopt = 1)
  | 0x850B | 0x850C => decide (dopt = 3)
  | 0x850D => decide (2 ≤ dopt)
  | 0x850F => decide (minContrib c sc grads ≤ v)
  | 0x8510 => decide (v + 1024 ≤ 0x200000)
  | 0x8601 => decide (cdiv (cfgGet c 0 0x600 0 512) 8 ≤ v)
  | 0x8605 => decide (v = 0) == decide (cfgGet c 0 0x604 0 0 ≠ 0)
  | 0x8904 => decide (v + 256 ≤ 1024 * cfgGet c 0 0x903 0 16)
  | 0x8C02 => decide (v < cfgGet c 0 0x8C01 0 850)
  | 0x8C06 => decide (v < 1024)
  | _ => true

/-- The INDEX values at which a scope has a field: those of its tables, tensors or objects, else 0. -/
def FieldSpec.indexes (f : FieldSpec) (tables tensors objects : List Nat) : List Nat :=
  match f.scope with
  | .table => tables
  | .tensor => tensors
  | .object => objects
  | _ => [0]

/-- The catalogue's fields of a scope: the module (0) or a job slot. -/
def scopeFields (sc : Nat) : List FieldSpec := fieldCatalogue.filter (fun f => decide ((f.scope == .module) = (sc = 0)))

/-- R428: places the present values of a scope, each within its Values and its INDEX. -/
def placeRecords (sc : Nat) (objects : List Nat) : List FieldRec → SMap Nat → Except Reject (SMap Nat)
  | [], c => .ok c
  | r :: rs, c =>
    let bad := fun (code : Nat) => Except.error { code := code, sec := r.sec, slot := sc - 1, field := r.id, index := r.index }
    match fieldOf r.id with
    | none => bad 0x0301
    | some f =>
      if !f.kind.inRange r.value then bad 0x0304
      else if f.scope = .object && !objects.contains r.index then bad 0x0307
      else if (f.scope = .module || f.scope = .job) && r.index ≠ 0 then bad 0x0307
      else placeRecords sc objects rs (SMap.put c (cfgKey sc r.id r.index) r.value)

/-- R428: defaults of absent Basic and Live fields; a required one rejects. -/
def placeDefaults (sc : Nat) : List (FieldSpec × Nat) → SMap Nat → Except Reject (SMap Nat)
  | [], c => .ok c
  | (f, i) :: rest, c =>
    if (SMap.find? c (cfgKey sc f.id i)).isSome then placeDefaults sc rest c
    else
      match f.absent with
      | .default v => placeDefaults sc rest (SMap.put c (cfgKey sc f.id i) v)
      | _ => .error { code := 0x0305, slot := sc - 1, field := f.id, index := i }

/-- R428: the Expert fields in ascending (ID, INDEX): derived where absent, checked where present. -/
def placeExperts (sc : Nat) (grads : List Nat) (recs : List FieldRec) : List (FieldSpec × Nat) → SMap Nat → Except Reject (SMap Nat)
  | [], c => .ok c
  | (f, i) :: rest, c =>
    match SMap.find? c (cfgKey sc f.id i) with
    | some v =>
      if checkField c sc grads f.id i v then placeExperts sc grads recs rest c
      else
        let sec := ((recs.find? (fun r => decide (r.id = f.id) && decide (r.index = i))).map (·.sec)).getD 0
        .error { code := 0x0306, sec := sec, slot := sc - 1, field := f.id, index := i }
    | none =>
      match f.absent with
      | .default v => placeExperts sc grads recs rest (SMap.put c (cfgKey sc f.id i) v)
      | _ =>
        match deriveField c sc grads f.id i with
        | some v => placeExperts sc grads recs rest (SMap.put c (cfgKey sc f.id i) v)
        | none => placeExperts sc grads recs rest c

/-- The cross-field limits of the module scope: R300 and R373. -/
def moduleLimits (c : SMap Nat) : Option Reject :=
  if 8 * cfgGet c 0 0x8601 0 64 + cfgGet c 0 0x8605 0 16 + 4 + cfgGet c 0 0x602 0 32 > 768 then some { code := 0x0308, field := 0x602 }
  else if cfgGet c 0 0x903 0 16 + cfgGet c 0 0x603 0 256 > 512 then some { code := 0x0308, field := 0x903 }
  else none

/-- The cross-field limits of a job: R18, R178, R190, R249. -/
def jobLimits (c : SMap Nat) (sc : Nat) : Option Reject :=
  let bad := fun (f i : Nat) => some { code := 0x0308, slot := sc - 1, field := f, index := i : Reject }
  let tables := cfgIndexes c sc 0x300
  let tensors := cfgIndexes c sc 0x500
  let clip := tensors.foldl (fun a t => if cfgGet c sc 0x502 t 1 = 1 then a + cfgGet c sc 0x500 t 0 else a) 0
  if cfgGet c sc 0x100 0 16 % cfgGet c sc 0x101 0 256 ≠ 0 then bad 0x100 0
  else match tables.find? (fun t => decide (1024 ≤ t)) with
  | some t => bad 0x300 t
  | none =>
    if cfgGet c sc 0x100 0 16 * cfgBags c sc ≥ 2 ^ 32 then bad 0x305 0
    else match tensors.find? (fun t => decide (0xF400 ≤ t)) with
    | some t => bad 0x500 t
    | none => if tensors.length > 4096 then bad 0x500 0 else if clip ≥ 2 ^ 40 then bad 0x502 0 else none

/-- R428: one scope of the configuration from its field records; `objects` are the object ids that may carry a hint, `grads` the
tensors that have gradients (R259). -/
def buildScope (sc : Nat) (objects grads : List Nat) (recs : List FieldRec) (c : SMap Nat) : Except Reject (SMap Nat) :=
  match placeRecords sc objects recs c with
  | .error e => .error e
  | .ok c =>
    let named := fun (want : FieldScope) => ((recs.filter (fun r => (fieldOf r.id).any (fun f => f.scope == want))).map (·.index)).eraseDups
    let tables := sortBy (fun a b => decide (a < b)) (named .table)
    let tensors := sortBy (fun a b => decide (a < b)) (named .tensor)
    let all := (scopeFields sc).flatMap (fun f => (f.indexes tables tensors objects).map (fun i => (f, i)))
    match placeDefaults sc (all.filter (fun x => !x.1.expert)) c with
    | .error e => .error e
    | .ok c =>
      match placeExperts sc grads recs (all.filter (fun x => x.1.expert)) c with
      | .error e => .error e
      | .ok c =>
        match (if sc = 0 then moduleLimits c else jobLimits c sc) with
        | some e => .error e
        | none => .ok c

/-- R429: the effective configuration as field records, by scope and then by (ID, INDEX). -/
def configBytes (c : SMap Nat) : List Byte :=
  c.flatMap (fun e =>
    let id := e.1 / 65536 % 65536
    let n := ((fieldOf id).map (fun f => f.kind.bytes)).getD 8
    leBytes 8 (id + e.1 % 65536 * 2 ^ 16 + n * 2 ^ 32) ++ padTo 8 (leBytes n e.2))

end Sys2Proof.Machine
end

