-- ==== Sys2Proof/Machine/Image.lean ====
section
/-! DEFINITION. The Efdal image (The Efdal image, settings and trust): flash devices and slot control blocks (R407 to R411),
verification (R413 to R417), rejection (R431), the booted image's settings (R429), staged updates (R438, R439), enrolment
(R422, R423, R466) and attestation (R441). -/

namespace Sys2Proof.Machine

open Sys2Proof

/-! Flash. -/

/-- FL0 or FL1. -/
def State.flash (s : State) (x : Nat) : FlashDevice := if x = 0 then s.flash0 else s.flash1

/-- Changes a flash device. -/
def State.updFlash (s : State) (x : Nat) (f : FlashDevice → FlashDevice) : State :=
  if x = 0 then { s with flash0 := f s.flash0 } else { s with flash1 := f s.flash1 }

/-- Bytes of a flash device; an unlisted byte is erased, 0xFF. -/
def FlashDevice.read (d : FlashDevice) (a n : Nat) : List Byte := (List.range n).map (fun i => Mem.getF 0xFF d.bytes (a + i))

/-- Writes bytes at rising addresses of a memory whose unlisted bytes are erased. -/
def Mem.putErased (m : Mem) (a : Nat) : List Byte → Mem
  | [] => m
  | b :: bs => Mem.putErased (Mem.setF 0xFF m a b) (a + 1) bs

/-- Programs bytes. -/
def FlashDevice.write (d : FlashDevice) (a : Nat) (bs : List Byte) : FlashDevice := { d with bytes := Mem.putErased d.bytes a bs }

/-- Erases a range. -/
def FlashDevice.erase (d : FlashDevice) (a n : Nat) : FlashDevice :=
  { d with bytes := d.bytes.filter (fun c => decide (c.1 < a) || decide (a + n ≤ c.1)) }

/-- A slot control block (Table 14-2). -/
structure ControlBlock where
  update : Nat := 0
  state : Nat := 0
  tries : Nat := 0
  reason : Nat := 0
  gen : Nat := 0
  len : Nat := 0
  deriving DecidableEq, Repr

/-- R408: one copy of a control block, if it is valid. -/
def readCb (bs : List Byte) : Option ControlBlock :=
  let f := fun (o n : Nat) => leNat ((bs.drop o).take n)
  if f 0 8 = 0x4B434C5346455A47 && f 60 4 = crc32c (bs.take 60) then
    some { update := f 8 4, state := f 12 1, tries := f 13 1, reason := f 14 2, gen := f 16 8, len := f 24 8 }
  else none

/-- A control block as the 4,096 bytes of a copy. -/
def cbBytes (c : ControlBlock) : List Byte :=
  let h := leBytes 8 0x4B434C5346455A47 ++ leBytes 4 c.update ++ leBytes 1 c.state ++ leBytes 1 c.tries ++ leBytes 2 c.reason ++
    leBytes 8 c.gen ++ leBytes 8 c.len ++ List.replicate 28 0
  h ++ leBytes 4 (crc32c h) ++ List.replicate 4032 0

/-- R408: the current control block of a slot and the copy that holds it. -/
def State.cbAt (s : State) (x : Nat) : Option (ControlBlock × Nat) :=
  let d := s.flash x
  if !d.answers then none
  else
    match readCb (d.read 0 64), readCb (d.read 0x1000 64) with
    | some a, some b => if a.update ≥ b.update then some (a, 0) else some (b, 1)
    | some a, none => some (a, 0)
    | none, some b => some (b, 1)
    | none, none => none

/-- R409, R410: the current control block, empty when no copy is valid or the device does not answer. -/
def State.cb (s : State) (x : Nat) : ControlBlock := ((s.cbAt x).map (·.1)).getD {}

/-- R408: updates a control block by writing its other copy. -/
def State.putCb (s : State) (x : Nat) (f : ControlBlock → ControlBlock) : State :=
  let old := s.cb x
  let copy := match s.cbAt x with | some c => 1 - c.2 | none => 0
  let s := s.updFlash x (fun d => d.write (0x1000 * copy) (cbBytes { f old with update := old.update + 1 }))
  let st := (f old).state
  if x = 0 then s.setFld (imgReg 0) 10 8 st else s.setFld (imgReg 0) 14 12 st

/-- The bytes of the image in a slot. -/
def State.imageBytes (s : State) (x a n : Nat) : List Byte := (s.flash x).read (0x10000 + a) n

/-! The image. -/

/-- A field of little-endian bytes. -/
def fieldAt (bs : List Byte) (o n : Nat) : Nat := leNat ((bs.drop o).take n)

/-- Whether a range of bytes is all zero. -/
def zeroAt (bs : List Byte) (o n : Nat) : Bool := ((bs.drop o).take n).all (fun b => decide (b = 0))

/-- R414: entry `i` of the section table. -/
def sectionAt (h : List Byte) (i : Nat) : Section_ :=
  let o := 0x500 + 96 * i
  { kind := fieldAt h o 1, slot := fieldAt h (o + 1) 1, offset := fieldAt h (o + 8) 8, length := fieldAt h (o + 16) 8 }

/-- The section digests of the table. -/
def sectionDigest (h : List Byte) (i : Nat) : List Byte := (h.drop (0x500 + 96 * i + 32)).take 64

/-- The sections in use. -/
def sectionsOf (h : List Byte) : List Section_ := (List.range (fieldAt h 0x24 2)).map (sectionAt h)

/-- R414: bounds, alignment, overlaps, unused entries and the bytes outside every section. -/
def sectionBounds (h : List Byte) (len : Nat) (img : List Byte) : Bool :=
  let ss := sectionsOf h
  let n := ss.length
  ss.all (fun x => decide (x.offset % 64 = 0) && decide (0x2000 ≤ x.offset) && decide (x.offset + x.length ≤ len)) &&
  (List.range n).all (fun i => (List.range i).all (fun j =>
    let a := sectionAt h i
    let b := sectionAt h j
    decide (a.length = 0) || decide (b.length = 0) ||
      decide (a.offset + a.length ≤ b.offset) || decide (b.offset + b.length ≤ a.offset))) &&
  zeroAt h (0x500 + 96 * n) (96 * (64 - n)) &&
  ((img.zip (List.range img.length)).all (fun x =>
    decide (x.2 < 0x2000) || decide (x.1 = 0) || ss.any (fun y => decide (y.offset ≤ x.2) && decide (x.2 < y.offset + y.length))))

/-- Active job slots: those with a JOB section (R415). -/
def activeSlots (ss : List Section_) : List Nat := [0, 1, 2, 3].filter (fun i => ss.any (fun x => decide (x.kind = 0x20) && decide (x.slot = i)))

/-- R415, Table 14-5: types, counts and slots; of the firmware sections FW_SERVICE stands first (log entry 163). -/
def sectionTypes (ss : List Section_) : Bool :=
  let count := fun (k sl : Nat) => (ss.filter (fun x => decide (x.kind = k) && decide (x.slot = sl))).length
  let act := activeSlots ss
  ss.all (fun x => [1, 2, 3, 0x10, 0x11, 0x20, 0x21, 0x22, 0x23, 0x24, 0x25].contains x.kind &&
    (if x.kind < 0x20 then decide (x.slot = 0) else decide (x.slot < 4) && act.contains x.slot)) &&
  [1, 2, 3, 0x10].all (fun k => decide (count k 0 = 1)) && decide (count 0x11 0 ≤ 1) &&
  (ss.find? (fun x => decide (x.kind ≤ 3))).all (fun x => decide (x.kind = 1)) &&
  [0, 1, 2, 3].all (fun i => decide (count 0x20 i ≤ 1) && decide (count 0x21 i ≤ 1) && decide (count 0x23 i ≤ 1) &&
    decide (count 0x24 i ≤ 1) && decide (count 0x25 i ≤ 1) && (!act.contains i || decide (1 ≤ count 0x22 i)))

/-- R7: the reserved fields of the header, the manifest, the signer's certificate in it and the section table. -/
def reservedZero (h : List Byte) (n : Nat) : Bool :=
  decide (fieldAt h 0x20 4 < 4) && zeroAt h 0x26 2 && zeroAt h 0x50 176 && zeroAt h 0x1D00 640 && zeroAt h 0x1FC0 64 &&
  zeroAt h 0x104 12 && zeroAt h 0x132 6 && zeroAt h 0x160 48 && zeroAt h (0x100 + 0xD0 + 192) 320 && zeroAt h (0x100 + 0x2D0) 240 &&
  (List.range n).all (fun i => zeroAt h (0x502 + 96 * i) 6 && zeroAt h (0x518 + 96 * i) 8)

/-- Table 14-6: a certificate of a kind, signed under the vendor root key. -/
def certValid (root cert : List Byte) (kind : Nat) : Bool :=
  decide (fieldAt cert 0 1 = 1) && decide (fieldAt cert 1 1 = kind) && zeroAt cert 2 6 && zeroAt cert 48 48 &&
  (kind != 1 || zeroAt cert 8 8) && edVerify root (cert.take 96) (cert.drop 96)

/-- The field records of a section list of given types and job slot, in section-table order. -/
def scopeRecords (img : List Byte) (ss : List (Section_ × Nat)) (kinds : List Nat) (slot : Nat) : Except Reject (List FieldRec) :=
  (ss.filter (fun x => kinds.contains x.1.kind && decide (x.1.slot = slot))).foldl (fun acc x =>
    match acc with
    | .error e => .error e
    | .ok l =>
      match readRecords (x.1.length / 8 + 1) x.1.kind x.2 x.1.slot none ((img.drop x.1.offset).take x.1.length) [] with
      | .error e => .error e
      | .ok r => .ok (l ++ r)) (.ok [])

/-- R420: the declared objects of a slot: id and size. -/
def declaredObjects (img : List Byte) (ss : List Section_) (slot : Nat) : List (Nat × Nat) :=
  match ss.find? (fun x => decide (x.kind = 0x25) && decide (x.slot = slot)) with
  | none => []
  | some x => (List.range (x.length / 16)).map (fun i =>
      (fieldAt img (x.offset + 16 * i) 4, fieldAt img (x.offset + 16 * i + 8) 6))

/-- The sections with their table indexes. -/
def indexed (ss : List Section_) : List (Section_ × Nat) := ss.zip (List.range ss.length)

/-- R7, R420: whether the reserved bits of every entry of an OBJECTS section are zero. -/
def objectsZero (img : List Byte) (x : Section_) : Bool :=
  (List.range (x.length / 16)).all (fun i => zeroAt img (x.offset + 16 * i + 4) 4 && zeroAt img (x.offset + 16 * i + 14) 2)

/-- R7, R420: the table index of the first OBJECTS section with a reserved bit set. -/
def objectsBad (img : List Byte) (ss : List Section_) : Option Nat :=
  ((indexed ss).find? (fun y => decide (y.1.kind = 0x25) && !objectsZero img y.1)).map (·.2)

/-- R259: the tensors of a slot that have gradients: those that a REDUCE_SCATTER entry of its step code reduces (log entry 154). -/
def gradTensors (img : List Byte) (ss : List Section_) (slot : Nat) : List Nat :=
  (ss.filter (fun x => decide (x.kind = 0x22) && decide (x.slot = slot))).flatMap (fun x =>
    let lines := fieldAt img (x.offset + 2) 2
    (List.range (4 * lines)).filterMap (fun i =>
      let e := decodeEntry (fieldAt img (x.offset + 128 + 16 * i) 16)
      if e.unit = 6 && e.op = 3 && e.dv then
        some (bits (fieldAt img (x.offset + 128 + 64 * (lines + e.desc) + 16) 8) 47 32)
      else none))

/-- R428: the configuration of a job slot of an image over what is already there. -/
def jobScope (img : List Byte) (ss : List Section_) (slot : Nat) (c : SMap Nat) : Except Reject (SMap Nat) :=
  match scopeRecords img (indexed ss) [0x20, 0x21] slot with
  | .error e => .error e
  | .ok recs => buildScope (slot + 1) (((declaredObjects img ss slot).map (·.1)).filter (fun o => decide (o < 65536))) (gradTensors img ss slot) recs c

/-- R424, R428: the module scope of an image's configuration. -/
def moduleScope (img : List Byte) (ss : List Section_) : Except Reject (SMap Nat) :=
  match scopeRecords img (indexed ss) [0x10, 0x11] 0 with
  | .error e => .error e
  | .ok recs => buildScope 0 [] [] recs []

/-- R429: the effective configuration of an image; a slot whose fields fail leaves none of its own. -/
def effectiveConfig (img : List Byte) (ss : List Section_) : SMap Nat :=
  let c0 := match moduleScope img ss with | .ok c => c | .error _ => []
  [3, 2, 1, 0].foldl (fun c i =>
    if (activeSlots ss).contains i then (match jobScope img ss i c with | .ok c' => c' | .error _ => c) else c) c0

/-- R417: the field formats of every field section. -/
def fieldFormats (img : List Byte) (ss : List Section_) : Option Reject :=
  ((indexed ss).filter (fun x => [0x10, 0x11, 0x20, 0x21].contains x.1.kind)).foldl (fun acc x =>
    match acc with
    | some e => some e
    | none =>
      match readRecords (x.1.length / 8 + 1) x.1.kind x.2 x.1.slot none ((img.drop x.1.offset).take x.1.length) [] with
      | .error e => some e
      | .ok _ => none) none

/-- The first check of a list that fails. -/
def firstFail : List (Bool × Reject) → Option Reject
  | [] => none
  | (ok, e) :: rest => if ok then firstFail rest else some e

/-- R417: the first checks of the image of `len` bytes with header `h` in slot `x`: its form and its bounds. -/
def State.verifyHead (s : State) (x : Nat) (h : List Byte) (len : Nat) : Option Reject :=
  firstFail [
    (decide (fieldAt h 0 8 = 0x31474D4946455A47) && decide (fieldAt h 8 4 = 1), { code := 0x0101 }),
    (decide (fieldAt h 0x0C 4 = 8192) && decide (1 ≤ fieldAt h 0x24 2) && decide (fieldAt h 0x24 2 ≤ 64), { code := 0x0102 }),
    (decide (len ≤ 0x05FF0000) && decide (len ≤ (s.cb x).len), { code := 0x0103 })]

/-- R417: the checks of an image's sections, keys and digests, in the order of the codes' precedence. -/
def State.verifyKeys (s : State) (h : List Byte) (len : Nat) (img : List Byte) (ss : List Section_) : Option Reject :=
  let m := (h.drop 0x100).take 1024
  let root := (m.drop 0x10).take 32
  let cert := (m.drop 0x30).take 160
  let owner := (h.drop 0x30).take 32
  let digest := fun (i : Nat) => sha512 ((img.drop (sectionAt h i).offset).take (sectionAt h i).length)
  let fw := (indexed ss).filter (fun y => decide (y.1.kind ≤ 3))
  let bad := fun (c : Nat) (i : Nat) => ({ code := c, sec := i : Reject })
  let badDigest := (List.range ss.length).find? (fun i => decide (digest i ≠ sectionDigest h i))
  let badFw := (fw.zip (List.range fw.length)).find? (fun y => decide (digest y.1.2 ≠ ((m.drop (0xD0 + 64 * y.2)).take 64)))
  firstFail [
    (sectionBounds h len img, bad 0x0104 0),
    (sectionTypes ss, bad 0x0105 0),
    (reservedZero h ss.length, bad 0x0106 0),
    (((h.drop 0x28).take 8).any (fun b => decide (b.toNat ≠ 0) && decide (b.toNat = s.fuses.stepping)), bad 0x0107 0),
    (decide (sha512 root = s.fuses.rootHash), bad 0x0201 0),
    (certValid root cert 1, bad 0x0202 0),
    (edVerify ((cert.drop 16).take 32) (m.take 0x3C0) ((m.drop 0x3C0).take 64), bad 0x0203 0),
    (decide (s.fuses.svn ≤ fieldAt m 2 1), bad 0x0205 0),
    (!s.fuses.enrolled || decide (sha512 owner = s.fuses.ownerHash), bad 0x0206 0),
    (edVerify owner (h.take 0x1F80) ((h.drop 0x1F80).take 64), bad 0x0207 0),
    (badDigest.isNone, bad 0x0208 (badDigest.getD 0)),
    (badFw.isNone, bad 0x0204 ((badFw.map (fun y => y.1.2)).getD 0)),
    ((objectsBad img ss).isNone, bad 0x0106 ((objectsBad img ss).getD 0))]

/-- R417: verify() on the image of a slot: the first failure, if any. -/
@[irreducible] def State.verify (s : State) (x : Nat) : Option Reject :=
  let h := s.imageBytes x 0 0x2000
  let len := fieldAt h 0x10 8
  match s.verifyHead x h len with
  | some e => some e
  | none =>
    let img := s.imageBytes x 0 len
    let ss := sectionsOf h
    match s.verifyKeys h len img ss with
    | some e => some e
    | none =>
      match fieldFormats img ss with
      | some e => some e
      | none => match moduleScope img ss with | .error e => some e | .ok _ => none

/-- Table 14-14: the IMG_REJECT value of a rejection of image slot `x`. -/
def Reject.word (e : Reject) (x : Nat) : Nat :=
  e.code % 2 ^ 16 + e.sec % 64 * 2 ^ 16 + x % 2 * 2 ^ 22 + e.slot % 4 * 2 ^ 24 + e.field % 2 ^ 16 * 2 ^ 32 + e.index % 2 ^ 16 * 2 ^ 48

/-- R431: a rejection is shown, raises ERROR and writes a record. -/
def State.reject (s : State) (e : Reject) (x : Nat) : State :=
  let w := e.word x
  ((s.setReg (imgReg 8) (BitVec.ofNat 64 w)).setBit (imgReg 0x10) 0).raiseError { code := 0x0701, slot := e.slot, d5 := w }

/-- R409: a slot is marked BAD with a reason, and a record is written. -/
def State.markBad (s : State) (x reason : Nat) : State :=
  (s.putCb x (fun c => { c with state := 5, reason := reason })).raiseError { code := 0x0702, d5 := x, d6 := reason }

/-- R410: a device that does not answer is counted and recorded. -/
def State.flashFault (s : State) (x : Nat) : State :=
  if (s.flash x).answers then s else (s.inc (imgReg 0x58) 1).raiseError { code := 0x0703, d5 := x }

/-- R409: the slots in the order they are tried: TRIAL first, then GOOD by falling GEN. -/
def State.bootOrder (s : State) : List Nat :=
  let st := fun (x : Nat) => (s.cb x).state
  let good := [0, 1].filter (fun x => decide (st x = 4))
  [0, 1].filter (fun x => decide (st x = 3)) ++ (if (s.cb 1).gen > (s.cb 0).gen then good.reverse else good)

/-- The live settings as the image gives them (R13). -/
def imageLive (c : SMap Nat) : List (Nat × Nat) :=
  [(liveReg 0x00, cfgGet c 0 0x107 0 1400), (liveReg 0x08, cfgGet c 0 0x108 0 1600), (liveReg 0x10, cfgGet c 0 0x907 0 4),
   (liveReg 0x18, cfgGet c 0 0x109 0 5), (liveReg 0x20, cfgGet c 0 0x10A 0 0), (numReg 0x28, cfgGet c 0 0x206 0 100)]

/-- R373: the ingest window W in MiB: the lower of its field and a quarter of the chosen BAR2 size. -/
def State.ingestWindow (s : State) : Nat := min (s.modCfg 0x8904 (256 * s.modCfg 0x903 16)) (256 * s.link.barGib)

/-- R373: HL_STATUS shows W in units of 64 MiB. -/
def State.refreshWindow (s : State) : State := s.setFld hlStatus 31 16 (s.ingestWindow / 64)

/-- R409, R413, R429: boots the image of a slot: its configuration, its digest and its identity are in force. -/
def State.boot (s : State) (x : Nat) : State :=
  let h := s.imageBytes x 0 0x2000
  let img := s.imageBytes x 0 (fieldAt h 0x10 8)
  let ss := sectionsOf h
  let c := effectiveConfig img ss
  let d := sha512 (configBytes c)
  let s := { s with image := some { slot := x, header := h, sections := ss, gen := (s.cb x).gen }, cfg := c }
  let s := s.setRegs (imgReg 0x18) ([fieldAt h 0x18 8, (s.cb 0).gen, (s.cb 1).gen, leNat (d.take 8), leNat ((d.drop 8).take 8), s.fuses.svn % 64].map (BitVec.ofNat 64))
  let bar := cfgGet c 0 0x903 0 16
  let s := { s with link := { s.link with barGib := if s.link.barGib = 0 then bar else min s.link.barGib bar } }
  let s := s.refreshWindow
  let s := s.setReg 0 (BitVec.ofNat 64 (0x1296 + s.fuses.stepping % 256 * 2 ^ 16 + fieldAt h 0x100 1 * 2 ^ 24 + fieldAt h 0x101 1 * 2 ^ 32))
  let s := s.setFld (imgReg 0) 0 0 x
  let s := s.setFld (imgReg 0) 1 1 (if (s.cb x).state = 3 then 1 else 0)
  let s := s.setFld (numReg 0) 4 4 (if cfgGet c 1 0x8201 0 0 = 1 then 1 else 0)
  let s := s.setFld faultStatus 7 7 (if cfgGet c 0 0xB01 0 0 ≠ 0 && (activeSlots ss).contains 3 then 1 else 0)
  s.setStage 2

/-- R409: a trial slot that has reached three starts unconfirmed is bad. -/
def State.trialLimit (s : State) (x : Nat) : State :=
  if (s.cb x).state = 3 && 3 ≤ (s.cb x).tries then (s.reject { code := 0x0009 } x).markBad x 0x0009 else s

/-- Table 14-14: the identity bits at start. -/
def State.identity (s : State) : State :=
  let s := s.setFld (imgReg 0) 3 3 (if s.fuses.enrolled then 1 else 0)
  let s := s.setFld (imgReg 0) 4 4 (if s.fuses.debugLock then 1 else 0)
  let s := (s.setFld (imgReg 0) 10 8 (s.cb 0).state).setFld (imgReg 0) 14 12 (s.cb 1).state
  s.setReg (imgReg 0x40) (BitVec.ofNat 64 (s.fuses.svn % 64))

/-! Staged update. -/

/-- The slot that is not booted; in recovery mode slot A, or the slot whose device answers. -/
def State.otherSlot (s : State) : Nat :=
  match s.image with
  | some b => 1 - b.slot
  | none => if s.flash0.answers then 0 else 1

/-- R438: what an IMAGE_WRITE asks for. -/
structure WriteArg where
  src : Nat := 0
  len : Nat := 0
  bar2 : Bool := false
  off : Nat := 0
  deriving DecidableEq, Repr

/-- The argument of IMAGE_WRITE; none where it is not 24 bytes or its reserved bits or length are wrong. -/
def writeArg (a : List Byte) : Option WriteArg :=
  let w1 := fieldAt a 8 8
  let w2 := fieldAt a 16 8
  let len := bits w1 31 0
  if a.length = 24 && bits w1 63 33 = 0 && bits w2 63 32 = 0 && len ≠ 0 && len % 4096 = 0 && len ≤ 2 ^ 24 then
    some { src := fieldAt a 0 8, len := len, bar2 := decide (bits w1 32 32 = 1), off := bits w2 31 0 }
  else none

/-- The base of the host staging region in module memory, pinned in the slate window by the firmware (R373). -/
def State.bar2Base (s : State) : Nat := inSlate (s.modCfg 0x903 16 * gib) (Config.objectBase 4 0 0)

/-- R438: the accepted write goes to the slot's flash, which a write at offset 0 first erases. -/
def State.imageWrite (s : State) (w : WriteArg) (bs : List Byte) : State :=
  let x := s.otherSlot
  let s := if w.off = 0 then
      (s.putCb x (fun c => { c with state := 1, reason := 0, tries := 0, len := 0 })).updFlash x (fun d => d.erase 0x10000 0x05FF0000)
    else s
  let s := s.updFlash x (fun d => d.write (0x10000 + w.off) (bs.take w.len))
  let s := s.putCb x (fun c => { c with len := w.off + w.len })
  (s.setReg (imgReg 0x50) (BitVec.ofNat 64 (w.off + w.len))).mboxDone 0 []

/-- R373, R438: the read of a source in the host staging region, class 4 traffic of the service complex. -/
def State.bar2Source (s : State) (w : WriteArg) : MemRead := s.memRead { cls := 4, unit := 12 } (s.bar2Base + w.src) w.len

/-- IMAGE_WRITE (R438): the source is read and written into the slot that is not booted; `res` is what the read of host
memory returned. A failed read ends the command with status 2 (R402), and so does a source past BAR2 (log entry 166). -/
def execImageWrite (res : ReadResult) (s : State) : Res :=
  .next (s.mboxRun 0x02 (fun a s =>
    match writeArg a with
    | none => s.mboxDone 2 []
    | some w =>
      let x := s.otherSlot
      let booted := (s.image.map (fun b => (s.cb b.slot).state)).getD 0
      if booted = 3 then s.mboxDone 3 []
      else if (w.off ≠ 0 && w.off ≠ (s.cb x).len) || w.off + w.len > 0x05FF0000 then s.mboxDone 2 []
      else if w.bar2 then
        if s.link.barGib * gib < w.src + w.len then s.mboxDone 2 []
        else State.unlessStalled s 12 0 (fun s =>
          let m := s.bar2Source w
          match m.bytes with
          | some bs => m.st.imageWrite w bs
          | none => m.st.mboxDone 2 [])
      else
        match res with
        | .ok bs => s.imageWrite w bs
        | .failed => s.mboxDone 2 []))

/-- The action of IMAGE_ACTIVATE; none for an argument that is not one of R439. -/
def activateAction (a : List Byte) : Option Nat :=
  let v := fieldAt a 0 1
  if a.length = 8 && 1 ≤ v && v ≤ 3 then some v else none

/-- R439: runs one action of IMAGE_ACTIVATE; a bad argument gives status 2. -/
def State.imageAction (s : State) (act : Nat) (f : State → State) : State :=
  s.mboxRun 0x03 (fun a s =>
    match activateAction a with
    | none => s.mboxDone 2 []
    | some v => if v = act then f s else s)

/-- ACTIVATE (R439): verifies the written slot and makes it TRIAL, or BAD. -/
def execActivate (s : State) : Res :=
  .next (s.imageAction 1 (fun s =>
    let x := s.otherSlot
    let gen := (s.image.map (fun b => (s.cb b.slot).gen)).getD 0
    match s.verify x with
    | none => (s.putCb x (fun c => { c with state := 3, tries := 0, reason := 0, gen := gen + 1 })).mboxDone 0 []
    | some e => ((s.reject e x).putCb x (fun c => { c with state := 5, reason := e.code })).mboxDone 3 (leBytes 8 (e.word x))))

/-- R422, R466: enrols the owner of a confirmed ENROL image, when the bits already blown agree with its key hash. -/
def State.enrol (s : State) (h : List Byte) : State :=
  let hash := sha512 ((h.drop 0x30).take 32)
  if bits (fieldAt h 0x20 4) 1 1 = 0 || s.fuses.enrolled then s
  else if (s.fuses.ownerHash.zip hash).all (fun x => decide (x.1 &&& x.2 = x.1)) then
    ({ s with fuses := { s.fuses with ownerHash := hash, enrolled := true } }).setBit (imgReg 0) 3
  else s.raiseError { code := 0x0704 }

/-- R422, R423, R439: the booted slot in TRIAL becomes GOOD; its owner is enrolled and its SVN blown. -/
def State.confirmSlot (s : State) : Option State :=
  match s.image with
  | none => none
  | some b =>
    if (s.cb b.slot).state ≠ 3 then none
    else
      let s := (s.putCb b.slot (fun c => { c with state := 4, reason := 0 })).clearBit (imgReg 0) 1
      let s := s.enrol b.header
      let svn := max s.fuses.svn (fieldAt b.header 0x102 1)
      some (({ s with fuses := { s.fuses with svn := svn } }).setReg (imgReg 0x40) (BitVec.ofNat 64 (svn % 64)))

/-- CONFIRM (R439). -/
def execConfirm (s : State) : Res :=
  .next (s.imageAction 2 (fun s => match s.confirmSlot with | some t => t.mboxDone 0 [] | none => s.mboxDone 3 []))

/-- ABANDON (R439): the slot that is not booted becomes EMPTY. -/
def execAbandon (s : State) : Res :=
  .next (s.imageAction 3 (fun s => (s.putCb s.otherSlot (fun c => { c with state := 0, reason := 0 })).mboxDone 0 []))

/-- Table 14-13: the report before its signature. -/
@[irreducible] def State.report (s : State) (nonce : List Byte) : List Byte :=
  let h := (s.image.map (·.header)).getD []
  let ss := (s.image.map (·.sections)).getD []
  let b := fun (x : Bool) (n : Nat) => if x then 2 ^ n else 0
  let trial := (s.image.map (fun i => decide ((s.cb i.slot).state = 3))).getD false
  let owner := if s.fuses.enrolled then s.fuses.ownerHash else List.replicate 64 0
  let flags := b s.fuses.enrolled 0 + b s.fuses.debugLock 1 + b s.recovery 2 + b trial 3
  let len := 280 + 72 * ss.length + 160 + 64
  leBytes 4 1 ++ leBytes 4 len ++ nonce ++ leBytes 8 s.fuses.serial ++ leBytes 1 s.fuses.stepping ++
  padTo 3 ((h.drop 0x100).take 3) ++ (if h.isEmpty then List.replicate 3 0 else []) ++ leBytes 1 s.fuses.svn ++ leBytes 1 flags ++
  leBytes 1 ((s.image.map (·.slot)).getD 0) ++ leBytes 1 0 ++ leBytes 8 (fieldAt h 0x18 8) ++ leBytes 8 (s.regN (imgReg 0x48)) ++
  leBytes 8 s.now ++ owner ++ sha512 (h.take 0x2000) ++ sha512 (configBytes s.cfg) ++ leBytes 4 ss.length ++ leBytes 4 0 ++
  ((indexed ss).flatMap (fun x => leBytes 1 x.1.kind ++ leBytes 1 x.1.slot ++ List.replicate 6 0 ++ sectionDigest h x.2)) ++
  s.fuses.certificate

/-- ATTEST (R441): a signed report over the host's nonce; any other length gives status 2. -/
def execAttest (s : State) : Res :=
  .next (s.mboxRun 0x01 (fun a s =>
    if a.length ≠ 32 then s.mboxDone 2 []
    else
      let r := s.report a
      s.mboxDone 0 (r ++ edSign s.fuses.deviceSeed r)))

end Sys2Proof.Machine
end

