-- ==== Sys2Proof/Machine/VectorEngine.lean ====
section
/-! DEFINITION. The vector engine's operations (Vector engine): every operation is one call of a shared start with its
data path, its cost and the ranges it writes. -/

namespace Sys2Proof.Machine

open Sys2Proof

/-- XSRC (Table 4-1): the array whose next tile X is, if it is one. -/
def veProducer (e : Entry) : Option Nat :=
  match bits e.imm 3 2 with
  | 1 => some 0
  | 2 => some 1
  | _ => none

/-- The oldest tile of a producer in the TQ (R70, R115). -/
def State.tqHead (s : State) (c a : Nat) : Option TileEntry := (s.core c).tq.find? (fun t => decide (t.producer = a))

/-- R115: an entry that finds no tile waits, and VE_TQ_EMPTY_WAIT counts the wait. -/
def veHold (c : Nat) (q : QEntry) (s : State) : Option State :=
  if q.entry.dv then
    match veProducer q.entry with
    | some a => if (s.tqHead c a).isNone then some (s.inc (coreReg c 0x68) 1) else none
    | none => none
  else none

/-- The operand fields of a tensor-form entry in the state it runs in. -/
def State.veOperands (s : State) (c slot : Nat) (stream : Bool) (q : QEntry) : VeIn :=
  let tile := match veProducer q.entry with
    | some a => (s.tqHead c a).map (·.data)
    | none => none
  veIn stream (s.seed slot) (s.e5m2Inf slot) tile (s.core c).vregs q

/-- R115: the tile that an entry took leaves the TQ. -/
def State.takeTile (s : State) (c : Nat) (e : Entry) : State :=
  match veProducer e with
  | some a =>
    match s.tqHead c a with
    | some t => s.updCore c (fun k => { k with tq := k.tq.erase t })
    | none => s
  | none => s

/-- Whether a register that an entry reads has failed parity (Table 16-1). -/
def State.regBad (s : State) (c k : Nat) : Bool := (s.core c).vregParity.any (fun e => decide (e / 64 = k))

/-- R127, Table 4-10: the counters and status bits of an entry's events. -/
def State.veFlags (s : State) (c : Nat) (f : Flags) (rowEmpty : Nat) : State :=
  let s := ((((s.inc (coreReg c 0x310) f.invalid).inc (coreReg c 0x318) f.divzero).inc (coreReg c 0x320) f.overflow).inc
    (coreReg c 0x328) f.underflow)
  let s := ((s.inc (coreReg c 0x330) f.intSat).inc (coreReg c 0x338) f.cvtSat).inc (coreReg c 0x340) rowEmpty
  let o := coreReg c 0x358
  s.setReg o (s.reg o ||| BitVec.ofNat 64 (f.statusBits + (if rowEmpty = 0 then 0 else 128)))

/-- R184, R186: the counts of a tensor-form entry that converts to a narrower format. -/
def State.veCounts (s : State) (slot : Nat) (q : QEntry) (v : VeIn) (o : VeOut) : State :=
  if v.yf = .fp32 || (v.yf.isInt && q.entry.op ≠ 0x10) || v.yf = .mask1 then s
  else s.countConversions slot (decide (q.entry.phase = 9) && !q.entry.next) [v.yf.code * 8 + v.kind, tensorKey v.tid] o.converted o.above o.vanish

/-- R173: a saturated BI32 sum is a guard overflow of the slot, with a record for each of its blocks. -/
def State.veGuard (s : State) (c slot : Nat) (q : QEntry) (v : VeIn) (o : VeOut) : State :=
  if q.entry.op = 0x22 && v.kind = 2 && o.flags.intSat ≠ 0 then
    let s := s.updJob slot (fun j => { j with num := { j.num with guardOvf := j.num.guardOvf + o.flags.intSat } })
    (distinctUp o.satBlocks).foldl (fun s b =>
      s.raiseError { code := 0x0604, unit := 3, index := c, slot := slot, step := q.step, phase := q.entry.phase, q := some q,
                     d5 := v.tid, d6 := b }) s
  else s

/-- R126: the entry stops, and the fault is recorded with its detail. -/
def State.veStreamFault (s : State) (c slot : Nat) (q : QEntry) (d : Nat × Nat × Nat) : State :=
  let s := (s.setBit (coreReg c 0x358) 8).inc (coreReg c 0x348) 1
  s.entryError 0x0202 c slot q true d.1 d.2.1 d.2.2

/-- A tensor-form operation: whether its addresses are a stream's, whether it reads Z and has every element active, its data path, the
rows it writes, its cost (Table 4-11), the further ranges of Z it reads, and the detail of its stream fault at a block. -/
structure VeOp where
  stream : Bool := false
  useZ : Bool := true
  every : Bool := false
  run : VeIn → EccMem → VeOut
  writes : VeIn → List (Nat × Nat)
  cost : VeIn → VeCost
  rows : VeIn → Nat := fun _ => 0
  reads : VeIn → List (Nat × Nat) := fun _ => []
  detail : VeIn → EccMem → Nat × Nat × Nat → Nat × Nat × Nat := fun _ _ _ => (0, 0, 0)

/-- R44: the core-store ranges of a tensor-form entry. -/
def VeOp.ranges (o : VeOp) (c : Nat) (v : VeIn) : List CsRange :=
  csRanges c false (v.xRows ++ (if o.useZ then v.zRows else []) ++ v.maskRows ++ o.reads v) ++ csRanges c true (o.writes v)

/-- R114, R116, R126, R127: the work of a tensor-form entry. Its reads are checked before the first vector, so that an uncorrectable
line leaves nothing of it written (DESIGN CHOICE, log entry 150: R114 does not say what the vectors before the line do). -/
def veWork (o : VeOp) (c slot : Nat) (q : QEntry) (s : State) : Work :=
  let v := s.veOperands c slot o.stream q
  let cs := (s.core c).cs
  let tileBad := match veProducer q.entry with
    | some a => match s.tqHead c a with | some t => t.bad | none => false
    | none => false
  if v.readBad cs o.useZ o.every || (o.reads v).any (fun r => cs.badLines r.1 r.2) then
    { st := s.entryError 0x0103 c slot q false
        (cs.badAt (v.xRows ++ (if o.useZ then v.zRows else []) ++ v.maskRows ++ o.reads v) v.xAddr) 0 0, dead := true }
  else if tileBad || (o.useZ && v.zsrc = 2 && s.regBad c v.zreg) then
    { st := (s.takeTile c q.entry).entryError 0x0104 c slot q false v.zreg 0 0, dead := true }
  else
    let r := o.run v cs
    let s := (s.takeTile c q.entry).updCore c (fun k => { k with cs := r.cs })
    let s := ((s.veFlags c r.flags r.rowEmpty).veCounts slot q v r).veGuard c slot q v r
    if r.fault then { st := s.veStreamFault c slot q (o.detail v cs r.stop), dead := true }
    else
      let s := if r.bad then s.entryError 0x0103 c slot q false (cs.badAt (o.writes v) v.yAddr) 0 0 else s
      { st := s, beats := veBeats (o.cost v) v.act v.vectors (o.rows v) r.escVectors, dead := r.bad }

/-- Starts the head entry of the VE queue if its OP and form are the operation's. -/
def State.veStart (s : State) (c slot op : Nat) (dv : Bool) (ranges : QEntry → List CsRange) (work : QEntry → State → Work) : State :=
  s.startEntry c 3 slot (fun e => decide (e.op = op) && (e.dv == dv)) freeWhenIdle (veHold c) ranges work

/-- A tensor-form operation of OP `op`. -/
def State.veTensor (s : State) (c slot op : Nat) (o : VeOp) : State :=
  s.veStart c slot op true (fun q => o.ranges c (s.veOperands c slot o.stream q)) (veWork o c slot)

/-- R105: the work of a register-form entry; `useZ` says that it reads Z. -/
def regWork (useZ : Bool) (f : RegIn → SMap W32 → SMap W32 × Flags) (cost : Nat) (c slot : Nat) (q : QEntry) (s : State) : Work :=
  let x := regIn q
  if s.regBad c x.xr || (useZ && !x.zs && s.regBad c x.zr) then
    { st := s.entryError 0x0104 c slot q false (if s.regBad c x.xr then x.xr else x.zr) 0 0, dead := true }
  else
    let r := f x (s.core c).vregs
    let s := s.updCore c (fun k => { k with vregs := r.1, vregParity := k.vregParity.filter (fun e => e / 64 != x.yr) })
    { st := s.veFlags c r.2 0, beats := veBeats { perVector := cost } x.act 1 0 0 }

/-- A register-form operation of OP `op`. -/
def State.veReg (s : State) (c slot op : Nat) (useZ : Bool) (f : RegIn → SMap W32 → SMap W32 × Flags) (cost : Nat) : State :=
  s.veStart c slot op false (fun _ => []) (regWork useZ f cost c slot)

/-- An element-wise operation. -/
def laneVe (op : LaneOp) (useZ every : Bool) (cost : Nat) : VeOp :=
  { useZ := useZ, every := every, run := veElementwise op every, writes := VeIn.yRows, cost := fun _ => { perVector := cost } }

/-- An operation with both forms (R105): the form is the entry's. -/
def State.veBoth (s : State) (c slot op : Nat) (l : LaneOp) (useZ : Bool) (cost : Nat) : State :=
  match s.head c 3 slot with
  | some q => if q.entry.dv then s.veTensor c slot op (laneVe l useZ false cost) else s.veReg c slot op useZ (veRegister l) cost
  | none => s

/-- A floating operation of X and Z. -/
def lane2 (f : W32 → W32 → W32 × Flags) : LaneOp := .float (fun _ x z => f x z)

/-- A floating operation of X alone. -/
def lane1 (f : W32 → W32 × Flags) : LaneOp := .float (fun _ x _ => f x)

/-- ADD (R116). -/
def execVeAdd (c : CoreId) (sl : SlotId) (s : State) : Res := .next (s.veBoth c.val sl.val 0x01 (lane2 fadd) true 1)
/-- SUB. -/
def execVeSub (c : CoreId) (sl : SlotId) (s : State) : Res := .next (s.veBoth c.val sl.val 0x02 (lane2 fsub) true 1)
/-- MUL. -/
def execVeMul (c : CoreId) (sl : SlotId) (s : State) : Res := .next (s.veBoth c.val sl.val 0x03 (lane2 fmul) true 1)
/-- AXPY: fma32(S, X, Z). -/
def execAxpy (c : CoreId) (sl : SlotId) (s : State) : Res := .next (s.veBoth c.val sl.val 0x04 (.float fma32) true 1)
/-- DIV. -/
def execVeDiv (c : CoreId) (sl : SlotId) (s : State) : Res := .next (s.veBoth c.val sl.val 0x05 (lane2 fdiv) true 4)
/-- MIN. -/
def execVeMin (c : CoreId) (sl : SlotId) (s : State) : Res := .next (s.veBoth c.val sl.val 0x06 (lane2 fmin) true 1)
/-- MAX. -/
def execVeMax (c : CoreId) (sl : SlotId) (s : State) : Res := .next (s.veBoth c.val sl.val 0x07 (lane2 fmax) true 1)

/-- ABS of a code of `w` bits: its sign bit cleared (R117). -/
def absCode (w x : Nat) : Nat := x % 2 ^ (w - 1)
/-- NEG of a code of `w` bits: its sign bit inverted (R117). -/
def negCode (w x : Nat) : Nat := x ^^^ 2 ^ (w - 1)

/-- ABS. -/
def execVeAbs (c : CoreId) (sl : SlotId) (s : State) : Res :=
  .next (s.veBoth c.val sl.val 0x08 (.sign (fun x => (fabs x).1) (fun w x => absCode w x)) false 1)
/-- NEG. -/
def execVeNeg (c : CoreId) (sl : SlotId) (s : State) : Res :=
  .next (s.veBoth c.val sl.val 0x09 (.sign (fun x => (fneg x).1) (fun w x => negCode w x)) false 1)
/-- SQRT. -/
def execSqrt (c : CoreId) (sl : SlotId) (s : State) : Res := .next (s.veBoth c.val sl.val 0x0A (lane1 fsqrt) false 4)
/-- RSQRT. -/
def execRsqrt (c : CoreId) (sl : SlotId) (s : State) : Res := .next (s.veBoth c.val sl.val 0x0B (lane1 frsqrt) false 4)
/-- EXP. -/
def execVeExp (c : CoreId) (sl : SlotId) (s : State) : Res := .next (s.veBoth c.val sl.val 0x0C (lane1 fexp) false 2)
/-- LOG. -/
def execVeLog (c : CoreId) (sl : SlotId) (s : State) : Res := .next (s.veBoth c.val sl.val 0x0D (lane1 flog) false 2)
/-- SIGMOID. -/
def execSigmoid (c : CoreId) (sl : SlotId) (s : State) : Res := .next (s.veBoth c.val sl.val 0x0E (lane1 fsigmoid) false 2)
/-- TANH. -/
def execTanh (c : CoreId) (sl : SlotId) (s : State) : Res := .next (s.veBoth c.val sl.val 0x0F (lane1 ftanh) false 2)
/-- CVT. -/
def execCvt (c : CoreId) (sl : SlotId) (s : State) : Res :=
  .next (s.veTensor c.val sl.val 0x10 (laneVe .cvt false false 1))

/-- X < Z, quiet. -/
def cmpLtFV (a b : FV) : Bool := !a.isNan && !b.isNan && (cmpFV a b == .lt)
/-- X ≤ Z, quiet. -/
def cmpLeFV (a b : FV) : Bool := !a.isNan && !b.isNan && !(cmpFV a b == .gt)
/-- X = Z, quiet. -/
def cmpEqFV (a b : FV) : Bool := !a.isNan && !b.isNan && (cmpFV a b == .eq)
/-- Unordered. -/
def cmpUnFV (a b : FV) : Bool := a.isNan || b.isNan

/-- CMP_LT (R117). -/
def execCmpLt (c : CoreId) (sl : SlotId) (s : State) : Res :=
  .next (s.veTensor c.val sl.val 0x18 (laneVe (.cmp cmpLtFV) true false 1))
/-- CMP_LE. -/
def execCmpLe (c : CoreId) (sl : SlotId) (s : State) : Res :=
  .next (s.veTensor c.val sl.val 0x19 (laneVe (.cmp cmpLeFV) true false 1))
/-- CMP_EQ. -/
def execCmpEq (c : CoreId) (sl : SlotId) (s : State) : Res :=
  .next (s.veTensor c.val sl.val 0x1A (laneVe (.cmp cmpEqFV) true false 1))
/-- CMP_UN. -/
def execCmpUn (c : CoreId) (sl : SlotId) (s : State) : Res :=
  .next (s.veTensor c.val sl.val 0x1B (laneVe (.cmp cmpUnFV) true false 1))
/-- SELECT: the mask chooses X or Z. -/
def execVeSelect (c : CoreId) (sl : SlotId) (s : State) : Res :=
  .next (s.veTensor c.val sl.val 0x1C (laneVe .select true true 1))

/-! Integer operations (Table 4-5) on Y's width and 32-bit patterns, with their saturations. -/

/-- IADD. -/
def iaddOp (_w x z : Nat) : Nat × Nat := (x + z, 0)
/-- ISUB. -/
def isubOp (_w x z : Nat) : Nat × Nat := (x + 2 ^ 32 - z, 0)
/-- A signed result clamped to `w` bits. -/
def satS (w : Nat) (r : Int) : Nat × Nat :=
  let q := clampInt (-(2 ^ (w - 1) : Int)) ((2 ^ (w - 1) : Int) - 1) r
  (ofInt w q, if q = r then 0 else 1)
/-- IADD_SAT. -/
def iaddSatOp (w x z : Nat) : Nat × Nat := satS w (sint 32 x + sint 32 z)
/-- ISUB_SAT. -/
def isubSatOp (w x z : Nat) : Nat × Nat := satS w (sint 32 x - sint 32 z)
/-- UADD_SAT. -/
def uaddSatOp (w x z : Nat) : Nat × Nat := if x + z < 2 ^ w then (x + z, 0) else (2 ^ w - 1, 1)
/-- SHL by the low 8 bits of Z (R118). -/
def shlOp (_w x z : Nat) : Nat × Nat := (if z % 256 ≥ 32 then 0 else x * 2 ^ (z % 256) % 2 ^ 32, 0)
/-- SHR. -/
def shrOp (_w x z : Nat) : Nat × Nat := (if z % 256 ≥ 32 then 0 else x / 2 ^ (z % 256), 0)
/-- SAR. -/
def sarOp (_w x z : Nat) : Nat × Nat := (ofInt 32 (sint 32 x / (2 ^ (min 31 (z % 256)) : Int)), 0)
/-- IMIN. -/
def iminOp (_w x z : Nat) : Nat × Nat := (if sint 32 x ≤ sint 32 z then x else z, 0)
/-- IMAX. -/
def imaxOp (_w x z : Nat) : Nat × Nat := (if sint 32 x ≥ sint 32 z then x else z, 0)

/-- An integer operation of both forms. -/
def State.veInt (s : State) (c slot op : Nat) (f : Nat → Nat → Nat → Nat × Nat) (useZ : Bool) : State :=
  s.veBoth c slot op (.int f) useZ 1

/-- IADD (R118). -/
def execIadd (c : CoreId) (sl : SlotId) (s : State) : Res := .next (s.veInt c.val sl.val 0x20 iaddOp true)
/-- ISUB. -/
def execIsub (c : CoreId) (sl : SlotId) (s : State) : Res := .next (s.veInt c.val sl.val 0x21 isubOp true)
/-- IADD_SAT. -/
def execIaddSat (c : CoreId) (sl : SlotId) (s : State) : Res := .next (s.veInt c.val sl.val 0x22 iaddSatOp true)
/-- ISUB_SAT. -/
def execIsubSat (c : CoreId) (sl : SlotId) (s : State) : Res := .next (s.veInt c.val sl.val 0x23 isubSatOp true)
/-- UADD_SAT. -/
def execUaddSat (c : CoreId) (sl : SlotId) (s : State) : Res := .next (s.veInt c.val sl.val 0x24 uaddSatOp true)
/-- AND. -/
def execVeAnd (c : CoreId) (sl : SlotId) (s : State) : Res := .next (s.veInt c.val sl.val 0x25 (fun _ x z => (x &&& z, 0)) true)
/-- OR. -/
def execVeOr (c : CoreId) (sl : SlotId) (s : State) : Res := .next (s.veInt c.val sl.val 0x26 (fun _ x z => (x ||| z, 0)) true)
/-- XOR. -/
def execVeXor (c : CoreId) (sl : SlotId) (s : State) : Res := .next (s.veInt c.val sl.val 0x27 (fun _ x z => (x ^^^ z, 0)) true)
/-- NOT. -/
def execVeNot (c : CoreId) (sl : SlotId) (s : State) : Res :=
  .next (s.veInt c.val sl.val 0x28 (fun _ x _ => (2 ^ 32 - 1 - x % 2 ^ 32, 0)) false)
/-- SHL. -/
def execShl (c : CoreId) (sl : SlotId) (s : State) : Res := .next (s.veInt c.val sl.val 0x29 shlOp true)
/-- SHR. -/
def execShr (c : CoreId) (sl : SlotId) (s : State) : Res := .next (s.veInt c.val sl.val 0x2A shrOp true)
/-- SAR. -/
def execSar (c : CoreId) (sl : SlotId) (s : State) : Res := .next (s.veInt c.val sl.val 0x2B sarOp true)
/-- IMIN. -/
def execImin (c : CoreId) (sl : SlotId) (s : State) : Res := .next (s.veInt c.val sl.val 0x2C iminOp true)
/-- IMAX. -/
def execImax (c : CoreId) (sl : SlotId) (s : State) : Res := .next (s.veInt c.val sl.val 0x2D imaxOp true)
/-- UMIN. -/
def execUmin (c : CoreId) (sl : SlotId) (s : State) : Res := .next (s.veInt c.val sl.val 0x2E (fun _ x z => (min x z, 0)) true)
/-- UMAX. -/
def execUmax (c : CoreId) (sl : SlotId) (s : State) : Res := .next (s.veInt c.val sl.val 0x2F (fun _ x z => (max x z, 0)) true)

/-- ADD64 in tensor form. -/
def add64Ve : VeOp := { run := veAdd64, writes := VeIn.yRows, cost := fun _ => {} }

/-- ADD64 (Table 4-5), in either form. -/
def execAdd64 (c : CoreId) (sl : SlotId) (s : State) : Res :=
  .next (match s.head c.val 3 sl.val with
  | some q => if q.entry.dv then s.veTensor c.val sl.val 0x30 add64Ve
              else s.veReg c.val sl.val 0x30 true (fun x regs => (veRegAdd64 x regs, Flags.zero)) 1
  | none => s)

/-! Reductions. -/

/-- A row reduction writes one element per row. -/
def rowWrites (v : VeIn) : List (Nat × Nat) := (List.range v.n1).map (fun r => (v.yAddr + r * v.yPitch, v.yf.size2 / 2))

/-- A column reduction writes one row. -/
def colWrites (v : VeIn) : List (Nat × Nat) := [(v.yAddr, rowBytes v.yf v.n0)]

/-- R183: the largest magnitude code of a measured tensor. -/
def State.measure (s : State) (c slot : Nat) (q : QEntry) : State :=
  let v := s.veOperands c slot false q
  let cs := (s.core c).cs
  let xs := (List.range v.n1).flatMap (fun r => (List.range v.n0).filterMap (fun col =>
    if v.active cs r col then some (dec32 (widen32 v.xf (v.x cs r col))) else none))
  s.updJob slot (fun j => { j with num := { j.num with refCodes := SMap.upd j.num.refCodes v.tid 0 (fun m => max m (maxCode xs)) } })

/-- A row reduction, in either form. `measured` marks the magnitude measures of R183. -/
def State.veRowOp (s : State) (c slot op : Nat) (f : W32 → W32 → W32 × Flags) (absolute measured : Bool) (ident : W32) : State :=
  let o : VeOp := { useZ := false, run := veRowReduce f absolute ident, writes := rowWrites,
                    cost := fun _ => { perRow := 6 }, rows := fun v => v.n1 }
  match s.head c 3 slot with
  | some q =>
    if q.entry.dv then
      s.veStart c slot op true (fun q => o.ranges c (s.veOperands c slot false q)) (fun q s =>
        let m := if measured then s.measure c slot q else s
        veWork o c slot q { s with jobs := m.jobs })
    else s.veReg c slot op false (veRegReduce f absolute) 1
  | none => s

/-- A column reduction. -/
def State.veColOp (s : State) (c slot op : Nat) (f : W32 → W32 → W32 × Flags) (absolute measured : Bool) (ident : W32) : State :=
  let o : VeOp := { useZ := false, run := veColReduce f absolute ident, writes := colWrites,
                    cost := fun v => { last := cdiv v.n0 64 } }
  s.veStart c slot op true (fun q => o.ranges c (s.veOperands c slot false q)) (fun q s =>
    let m := if measured then s.measure c slot q else s
    veWork o c slot q { s with jobs := m.jobs })

/-- RSUM_ROW (R119). -/
def execRsumRow (c : CoreId) (sl : SlotId) (s : State) : Res := .next (s.veRowOp c.val sl.val 0x40 fadd false false 0)
/-- RMAX_ROW. -/
def execRmaxRow (c : CoreId) (sl : SlotId) (s : State) : Res := .next (s.veRowOp c.val sl.val 0x41 fmax false false (inf32 true))
/-- RMIN_ROW. -/
def execRminRow (c : CoreId) (sl : SlotId) (s : State) : Res := .next (s.veRowOp c.val sl.val 0x42 fmin false false (inf32 false))
/-- RMAXABS_ROW. -/
def execRmaxabsRow (c : CoreId) (sl : SlotId) (s : State) : Res := .next (s.veRowOp c.val sl.val 0x43 fmax true true 0)
/-- RSUM_COL (R120). -/
def execRsumCol (c : CoreId) (sl : SlotId) (s : State) : Res := .next (s.veColOp c.val sl.val 0x48 fadd false false 0)
/-- RMAX_COL. -/
def execRmaxCol (c : CoreId) (sl : SlotId) (s : State) : Res := .next (s.veColOp c.val sl.val 0x49 fmax false false (inf32 true))
/-- RMAXABS_COL. -/
def execRmaxabsCol (c : CoreId) (sl : SlotId) (s : State) : Res := .next (s.veColOp c.val sl.val 0x4A fmax true true 0)

/-- R158: the bytes of the 64 bins. -/
def histWrites (v : VeIn) : List (Nat × Nat) := [(v.yAddr, 256)]

/-- R158: the word that holds the base exponent with ZSRC 3. -/
def histReads (v : VeIn) : List (Nat × Nat) := if v.zsrc = 3 then [(v.zAddr, 4)] else []

/-- R158: HIST_LOG2: one beat per vector, and 16 for the bins. -/
def histVe : VeOp := { useZ := false, run := veHist, writes := histWrites, cost := fun _ => { last := 16 }, reads := histReads }

/-- R158, R183: HIST_LOG2 and the growth of its bins, which the step's statistics take. -/
def histWork (c slot : Nat) (q : QEntry) (s : State) : Work :=
  let v := s.veOperands c slot false q
  let before := (List.range 64).map (fun i => (s.core c).cs.num (v.yAddr + 4 * i) 4)
  let w := veWork histVe c slot q s
  let after := (List.range 64).map (fun i => (w.st.core c).cs.num (v.yAddr + 4 * i) 4)
  let d := (after.zip before).map (fun x => x.1 - x.2)
  { w with st := w.st.updJob slot (fun j => { j with num := { j.num with
      bins := SMap.upd j.num.bins v.tid (List.replicate 64 0) (fun b => (b.zip d).map (fun x => x.1 + x.2)) } }) }

/-- HIST_LOG2 (R158). -/
def execHistLog2 (c : CoreId) (sl : SlotId) (s : State) : Res :=
  .next (s.veStart c.val sl.val 0x44 true (fun q => histVe.ranges c.val (s.veOperands c.val sl.val false q)) (histWork c.val sl.val))

/-- SOFTMAX (R121 to R123). -/
def softmaxVe : VeOp :=
  { useZ := false, run := veSoftmax, cost := fun _ => { perVector := 3, perRow := 12 }, rows := fun v => v.n1,
    writes := fun v => v.yRows ++ (if v.reMap then [(v.zAddr, 8 * cdiv v.n1 64)] else []) }

/-- SOFTMAX. -/
def execSoftmax (c : CoreId) (sl : SlotId) (s : State) : Res := .next (s.veTensor c.val sl.val 0x50 softmaxVe)

/-- R137: the side-list bytes of a block stream of this iteration. -/
def sideRows (v : VeIn) : List (Nat × Nat) := [(v.sideAddr + 32 * (v.flat * v.n1 * v.n0 / 1024), 32 * cdiv (v.n1 * v.n0) 1024)]

/-- The scale or exponent words of a block stream of this iteration. -/
def scaleRows (v : VeIn) : List (Nat × Nat) := [(v.zAddr, 4 * (v.n1 * v.n0 / 32))]

/-- CVT_TO_SB (R150). -/
def toSbVe : VeOp :=
  { stream := true, useZ := false, run := veToSB, cost := fun _ => { perVector := 2 },
    writes := fun v => v.yRows ++ scaleRows v ++ sideRows v }

/-- CVT_TO_SB. -/
def execCvtToSb (c : CoreId) (sl : SlotId) (s : State) : Res := .next (s.veTensor c.val sl.val 0x60 toSbVe)

/-- Table 16-3: words 5 to 7 of a stream fault of the VE: SER stands in bits [hi:lo] of the word. -/
def veStreamWords (expect hi lo addr word : Nat) : Nat × Nat × Nat :=
  let found := bits word hi lo
  (expect % 64 + found * 256 + (if found = expect % 64 then 2 ^ 14 else 0), addr, word)

/-- The detail of the scale or exponent word of the block at which an entry stopped (R126, R138, R143), SER in bits [hi:lo]. -/
def stopDetail (hi lo : Nat) (v : VeIn) (cs : EccMem) (b : Nat × Nat × Nat) : Nat × Nat × Nat :=
  let x := v.zOrigin + 4 * v.pos b.2.2
  veStreamWords (v.s % 64 + v.pos b.2.2) hi lo x (cs.num x 4)

/-- CVT_FROM_SB (R126). -/
def fromSbVe : VeOp :=
  { stream := true, useZ := false, run := veFromSB, cost := fun _ => {}, writes := VeIn.yRows,
    reads := fun v => scaleRows v ++ sideRows v, detail := stopDetail 13 8 }

/-- CVT_FROM_SB. -/
def execCvtFromSb (c : CoreId) (sl : SlotId) (s : State) : Res := .next (s.veTensor c.val sl.val 0x61 fromSbVe)

/-- CVT_BI32 (R152). -/
def bi32Ve : VeOp :=
  { stream := true, useZ := false, run := veBI32, cost := fun _ => { perVector := 2 }, writes := VeIn.yRows,
    reads := scaleRows, detail := stopDetail 21 16 }

/-- CVT_BI32. -/
def execCvtBi32 (c : CoreId) (sl : SlotId) (s : State) : Res := .next (s.veTensor c.val sl.val 0x62 bi32Ve)

/-! Moves between registers and the core store (R105). -/

/-- The CS address of a VLOAD or VSTORE: OPER[36:16]. -/
def vAddr (q : QEntry) : Nat := bits q.entry.oper 36 16

/-- The work of VLOAD: the 256 bytes at the address into YR, ACT applied to each lane (R105; log entry 148). -/
def vloadWork (c slot : Nat) (q : QEntry) (s : State) : Work :=
  let cs := (s.core c).cs
  if cs.bad (vAddr q) 256 then { st := s.entryError 0x0103 c slot q false (cs.badAt [(vAddr q, 256)] (vAddr q)) 0 0, dead := true }
  else
    let act := (regIn q).act
    let ls := (List.range 64).map (fun i => actRun act (BitVec.ofNat 32 (cs.num (vAddr q + 4 * i) 4)))
    let y := (regIn q).yr
    let s := s.updCore c (fun k =>
      { k with vregs := setReg k.vregs y (ls.map (·.1)), vregParity := k.vregParity.filter (fun e => e / 64 != y) })
    { st := s.veFlags c (Flags.sum (ls.map (fun l => l.2.lane))) 0, beats := veBeats { perVector := 4 } act 1 0 0 }

/-- VLOAD. -/
def execVload (c : CoreId) (sl : SlotId) (s : State) : Res :=
  .next (s.veStart c.val sl.val 0x70 false (fun q => csRanges c.val false [(vAddr q, 256)]) (vloadWork c.val sl.val))

/-- The work of VSTORE: XR to the 256 bytes at the address, ACT applied to each lane (R105; log entry 148). -/
def vstoreWork (c slot : Nat) (q : QEntry) (s : State) : Work :=
  let x := (regIn q).xr
  if s.regBad c x then { st := s.entryError 0x0104 c slot q false x 0 0, dead := true }
  else
    let act := (regIn q).act
    let ls := (regLanes (s.core c).vregs x).map (actRun act)
    let r := (s.core c).cs.write (vAddr q) (ls.flatMap (fun l => leBytes 4 l.1.toNat))
    { st := (s.updCore c (fun k => { k with cs := r.1 })).veFlags c (Flags.sum (ls.map (fun l => l.2.lane))) 0,
      beats := veBeats { perVector := 4 } act 1 0 0 }

/-- VSTORE. -/
def execVstore (c : CoreId) (sl : SlotId) (s : State) : Res :=
  .next (s.veStart c.val sl.val 0x71 false (fun q => csRanges c.val true [(vAddr q, 256)]) (vstoreWork c.val sl.val))

end Sys2Proof.Machine
end

