-- ==== Sys2Proof/Machine/StepCheck.lean ====
section
/-! DEFINITION. The step code of a job slot: STEP_CODE and RELOC sections (R418, R419), and the checks that an admission makes
on them (R430, Table 14-10 codes 0x0401 to 0x040B). A failing check answers its code, 0 where every check passes. -/

namespace Sys2Proof.Machine

open Sys2Proof

/-- A STEP_CODE section (R418): its entries as 128-bit numbers and its descriptors as lists of eight words. -/
structure StepSec where
  sec : Nat := 0
  entryFirst : Nat := 0
  entryLines : Nat := 0
  descFirst : Nat := 0
  descLines : Nat := 0
  tokens : List Nat := []
  cores : List Nat := []
  entries : List Nat := []
  descs : List (List Nat) := []
  good : Bool := true
  deriving DecidableEq, Repr

/-- R418: reads a STEP_CODE section. -/
def readStepSec (sec : Nat) (bs : List Byte) : StepSec :=
  let el := fieldAt bs 2 2
  let dl := fieldAt bs 6 2
  let mask := fieldAt bs 64 32
  let db := 128 + 64 * el
  { sec := sec, entryFirst := fieldAt bs 0 2, entryLines := el, descFirst := fieldAt bs 4 2, descLines := dl,
    tokens := (List.range 24).map (fun i => fieldAt bs (16 + i) 1),
    cores := (List.range 256).filter (fun c => decide (bits mask c c = 1)),
    entries := (List.range (4 * el)).map (fun i => fieldAt bs (128 + 16 * i) 16),
    descs := (List.range dl).map (fun d => (List.range 8).map (fun w => fieldAt bs (db + 64 * d + 8 * w) 8)),
    good := decide (bs.length = 128 + 64 * (el + dl)) && zeroAt bs 8 8 && zeroAt bs 40 24 && zeroAt bs 96 32 &&
      decide (fieldAt bs 0 2 + el ≤ 1024) && decide (fieldAt bs 4 2 + dl ≤ 1024) && decide (0 < el) }

/-- The bytes of the sections of a kind and slot of the booted image, with their section-table indexes. -/
def State.imageSections (s : State) (kind slot : Nat) : List (Nat × List Byte) :=
  match s.image with
  | none => []
  | some b => ((indexed b.sections).filter (fun x => decide (x.1.kind = kind) && decide (x.1.slot = slot))).map (fun x =>
      (x.2, s.imageBytes b.slot x.1.offset x.1.length))

/-- The active slots of the booted image (R415). -/
def State.activeSlotsNow (s : State) : List Nat := match s.image with | some b => activeSlots b.sections | none => []

/-- The step code of a slot, before relocation. -/
def State.rawSteps (s : State) (slot : Nat) : List StepSec := (s.imageSections 0x22 slot).map (fun x => readStepSec x.1 x.2)

/-! Relocation (R419). -/

/-- The declared object ids of a slot (R420). -/
def State.declaredIds (s : State) (slot : Nat) : List Nat :=
  (s.imageSections 0x25 slot).flatMap (fun x => (List.range (x.2.length / 16)).map (fun i => fieldAt x.2 (16 * i) 4))

/-- Table 14-7: whether an object id names an object of a slot. -/
def State.objectExists (s : State) (slot id : Nat) : Bool :=
  let tensor := fun (t : Nat) => (s.tensors slot).any (fun x => decide (x.1 = t))
  if id < 0x80000000 then (s.declaredIds slot).contains id
  else if id < 0x80010000 then tensor (id - 0x80000000)
  else if id < 0x80020000 then tensor (id - 0x80010000)
  else decide (id = 0x80020000) || (decide (0x80030000 ≤ id) && decide (id < 0x80030100)) ||
    (decide (0x80040000 ≤ id) && decide (id ≤ 0x80040003))

/-- R282, R424: the placement hint of an object: 0 hbm, 1 slate, 2 auto. An id above 0xFFFF carries none. -/
def State.hint (s : State) (slot id : Nat) : Nat := if id < 65536 then s.cfgV (slot + 1) 0x60B id 2 else 2

/-- R420: the declared size of an object. -/
def State.declaredSize (s : State) (slot id : Nat) : Nat :=
  (((s.imageSections 0x25 slot).flatMap (fun x => (List.range (x.2.length / 16)).filterMap (fun i =>
    if fieldAt x.2 (16 * i) 4 = id then some (fieldAt x.2 (16 * i + 8) 6) else none))).head?).getD 0

/-- Table 14-7: the window of an object, true for the spread window, and its size in a layout of `n` members where the spec gives
one. -/
def State.objectKind (s : State) (slot id n : Nat) : Bool × Nat :=
  let share := cdiv (s.stepSamples slot / s.microbatch slot) n
  if id < 0x80000000 then (decide (s.hint slot id = 0), s.declaredSize slot id)
  else if id < 0x80010000 then
    let t := id - 0x80000000
    (true, Sys2Proof.Machine.imageBytes (s.workFmt slot t) (padded (s.elements slot t)))
  else if id < 0x80020000 then (true, 4 * share * padded (s.elements slot (id - 0x80010000)))
  else if id = 0x80020000 then (false, s.jobCfg slot 0x830F 0)
  else if id < 0x80040000 then (false, s.jobCfg slot 0x8409 0)
  else if id = 0x80040002 then (true, 2 * share * s.microbatch slot * s.modCfg 0x902 8192)
  else (decide (id = 0x80040003), 0)

/-- R282, Table 10-3: the base of an object in a layout of `n` members. -/
def State.objectBase (s : State) (slot id n : Nat) : Nat :=
  let k := s.objectKind slot id n
  if k.1 then s.inSpread k.2 (Config.objectBase slot id n) else inSlate k.2 (Config.objectBase slot id n)

/-- The relocation entries of a slot. -/
def State.relocs (s : State) (slot : Nat) : List Nat :=
  (s.imageSections 0x23 slot).flatMap (fun x => (List.range (cdiv x.2.length 8)).map (fun i => fieldAt x.2 (8 * i) 8))

/-- R419: one relocation of the step code for a layout of `n` members; none where it is refused. -/
def State.reloc (s : State) (slot n : Nat) (l : List StepSec) (r : Nat) : Option (List StepSec) :=
  let d := bits r 15 6
  let w := bits r 18 16
  let lo := bits r 24 19
  let id := bits r 63 32
  match l.find? (fun x => decide (x.sec = bits r 5 0)) with
  | none => none
  | some x =>
    let word := atD (atD x.descs d []) w 0
    let v := bits word (lo + 47) lo + s.objectBase slot id n
    if bits r 31 25 ≠ 0 || x.descLines ≤ d || 3 < w || 16 < lo || 2 ^ 48 ≤ v || !s.objectExists slot id then none
    else
      let word' := word - bits word (lo + 47) lo * 2 ^ lo + v * 2 ^ lo
      some (l.map (fun y => if y.sec = x.sec then { y with descs := modAt y.descs d (fun ws => modAt ws w (fun _ => word')) } else y))

/-- R419, R420: a RELOC section holds whole entries of 8 bytes, an OBJECTS section whole entries of 16, and no firmware object is
declared (log entry 165). -/
def State.placeable (s : State) (slot : Nat) : Bool :=
  (s.imageSections 0x23 slot).all (fun x => decide (x.2.length % 8 = 0)) &&
  (s.imageSections 0x25 slot).all (fun x => decide (x.2.length % 16 = 0)) && (s.declaredIds slot).all (fun id => decide (id < 0x80000000))

/-- R419: the step code of a slot with its addresses placed; none where a relocation is refused. -/
def State.steps (s : State) (slot n : Nat) : Option (List StepSec) :=
  if !s.placeable slot then none
  else (s.relocs slot).foldl (fun acc r => match acc with | none => none | some l => s.reloc slot n l r) (some (s.rawSteps slot))

/-! Checks of one entry. -/

/-- What a check of a slot's table knows: the slot, its masks, the microbatch count, its tensors, and the bytes of the HBM windows
that no operand may touch: from the firmware's 4 GiB to the end of the pool hole (R278). -/
structure CheckEnv where
  slot : Nat := 0
  tiles : Nat := 0
  regs : Nat := 0
  mbCount : Nat := 0
  tensors : List Nat := []
  gapLo : Nat := 0
  gapHi : Nat := 0
  deriving DecidableEq, Repr

/-- A loop of the walk: the entry after its body, its count, whether it is the microbatch loop. -/
structure CheckLoop where
  stop : Nat := 0
  count : Nat := 1
  mb : Bool := false
  deriving DecidableEq, Repr

/-- R61: the corners of a loop space, innermost index first. -/
def corners : List CheckLoop → List (List Nat)
  | [] => [[]]
  | l :: ls => (corners ls).flatMap (fun t => [0 :: t, (l.count - 1) :: t])

/-- R124: the flattened iteration of a corner. -/
def cornerFlat (ls : List CheckLoop) (idx : List Nat) : Nat :=
  ((ls.zip idx).reverse).foldl (fun acc x => acc * x.1.count + x.2) 0

/-- A corner of an entry as the entry would be dispatched there. -/
def cornerEntry (e : Entry) (desc : List Nat) (ls : List CheckLoop) (idx : List Nat) : QEntry :=
  { entry := e, idx := idx, flat := cornerFlat ls idx, desc := desc }

/-- The first code that is not 0. -/
def firstCode : List Nat → Nat
  | [] => 0
  | c :: cs => if c = 0 then firstCode cs else c

/-- A code where a condition fails. -/
def need (ok : Bool) (code : Nat) : Nat := if ok then 0 else code

/-- Bytes within the core store. -/
def inStore (a : Int) (n : Nat) : Bool := decide (0 ≤ a) && decide (a + n ≤ 0x200000)

/-- R276, R278: bytes within module memory, clear of the firmware's 4 GiB and the pool hole. -/
def CheckEnv.inModule (v : CheckEnv) (a : Int) (n : Nat) : Bool :=
  decide (0 ≤ a) && decide (a + n ≤ 0x14000000000) && (decide (a + n ≤ v.gapLo) || decide ((v.gapHi : Int) ≤ a))

/-- Whether an operand's base and every stride that a loop uses are multiples of `k` bytes (half-bytes doubled by the caller). -/
def alignedOper (ls : List CheckLoop) (q : QEntry) (o base k : Nat) : Bool :=
  k = 0 || (decide (base % k = 0) && (ls.zip (List.range 4)).all (fun x => decide (x.1.count ≤ 1) || decide (stride q.desc o x.2 % (k : Int) = 0)))

/-- Tokens of an entry (R53). -/
def tokenCode (e : Entry) : Nat :=
  let all := tokenList e.waitA e.waitB ++ tokenList e.sigA e.sigB
  need (all.all (fun t => decide (t < 26)) && (tokenList e.sigA e.sigB).all (fun t => decide (t < 24))) 0x0402

/-- Table 2-2, R57: the common fields of an entry of a region of `dl` descriptors. -/
def fieldCode (dl : Nat) (e : Entry) : Nat :=
  firstCode [
    need (decide (e.unit ≤ 6)) 0x0402,
    need (if e.dv then decide (e.desc < dl) else decide (e.desc = 0)) 0x0402,
    need (if e.unit = 0 then decide (e.phase = 0) && !e.next && !e.dv && decide (e.waitA = 0) && decide (e.waitB = 0) &&
            decide (e.sigA = 0) && decide (e.sigB = 0)
          else decide (1 ≤ e.phase) && decide (e.phase ≤ 10)) 0x0402,
    tokenCode e]

/-- Table 2-5: the operand fields of a control entry. -/
def controlCode (e : Entry) : Nat :=
  match e.op with
  | 1 => firstCode [need (decide (bits e.oper 63 13 = 0)) 0x0402,
    need (decide (1 ≤ bits e.oper 11 0) && (bits e.oper 12 12 = 0 || decide (e.imm = 0))) 0x0403]
  | 3 => need (decide (e.imm = 0) && decide (bits e.oper 63 13 = 0) && decide (bits e.oper 12 8 < 24)) 0x0402
  | 0 | 2 | 4 => need (decide (e.imm = 0) && decide (e.oper = 0)) 0x0402
  | _ => 0x0402

/-- Twice the element size of a matrix operand's format. -/
def maHalf (f : Fmt) : Nat := f.size2

/-- R137: whether the scale strides (16-bit fields of `w`) of every loop that encloses an entry are multiples of 128 bytes. -/
def scaleSteps (ls : List CheckLoop) (w : Nat) : Bool :=
  (ls.zip (List.range 4)).all (fun x => decide (bits w (16 * x.2 + 15) (16 * x.2) % 128 = 0))

/-- R61: the scale words and side-list groups of an SB operand at one corner: `k` indices, stream base, side list, advance. R61 names
operands; that it covers their streams, so that no admitted stream address lies outside the CS, is DEDUCED (log entry 152). -/
def maStreamOk (f : Fmt) (k base side : Nat) (adv : Int) : Bool :=
  !f.isSB || (inStore ((base : Int) + adv) (4 * max 1 k) && inStore ((side : Int) + 32 * (adv / 128)) (32 * max 1 (cdiv k 32)))

/-- R82, R94, R95, R137: a matrix-array entry. -/
def maCode (v : CheckEnv) (ls : List CheckLoop) (e : Entry) (desc : List Nat) : Nat :=
  if e.op = 1 || e.op = 2 then
    firstCode [need (decide (e.imm = 0) && !e.dv && decide (e.oper < 8)) 0x0405, need (decide (bits v.tiles (bits e.oper 2 0) (bits e.oper 2 0) = 1)) 0x0406]
  else if e.op < 0x40 || 0x80 ≤ e.op then 0x0405
  else
    let q0 := cornerEntry e desc ls (ls.map (fun _ => 0))
    let p := passIn q0
    let o := e.oper
    let w := fun (i : Nat) => atD desc i 0
    let vecs := if p.k = 0 then 1 else p.k + (if p.quad then 15 else 31)
    let wide := fun (f : Fmt) => f == .bf16 || f == .fp16
    let unused := fun (f : Fmt) (scale side ser strides : Nat) => f.isSB || (scale = 0 && side = 0 && ser = 0 && strides = 0)
    firstCode [
      need (decide (bits e.op 5 3 ≤ 5) && decide (bits e.op 2 0 ≤ 5) && decide (bits o 46 45 ≤ 2) && decide (bits o 63 63 = 0)) 0x0405,
      need (if p.quad then decide (p.qen ≠ 0) && decide (p.m ≤ 16) && decide (p.n ≤ 16) else decide (p.qen = 0)) 0x0405,
      need (e.dv || (!p.fmtA.isSB && !p.fmtB.isSB && decide (p.init ≠ 2))) 0x0405,
      need ((!p.fmtA.isSB && !p.fmtB.isSB) || decide (p.k % 32 = 0)) 0x0405,
      need ((!p.fmtA.isSB || scaleSteps ls (w 2)) && (!p.fmtB.isSB || scaleSteps ls (w 3))) 0x0405,
      need (!e.dv || (decide (bits (w 0) 63 63 = 0) && decide (bits (w 1) 63 54 = 0) && (decide (p.init = 2) || decide (p.cAddr = 0)) &&
        unused p.fmtA (bits (w 0) 20 0) p.aSide p.aSer (w 2) && unused p.fmtB (bits (w 1) 20 0) p.bSide p.bSer (w 3))) 0x0405,
      need (alignedOper ls q0 0 (bits o 20 0) (16 * maHalf p.fmtA) && alignedOper ls q0 1 (bits o 41 21) (16 * maHalf p.fmtB) &&
        (decide (p.init ≠ 2) || decide (p.cAddr % 64 = 0))) 0x0404,
      need ((corners ls).all (fun idx =>
        let q := cornerEntry e desc ls idx
        inStore ((bits o 20 0 : Int) + advance q 0) (vecs * 16 * maHalf p.fmtA) &&
        inStore ((bits o 41 21 : Int) + advance q 1) (vecs * 16 * maHalf p.fmtB) &&
        maStreamOk p.fmtA p.k (bits (w 0) 20 0) p.aSide (scaleAdvance (w 2) idx) &&
        maStreamOk p.fmtB p.k (bits (w 1) 20 0) p.bSide (scaleAdvance (w 3) idx)) &&
        (decide (p.init ≠ 2) || inStore p.cAddr 4096)) 0x0404,
      need (decide (bits v.tiles p.acc p.acc = 1)) 0x0406,
      need (decide (v.slot = 0) || (decide (p.k ≤ 192) && (!(wide p.fmtA || wide p.fmtB) || decide (p.k ≤ 96)))) 0x0408]

/-- Register-form operations of the VE (R105). -/
def veRegOp (op : Nat) : Bool :=
  (1 ≤ op && op ≤ 0x0F) || (0x20 ≤ op && op ≤ 0x30) || (0x40 ≤ op && op ≤ 0x43) || op = 0x70 || op = 0x71

/-- Operations of one operand. -/
def veUnary (op : Nat) : Bool := (8 ≤ op && op ≤ 0x10) || op = 0x28 || (0x40 ≤ op && op ≤ 0x50) || (0x60 ≤ op && op ≤ 0x62) || op = 0x70 || op = 0x71

/-- The registers that a VE entry reads. -/
def veReads (e : Entry) : List Nat :=
  if e.dv then (if bits e.imm 1 0 = 2 && !veUnary e.op then [bits e.oper 36 32] else [])
  else
    (if e.op = 0x70 then [] else [bits e.oper 4 0]) ++ (if veUnary e.op || bits e.oper 15 15 = 1 then [] else [bits e.oper 9 5])

/-- The register that a VE entry writes. -/
def veWrites (e : Entry) : List Nat := if e.dv || e.op = 0x71 then [] else [bits e.oper 14 10]

/-- R105, R111: a register-form entry. -/
def veRegCode (v : CheckEnv) (e : Entry) : Nat :=
  let o := e.oper
  let mem := e.op = 0x70 || e.op = 0x71
  firstCode [
    need (veRegOp e.op && decide (bits e.imm 11 7 = 0) && decide (bits e.imm 3 0 = 0) && decide (bits e.imm 6 4 ≤ 3) && decide (bits o 63 48 = 0)) 0x0405,
    need (!(0x20 ≤ e.op && e.op ≤ 0x30) || decide (bits e.imm 6 4 = 0)) 0x0405,
    need (!mem || (decide (bits o 47 37 = 0) && decide (bits o 15 15 = 0) && decide (bits o 9 5 = 0) &&
      (if e.op = 0x70 then decide (bits o 4 0 = 0) else decide (bits o 14 10 = 0)))) 0x0405,
    need (!mem || (decide (bits o 36 16 % 64 = 0) && inStore (bits o 36 16) 256)) 0x0404,
    need ((veReads e ++ veWrites e).all (fun r => decide (bits v.regs r r = 1))) 0x0406]

/-- Operations of the tensor form. -/
def veTensorOp (op : Nat) : Bool :=
  (1 ≤ op && op ≤ 0x10) || (0x18 ≤ op && op ≤ 0x1C) || (0x20 ≤ op && op ≤ 0x30) || (0x40 ≤ op && op ≤ 0x44) ||
  (0x48 ≤ op && op ≤ 0x4A) || op = 0x50 || (0x60 ≤ op && op ≤ 0x62)

/-- Table 4-3, R111, R116: whether the formats of a tensor-form entry may stand together. -/
def veFormats (op : Nat) (useZ : Bool) (x y z : Nat) : Bool :=
  let fl := fun (c : Nat) => decide (c ≤ 4)
  let it := fun (c : Nat) => decide (5 ≤ c) && decide (c ≤ 8)
  let zOk := fun (p : Nat → Bool) => if useZ then p z else decide (z ≤ 8)
  let s32 := fun (c : Nat) => decide (c ≤ 2)
  if op = 0x60 then s32 x && (y = 11 || y = 12) && decide (z ≤ 8)
  else if op = 0x61 then (x = 11 || x = 12) && s32 y && decide (z ≤ 8)
  else if op = 0x62 then (x = 0 || x = 1) && y = 10 && decide (z ≤ 8)
  else if op = 0x10 then decide (x ≤ 8) && decide (y ≤ 8) && decide (z ≤ 8)
  else if 0x18 ≤ op && op ≤ 0x1B then fl x && y = 9 && zOk fl
  else if op = 0x30 then x = 5 && y = 5 && zOk (fun c => decide (c = 5))
  else if 0x20 ≤ op && op ≤ 0x2F then it x && it y && zOk it
  else if op = 0x44 then fl x && y = 5 && decide (z ≤ 8)
  else fl x && fl y && zOk fl

/-- The rows that a tensor-form entry writes: (address, bytes). -/
def veYRanges (op : Nat) (v : VeIn) : List (Nat × Nat) :=
  if 0x40 ≤ op && op ≤ 0x43 then rowWrites v
  else if op = 0x44 then [(v.yAddr, 256)]
  else if 0x48 ≤ op && op ≤ 0x4A then colWrites v
  else if op = 0x50 && v.reMap then (v.zAddr, 8 * cdiv v.n1 64) :: v.yRows
  else v.yRows

/-- The rows of Z that a tensor-form entry reads or writes. -/
def veZRanges (op : Nat) (useZ : Bool) (v : VeIn) : List (Nat × Nat) :=
  if 0x60 ≤ op && op ≤ 0x61 then scaleRows v ++ sideRows v
  else if op = 0x62 then scaleRows v
  else if op = 0x44 then (if v.zsrc = 3 then [(v.zAddr, 4)] else [])
  else if useZ then v.zRows else []

/-- R111: the addresses of a tensor-form entry at one corner. -/
def veCornerOk (useZ : Bool) (q : QEntry) : Bool :=
  let e := q.entry
  let stream := 0x60 ≤ e.op && e.op ≤ 0x62
  let v := veIn stream 0 false (if bits e.imm 3 2 = 0 then none else some []) [] q
  let w0 := dword q 0
  let ok := fun (l : List (Nat × Nat)) => l.all (fun r => inStore r.1 r.2)
  let flat := (v.elemBase : Int)
  let last := flat + (v.n1 - 1) * v.elemPitch + (v.n0 - 1)
  (bits e.imm 3 2 ≠ 0 || decide (0 ≤ (bits w0 20 0 : Int) + advance q 0)) && decide (0 ≤ (bits w0 62 42 : Int) + advance q 1) &&
  (stream || !useZ || bits e.imm 1 0 = 0 || bits e.imm 1 0 = 2 || decide (0 ≤ (bits w0 41 21 : Int) + advance q 0)) &&
  (bits e.imm 8 8 = 0 || decide (0 ≤ (bits e.oper 58 38 : Int) + sint 5 (bits e.oper 63 59) * 64 * ((atD q.idx 0 0 : Nat) : Int))) &&
  ok v.xRows && ok (veZRanges e.op useZ v) && ok v.maskRows && ok (veYRanges e.op v) && decide (last ≤ 2 ^ 60)

/-- R110: the flat index of a gradient entry at one corner. -/
def veFlatOk (q : QEntry) : Bool :=
  let e := q.entry
  let v := veIn (0x60 ≤ e.op && e.op ≤ 0x62) 0 false none [] q
  let base := (bits (dword q 3) 39 0 : Int) + (if v.yf.size2 = 0 then 0 else advance q 1 * 2 / (v.yf.size2 : Int))
  decide (0 ≤ base) && decide (base + (v.n1 - 1) * v.elemPitch + (v.n0 - 1) < 2 ^ 40)

/-- R158: the limits of HIST_LOG2, on descriptor words 0 and 1, OPER, ZSRC and ACT. -/
def histOk (w0 w1 oper zsrc act : Nat) : Bool :=
  decide (bits w1 62 42 = 0) && decide (bits w0 62 42 % 64 = 0) && decide (act = 0) &&
    (if zsrc = 0 then
        let h := (BitVec.ofNat 16 oper).toInt
        decide (-149 ≤ h) && decide (h ≤ 127)
      else decide (zsrc = 3) && decide (bits w0 41 21 % 4 = 0))

/-- R111, R115, R119 to R124, R137, R158, R223: a tensor-form entry. -/
def veTensorCode (env : CheckEnv) (ls : List CheckLoop) (e : Entry) (desc : List Nat) : Nat :=
  let q0 := cornerEntry e desc ls (ls.map (fun _ => 0))
  let op := e.op
  let w := fun (i : Nat) => atD desc i 0
  let x := bits (w 2) 35 32
  let y := bits (w 2) 43 40
  let z := bits (w 2) 39 36
  let n0 := bits (w 2) 13 0 + 1
  let n1 := bits (w 2) 31 16 + 1
  let kind := bits (w 3) 58 56
  let act := bits e.imm 6 4
  let xsrc := bits e.imm 3 2
  let zsrc := bits e.imm 1 0
  let masked := decide (bits e.imm 8 8 = 1)
  let useZ := !veUnary op
  let int := (0x20 ≤ op && op ≤ 0x30) || (0x18 ≤ op && op ≤ 0x1B) || (op = 0x10 && 5 ≤ x && 5 ≤ y)
  let el := fun (c : Nat) => (veFmt c).size2
  let al := fun (o base c : Nat) => c = 12 || c = 9 || alignedOper ls q0 o base (el c / 2)
  let pitch := fun (p c : Nat) => c = 12 || c = 9 || decide (n1 = 1) || decide (p % max 1 (el c / 2) = 0)
  let stream := 0x60 ≤ op && op ≤ 0x62
  firstCode [
    need (veTensorOp op && decide (bits e.imm 11 10 = 0) && (decide (bits e.imm 9 9 = 0) || decide (op = 0x50)) && decide (act ≤ 3) &&
      decide (xsrc ≤ 2) && decide (bits e.oper 37 37 = 0) && decide (bits (w 0) 63 63 = 0) && decide (bits (w 1) 63 63 = 0) &&
      decide (bits (w 2) 15 14 = 0) && decide (bits (w 3) 63 59 = 0) && decide (kind ≠ 7)) 0x0405,
    need (veFormats op (useZ && decide (zsrc ≠ 0)) x y z) 0x0405,
    need (!int || decide (act = 0)) 0x0405,
    need (decide (zsrc ≠ 2) || decide (n0 ≤ 64)) 0x0405,
    need (decide (y ≠ 9) || decide (bits (w 1) 62 42 = 0)) 0x0405,
    need (decide (xsrc = 0) || (decide (bits (w 0) 20 0 = 0) && decide (bits (w 1) 20 0 = 0) && decide (x = 0) && decide (n0 = 32) && decide (n1 = 32))) 0x0405,
    need (decide (op ≠ 0x1C) || masked) 0x0405,
    need (decide (op ≠ 0x30) || decide (n0 % 2 = 0)) 0x0405,
    need (decide (op ≠ 0x50) || decide (n0 ≤ 4096)) 0x0405,
    need (decide (op ≠ 0x44) || histOk (w 0) (w 1) e.oper zsrc act) 0x0405,
    need (!stream || (decide (n0 % 32 = 0) && (decide (op = 0x62) || !masked) && (decide (op ≠ 0x62) || decide (kind = 2)))) 0x0405,
    need (!(stream && decide (op ≠ 0x62)) || ls.isEmpty || decide (n1 * n0 % 1024 = 0)) 0x0405,
    need (decide (bits (w 3) 55 40 < 0xF400)) 0x0405,
    need ((ls.zip (List.range 4)).all (fun l => el y = 0 || decide ((stride desc 1 l.2 * 2) % (el y : Int) = 0))) 0x0405,
    need (decide (kind ≠ 2) || (corners ls).all (fun idx => veFlatOk (cornerEntry e desc ls idx))) 0x0405,
    need ((decide (xsrc ≠ 0) || (al 0 (bits (w 0) 20 0) x && pitch (bits (w 1) 20 0) x)) &&
      al 1 (bits (w 0) 62 42) y && pitch (bits (w 1) 62 42) y && (!(useZ && (zsrc = 1 || zsrc = 3)) || al 0 (bits (w 0) 41 21) z) &&
      (!(useZ && zsrc = 1) || pitch (bits (w 1) 41 21) z) &&
      (!masked || decide (bits e.oper 58 38 % 8 = 0))) 0x0404,
    need ((corners ls).all (fun idx => veCornerOk useZ (cornerEntry e desc ls idx))) 0x0404,
    need (decide (zsrc ≠ 2) || decide (bits env.regs (bits e.oper 36 32) (bits e.oper 36 32) = 1)) 0x0406]

/-- R61, R66, Table 2-6: a skew-mover entry. -/
def skCode (v : CheckEnv) (ls : List CheckLoop) (e : Entry) (desc : List Nat) : Nat :=
  let w := fun (i : Nat) => atD desc i 0
  let space := fun (x : Nat) => decide (bits x 63 60 = 0) && decide (bits x 51 48 ≤ 2) && (decide (bits x 51 48 = 2) || decide (bits x 59 52 = 0)) &&
    (decide (bits x 51 48 = 0) || decide (bits x 47 21 = 0))
  let lay := bits (w 2) 6 3
  let h := skHalf (bits (w 2) 2 0)
  let at_ := fun (x : Nat) (a : Int) (n : Nat) => if bits x 51 48 = 0 then v.inModule a n else inStore a n
  let q0 := cornerEntry e desc ls (ls.map (fun _ => 0))
  firstCode [
    need (decide (e.op = 1) && decide (e.imm = 0) && decide (e.oper = 0)) 0x0402,
    need (e.dv && space (w 0) && space (w 1) && decide (bits (w 2) 2 0 ≤ 3) && decide (lay ≤ 4) && decide (bits (w 2) 15 10 = 0) &&
      decide (bits (w 2) 63 48 = 0) && (decide (lay = 0) || decide (bits (w 3) 63 32 = 0))) 0x0405,
    need (match lay with
      | 1 | 3 => decide (bits (w 2) 31 16 < 32)
      | 2 | 4 => decide (bits (w 2) 47 32 < 32)
      | _ => true) 0x0404,
    need (decide (lay = 0) || alignedOper ls q0 1 (bits (w 1) 47 0) (16 * h)) 0x0404,
    need ((corners ls).all (fun idx =>
      let q := cornerEntry e desc ls idx
      let s0 := (bits (w 0) 47 0 : Int) + advance q 0
      let d0 := (bits (w 1) 47 0 : Int) + advance q 1
      decide (0 ≤ s0) && decide (0 ≤ d0) && (skReadRows q).all (fun r => at_ (w 0) r.1 r.2) &&
      (skWriteRows q).all (fun r => at_ (w 1) r.1 r.2))) 0x0404]

/-- Tables 7-4 and 8-2: a GC entry. -/
def gcCode (v : CheckEnv) (ls : List CheckLoop) (e : Entry) (desc : List Nat) : Nat :=
  let w := fun (i : Nat) => atD desc i 0
  let place := match e.op with
    | 1 | 2 => e.phase = 2 && e.next
    | 3 => e.phase = 4 && !e.next
    | 0x10 => e.phase = 5 && !e.next
    | 0x11 | 0x12 => e.phase = 6 && !e.next
    | _ => false
  let q := fun (idx : List Nat) => cornerEntry e desc ls idx
  firstCode [
    need (place && e.dv && decide (e.imm = 0) && decide (e.oper = 0)) 0x0405,
    need (if e.op < 0x10 then decide (bits (w 0) 63 42 = 0) else decide (bits (w 0) 63 48 = 0)) 0x0405,
    need (decide (bits (w 1) 63 48 = 0) && decide (bits (w 2) 63 48 = 0) && decide (bits (w 3) 63 58 = 0)) 0x0405,
    need ((corners ls).all (fun idx =>
      if e.op < 0x10 then inStore ((bits (w 0) 20 0 : Int) + advance (q idx) 0) 1 && inStore ((bits (w 0) 41 21 : Int) + advance (q idx) 1) 1
      else v.inModule ((bits (w 0) 47 0 : Int) + advance (q idx) 0) 1 && v.inModule ((bits (w 1) 47 0 : Int) + advance (q idx) 1) 1 &&
        inStore (bits (w 3) 20 0) (64 * bits (w 3) 37 21) && decide (bits (w 3) 20 0 < 0x200000))) 0x0404]

/-- Table 12-4, R266, R348: an XU entry. -/
def xuCode (env : CheckEnv) (ls : List CheckLoop) (e : Entry) (desc : List Nat) : Nat :=
  let w := fun (i : Nat) => atD desc i 0
  let q := fun (idx : List Nat) => cornerEntry e desc ls idx
  if e.op = 1 then
    need (!e.dv && decide (e.oper = 0) && decide (e.imm = e.phase) && (e.phase = 2 || e.phase = 4 || e.phase = 6)) 0x0405
  else
    firstCode [
      need (e.dv && decide (e.imm = 0) && decide (e.oper = 0) &&
        (match e.op with | 2 | 3 => decide (e.phase = 7) | 4 => decide (e.phase = 5) | _ => false)) 0x0405,
      need (decide (bits (w 0) 63 48 = 0) && decide (bits (w 1) 63 48 = 0) && decide (bits (w 2) 63 48 = 0) && decide (bits (w 3) 63 48 = 0) &&
        env.tensors.contains (bits (w 2) 47 32)) 0x0405,
      need ((corners ls).all (fun idx => env.inModule ((bits (w 0) 47 0 : Int) + advance (q idx) 0) 1 &&
        env.inModule ((bits (w 1) 47 0 : Int) + advance (q idx) 1) 1)) 0x0404,
      need (decide (e.op ≠ 4) || !ls.any (·.mb)) 0x0409]

/-! The walk over a table. -/

/-- One entry's checks by its unit. -/
def unitCode (env : CheckEnv) (ls : List CheckLoop) (e : Entry) (desc : List Nat) : Nat :=
  match e.unit with
  | 0 => controlCode e
  | 1 | 2 => maCode env ls e desc
  | 3 => if e.dv then veTensorCode env ls e desc else veRegCode env e
  | 4 => skCode env ls e desc
  | 5 => gcCode env ls e desc
  | _ => xuCode env ls e desc

/-- Key of a register of a step and phase. -/
def regKey (e : Entry) (r : Nat) : Nat := ((if e.next then 1 else 0) * 16 + e.phase) * 32 + r

/-- Checks the entries from number `i` of a table of `n` entries with the loops that enclose it: R45 to R59 and R103, and each
unit's rules. `seen` is whether a microbatch loop stood before, `written` the registers written. -/
def walkTable (env : CheckEnv) (x : StepSec) (n : Nat) : List Nat → Nat → List CheckLoop → Bool → List Nat → Nat
  | [], _, _, _, _ => 0
  | w :: ws, i, ls0, seen, written =>
    let e := decodeEntry w
    let ls := ls0.filter (fun l => decide (i < l.stop))
    let end_ := e.unit = 0 && e.op = 4
    let loop := e.unit = 0 && e.op = 1
    let mb := loop && decide (bits e.oper 12 12 = 1)
    let stop_ := i + 1 + bits e.oper 11 0
    let code := firstCode [
      fieldCode x.descLines e,
      need (if i + 1 = n then end_ else !end_) 0x0402,
      unitCode env ls e (if e.dv then atD x.descs e.desc [] else []),
      need (!loop || (decide (ls.length < 4) && decide (stop_ < n) && ls.all (fun l => decide (stop_ ≤ l.stop)))) 0x0403,
      need (!mb || !seen) 0x0403,
      need (decide (e.unit ≠ 3) || (veReads e).all (fun r => written.contains (regKey e r))) 0x0407]
    if code ≠ 0 then code
    else
      let ls := if loop then { stop := stop_, count := if mb then env.mbCount else e.imm + 1, mb := mb } :: ls else ls
      let written := if e.unit = 3 then written ++ (veWrites e).map (regKey e) else written
      walkTable env x n ws (i + 1) ls (seen || mb) written

/-! A slot's step code. -/

/-- Whether two runs of lines share a line. -/
def linesOverlap (a n b m : Nat) : Bool := decide (0 < n) && decide (0 < m) && decide (a < b + m) && decide (b < a + n)

/-- R45, R418: the regions that a core receives, over every slot. -/
def State.coreRegions (s : State) (c : Nat) : List (Nat × Nat) :=
  (s.activeSlotsNow.flatMap s.rawSteps).flatMap (fun x =>
    if x.cores.contains c then [(x.entryFirst, x.entryLines), (x.descFirst, x.descLines)] else [])

/-- R45, R418: the regions of a slot. -/
def State.regionCode (s : State) (slot : Nat) : Nat :=
  let l := s.rawSteps slot
  let once := (List.range 256).all (fun c => decide ((l.filter (fun x => x.cores.contains c)).length ≤ 1))
  let free := ((List.range 256).filter (fun c => l.any (fun x => x.cores.contains c))).all (fun c =>
    let r := s.coreRegions c
    (List.range r.length).all (fun i => (List.range i).all (fun j =>
      !linesOverlap (atD r i (0, 0)).1 (atD r i (0, 0)).2 (atD r j (0, 0)).1 (atD r j (0, 0)).2)))
  need (l.all (·.good) && once && free) 0x0401

/-- The masks of a slot in force (R94, R102). -/
def State.tileMask (s : State) (slot : Nat) : Nat := s.jobCfg slot 0x8103 0
/-- `job.ve_reg_mask`. -/
def State.regMask (s : State) (slot : Nat) : Nat := s.jobCfg slot 0x8104 0

/-- R94, R102: masks of active slots are disjoint, a filler with entries of a unit gives its mask, and filler Flint keeps tile 7
and V28 to V31 while it is enabled (R496). -/
def State.maskCode (s : State) (slot : Nat) : Nat :=
  let others := s.activeSlotsNow.filter (fun x => decide (x ≠ slot))
  let uses := fun (p : Nat → Bool) => (s.rawSteps slot).any (fun x => x.entries.any (fun w => p (decodeEntry w).unit))
  let flint := decide (s.modCfg 0xB01 0 ≠ 0) && !s.activeSlotsNow.contains 3
  need (others.all (fun x => decide (s.tileMask slot &&& s.tileMask x = 0) && decide (s.regMask slot &&& s.regMask x = 0)) &&
    (decide (slot = 0) || ((!uses (fun u => u = 1 || u = 2) || decide (s.tileMask slot ≠ 0)) && (!uses (fun u => u = 3) || decide (s.regMask slot ≠ 0)))) &&
    (!flint || (decide (bits (s.tileMask slot) 7 7 = 0) && decide (bits (s.regMask slot) 31 28 = 0)))) 0x0406

/-- R61, R430: the code check of a slot at a layout of `n` members where this one has `mb` microbatches. -/
def State.stepCode (s : State) (slot n mb : Nat) : Nat :=
  let env : CheckEnv := { slot := slot, tiles := s.tileMask slot, regs := s.regMask slot, mbCount := mb, tensors := (s.tensors slot).map (·.1),
                          gapLo := (s.spreadGib - 4) * gib, gapHi := (768 - 8 * s.localGib) * gib }
  firstCode [
    s.regionCode slot,
    s.maskCode slot,
    match s.steps slot n with
    | none => 0x040A
    | some l => firstCode (l.map (fun x => walkTable env x x.entries.length x.entries 0 [] false []))]

end Sys2Proof.Machine
end

