-- ==== Sys2Proof/Machine/Layout.lean ====
section
/-! DEFINITION. The layout of a job (R20, R192, R252 to R254, R282, R283, R361, R362, R430): its members, its map, its slices
and their checks, and the loading of a slot's step tables. -/

namespace Sys2Proof.Machine

open Sys2Proof

/-! Members and microbatches. -/

/-- R20: the microbatches of the member at position `p` of `n`, of `k` in all. -/
def mbShare (k n p : Nat) : Nat := k / n + if p < k % n then 1 else 0

/-- B / M. -/
def State.mbTotal (s : State) (slot : Nat) : Nat := s.stepSamples slot / s.microbatch slot

/-- The serial that holds a fabric rank. -/
def State.serialOf (s : State) (rank : Nat) : Nat := SMap.getD s.fabric.rankSerials rank 0

/-- The fabric rank of a serial, if it holds one. -/
def State.rankOfSerial (s : State) (serial : Nat) : Option Nat :=
  (List.find? (fun e => decide (e.2 = serial)) s.fabric.rankSerials).map (·.1)

/-- GD_STATUS follows the primary (Table 12-8). -/
def State.refreshGuidon (s : State) : State :=
  let j := s.job 0
  let s := (s.setFld gdStatus 48 36 (if j.member then j.ranks.length else 0)).setFld gdStatus 35 24 (if j.member then j.position else 0)
  (s.setFld gdStatus 23 16 j.attempt).setFld gdStatus 0 0 (if j.member then 1 else 0)

/-- R20, R349: forms a slot's job over members of ascending rank; a change of the primary raises JOB. -/
def State.formJob (s : State) (slot : Nat) (ranks : List Nat) : State :=
  let pos := ranks.findIdx (· == s.ownRank)
  let mem := decide (pos < ranks.length) && s.fabric.rank.isSome
  let old := s.job slot
  let s := s.updJob slot (fun j => { j with
    member := mem, ranks := ranks, members := ranks.map s.serialOf, position := if mem then pos else 0
    mbCount := if mem then mbShare (s.mbTotal slot) ranks.length pos else 0 })
  if slot ≠ 0 then s
  else
    let s := s.refreshGuidon
    if old.ranks = ranks && old.member = mem then s else s.raiseInt 6

/-! The map (R361, R362). -/

/-- R361: the initial map by position: floor(s * N / S). -/
def evenMap (n shards : Nat) : List Nat := (List.range shards).map (fun x => x * n / shards)

/-- R361: the image's SHARD_MAP, as ranks, if it has one. -/
def State.imageMap (s : State) (slot : Nat) : Option (List Nat) :=
  ((s.imageSections 0x24 slot).head?).map (fun x => (List.range (cdiv x.2.length 2)).map (fun i => fieldAt x.2 (2 * i) 2))

/-- R192, R361: the SHARD_MAP names a member for every shard. -/
def State.imageMapOk (s : State) (slot : Nat) (ranks : List Nat) : Bool :=
  match s.imageMap slot with
  | none => true
  | some m => decide (m.length = s.shards slot) && m.all (fun r => ranks.contains r)

/-- R361: the map of step 0 as ranks. -/
def State.firstMap (s : State) (slot : Nat) (ranks : List Nat) : List Nat :=
  match s.imageMap slot with
  | some m => m
  | none => (evenMap ranks.length (s.shards slot)).map (fun p => atD ranks p 0)

/-- R362: the target of position `p`. -/
def shardTarget (shards n p : Nat) : Nat := shards / n + if p < shards % n then 1 else 0

/-- R362: each kept member keeps its lowest shards up to its target; a shard is released as `none`. -/
def keepShards (n : Nat) (old : List (Option Nat)) : List (Option Nat) × SMap Nat :=
  old.foldl (fun (acc : List (Option Nat) × SMap Nat) o =>
    match o with
    | some p =>
      let c := SMap.getD acc.2 p 0
      if c < shardTarget old.length n p then (acc.1 ++ [some p], SMap.put acc.2 p (c + 1)) else (acc.1 ++ [none], acc.2)
    | none => (acc.1 ++ [none], acc.2)) ([], [])

/-- R362: the rebalanced map by new position; `old` gives each shard's new position, none for a departing member. -/
def rebalance (n : Nat) (old : List (Option Nat)) : List Nat :=
  let kept := keepShards n old
  (kept.1.foldl (fun (acc : List Nat × SMap Nat) o =>
    match o with
    | some p => (acc.1 ++ [p], acc.2)
    | none =>
      let p := ((List.range n).find? (fun p => decide (SMap.getD acc.2 p 0 < shardTarget old.length n p))).getD 0
      (acc.1 ++ [p], SMap.put acc.2 p (SMap.getD acc.2 p 0 + 1))) ([], kept.2)).1

/-- R364: a map translated through serials: the new position of each shard's owner. -/
def State.shardsByPosition (s : State) (map : List Nat) (serialOfRank : Nat → Nat) (ranks : List Nat) : List (Option Nat) :=
  map.map (fun r =>
    match s.rankOfSerial (serialOfRank r) with
    | some q => let i := ranks.findIdx (· == q); if i < ranks.length then some i else none
    | none => none)

/-! Slices. -/

/-- R252: every slice of a slot: its number, tensor and index. -/
def State.sliceTable (s : State) (slot : Nat) : List (Nat × Nat × Nat) :=
  let l := (s.tensors slot).flatMap (fun t => (List.range (cdiv (padded t.2) sliceLen)).map (fun i => (t.1, i)))
  (l.zip (List.range l.length)).map (fun x => (x.2, x.1.1, x.1.2))

/-- R253: mirror mode would be in effect at `n` members. -/
def State.mirrorAt (s : State) (slot n : Nat) : Bool := decide (s.jobCfg slot 0x508 0 = 1) && decide (2 ≤ n)

/-- R252, R253: the slices that position `p` of `n` holds, true where mirrored. -/
def State.slicesAt (s : State) (slot n p : Nat) : List (Nat × Bool × Nat × Nat) :=
  (s.sliceTable slot).filterMap (fun x =>
    if x.1 % n = p then some (x.1, false, x.2.1, x.2.2)
    else if s.mirrorAt slot n && decide ((x.1 + cdiv n 2) % n = p) then some (x.1, true, x.2.1, x.2.2)
    else none)

/-- The slices that this module holds in the slot's present layout; those it held keep their stamps. -/
def State.formSlices (s : State) (slot : Nat) : State :=
  s.updJob slot (fun j => { j with slices := (s.slicesAt slot j.ranks.length j.position).map (fun x =>
    let old := SMap.getD j.slices x.1 {}
    (x.1, { old with mirror := x.2.1, tensor := x.2.2.1, index := x.2.2.2, grad := [], written := [] })) })

/-- R181, R183, R184: the activation and activation-gradient tensors that a slot's measuring passes name, ascending; the
histogram tensors are those of its HIST_LOG2 entries. -/
def State.measured (s : State) (slot : Nat) (ops : List Nat) : List Nat :=
  distinctUp ((s.rawSteps slot).flatMap (fun x => x.entries.filterMap (fun w =>
    let e := decodeEntry w
    let d := atD (atD x.descs e.desc []) 3 0
    if e.unit = 3 && e.dv && ops.contains e.op && (bits d 58 56 = 0 || bits d 58 56 = 2) &&
        !(s.tensors slot).any (fun t => decide (t.1 = bits d 55 40)) then some (bits d 55 40) else none)))

/-- The recipe-managed tensors of a slot. -/
def State.recipeTensors (s : State) (slot : Nat) : List Nat := s.measured slot [0x43, 0x44, 0x4A]

/-- Those that use histograms. -/
def State.histTensors (s : State) (slot : Nat) : List Nat := s.measured slot [0x44]

/-! Layout checks. -/

/-- A layout to check: the slot, its members, the owner position of each shard, and the position checked. -/
structure Plan where
  slot : Nat := 0
  n : Nat := 1
  map : List Nat := []
  deriving DecidableEq, Repr

/-- The layout of an admitted slot. -/
def State.planOf (s : State) (slot : Nat) : Plan :=
  let j := s.job slot
  { slot := slot, n := j.ranks.length, map := j.map.map (fun r => j.ranks.findIdx (· == r)) }

/-- Table numbers of a slot. -/
def State.tableNums (s : State) (slot : Nat) : List Nat := List.range (s.tableCount slot)

/-- R194, R195: bytes of row regions and default-row areas of position `p` in a stack. -/
def State.stackBytes (s : State) (x : Plan) (p st : Nat) : Nat :=
  let owned := (x.map.filter (· == p)).length
  ((s.tableNums x.slot).map (fun t =>
    let size := (s.recLayout x.slot t).size
    owned * s.regionQ x.slot t * size +
      (if t % 8 = st && atD x.map (t % s.shards x.slot) 0 = p then size else 0))).foldl (· + ·) 0

/-- R231: bytes of the pending map of position `p` in a stack, one bit for each of its rows. -/
def State.pendingBytes (s : State) (x : Plan) (p st : Nat) : Nat :=
  let owned := (x.map.filter (· == p)).length
  cdiv (((s.tableNums x.slot).map (fun t => owned * s.regionQ x.slot t +
    (if t % 8 = st && atD x.map (t % s.shards x.slot) 0 = p then 1 else 0))).foldl (· + ·) 0) 8

/-- Table 10-3: bytes of a slot in a stack's local window; the combined-gradient areas of both parities have the size that the firmware
gives them (log entry 85). -/
def State.localBytes (s : State) (x : Plan) (p st : Nat) : Nat :=
  s.stackBytes x p st + 2 * Config.gradBytes x.slot st x.n + s.pendingBytes x p st

/-- R283: bytes of row regions, default-row areas and combined-gradient areas of a position. -/
def State.tableBytes (s : State) (x : Plan) (p : Nat) : Nat :=
  ((List.range 8).map (fun st => s.stackBytes x p st + 2 * Config.gradBytes x.slot st x.n)).foldl (· + ·) 0

/-- R255: bytes of the master and moment pages of a position. -/
def State.pageBytes (s : State) (x : Plan) (p : Nat) : Nat :=
  ((s.slicesAt x.slot x.n p).map (fun y => 2 * (1 + s.denseMoments x.slot) * 4 * s.sliceElems x.slot y.2.2.1 y.2.2.2)).foldl (· + ·) 0

/-- R255, R259, R263: bytes of working copies, gather areas and the contribution store of a position. -/
def State.denseHbm (s : State) (x : Plan) (p : Nat) : Nat :=
  ((s.slicesAt x.slot x.n p).map (fun y =>
    2 * Sys2Proof.Machine.imageBytes (s.workFmt x.slot y.2.2.1) (s.sliceElems x.slot y.2.2.1 y.2.2.2))).foldl (· + ·) 0 +
  ((s.tensors x.slot).map (fun t => Sys2Proof.Machine.imageBytes (s.workFmt x.slot t.1) (padded t.2))).foldl (· + ·) 0 +
  s.jobCfg x.slot 0x850F 0

/-- R282, R420: bytes of the declared objects of a hint: 0 hbm, 1 slate, 2 auto. -/
def State.hintBytes (s : State) (slot hint : Nat) : Nat :=
  (s.imageSections 0x25 slot).foldl (fun a x => a + ((List.range (x.2.length / 16)).map (fun i =>
    if s.hint slot (fieldAt x.2 (16 * i) 4) = hint then fieldAt x.2 (16 * i + 8) 6 else 0)).foldl (· + ·) 0) 0

/-- R383: bytes of the landing area of a position. -/
def State.landingBytes (s : State) (x : Plan) (p : Nat) : Nat :=
  2 * mbShare (s.mbTotal x.slot) x.n p * s.microbatch x.slot * s.modCfg 0x902 8192

/-- R182, R418: bytes of a slot's scale table and step-table images. -/
def State.firmwareBytes (s : State) (slot : Nat) : Nat :=
  16 * (s.recipeTensors slot).length + ((s.rawSteps slot).map (fun y => 64 * (y.entryLines + y.descLines))).foldl (· + ·) 0

/-- Table 10-3: bytes of a slot in the spread window; no rule sizes the export staging (log entry 85). -/
def State.spreadBytes (s : State) (x : Plan) (p : Nat) : Nat :=
  s.denseHbm x p + s.landingBytes x p + s.hintBytes x.slot 0 + s.firmwareBytes x.slot

/-- Table 10-3: bytes of a slot in the slate window: pages, objects, the look-up spill pool and the gradient spill areas. -/
def State.slateBytes (s : State) (x : Plan) (p : Nat) : Nat :=
  s.pageBytes x p + s.hintBytes x.slot 1 + s.hintBytes x.slot 2 + s.jobCfg x.slot 0x830F 0 + 256 * s.jobCfg x.slot 0x8409 0

/-- The layouts that share the module with `x`: those of the other admitted slots, and `x`. -/
def State.plansWith (s : State) (x : Plan) : List Plan :=
  ([0, 1, 2, 3].filter (fun i => decide (i ≠ x.slot) && (s.job i).admitted)).map s.planOf ++ [x]

/-- A total over the layouts that share the member at position `p`; the jobs of a module have their members in one order (R349). -/
def State.shared (s : State) (x : Plan) (p : Nat) (f : Plan → Nat → Nat) : Nat :=
  ((s.plansWith x).map (fun y => if p < y.n then f y p else 0)).foldl (· + ·) 0

/-- R254: slices of the busiest core of a position. -/
def State.coreSlices (s : State) (x : Plan) (p : Nat) : Nat :=
  let l := s.slicesAt x.slot x.n p
  cdiv ((l.filter (fun y => !y.2.1)).length) 256 + cdiv ((l.filter (fun y => y.2.1)).length) 256

/-- R254, R283, R195: the code of a layout on the member at a position, 0 where it passes. -/
def State.memberCode (s : State) (x : Plan) (p : Nat) : Nat :=
  firstCode [
    need (decide (s.shared x p s.spreadBytes ≤ (s.spreadGib - 4) * gib) &&
      (List.range 8).all (fun st => decide (s.shared x p (fun y q => s.localBytes y q st) ≤ s.localGib * gib)) &&
      decide (s.shared x p s.slateBytes + s.modCfg 0x903 16 * gib ≤ 512 * gib)) 0x0501,
    need (decide (s.shared x p s.tableBytes ≤ s.modCfg 0x600 512 * gib)) 0x0502,
    need (decide (s.coreSlices x p * 65536 ≤ s.jobCfg x.slot 0x850E 524288) &&
      decide (s.shared x p s.pageBytes ≤ s.modCfg 0x603 256 * gib) &&
      decide (s.shared x p s.denseHbm ≤ s.modCfg 0x602 32 * gib)) 0x0503]

/-- R430: the layout check of every member (codes 0x0501 to 0x0503). -/
def State.layoutCode (s : State) (x : Plan) : Nat := firstCode ((List.range x.n).map (s.memberCode x))

/-- Table 12-6: `job.elastic`: off, shrink, grow, both. -/
def State.elasticOk (s : State) (slot before after : Nat) : Bool :=
  let e := s.jobCfg slot 0x800 3
  decide (after = before) || (decide (after < before) && (e = 1 || e = 3)) || (decide (before < after) && (e = 2 || e = 3))

/-- R369, R192: a change of members that the job permits. -/
def State.membersCode (s : State) (slot before after : Nat) : Nat :=
  need (s.elasticOk slot before after && decide (s.jobCfg slot 0x801 1 ≤ after || before ≤ after) && decide (after ≤ s.shards slot)) 0x0504

/-- R365: bytes that a position stages: moved shards and slices, where it keeps shards of its own. -/
def State.stagedBytes (s : State) (old x : Plan) (p : Nat) : Nat :=
  let moved := ((x.map.zip old.map).filter (fun y => decide (y.1 = p) && decide (y.2 ≠ p))).length
  let kept := (x.map.zip old.map).any (fun y => decide (y.1 = p) && decide (y.2 = p))
  if kept then
    moved * ((s.tableNums x.slot).map (fun t => 8 * s.regionQ x.slot t * (s.recLayout x.slot t).size)).foldl (· + ·) 0 + s.pageBytes x p / 2
  else 0

/-- R365: staging fits the slate capacity left free; `old` gives the old owners by their new positions. -/
def State.stagingCode (s : State) (old x : Plan) : Nat :=
  need ((List.range x.n).all (fun p =>
    decide (s.stagedBytes old x p + s.shared x p s.slateBytes + s.modCfg 0x903 16 * gib ≤ 512 * gib))) 0x0505

/-! Recipe-managed tensors. -/

/-- Those that use the largest magnitude. -/
def State.maxTensors (s : State) (slot : Nat) : List Nat :=
  (s.recipeTensors slot).filter (fun t => !(s.histTensors slot).contains t)

/-! Loading step tables. -/

/-- The initial token counters of a section: T0 to T23 from it, the rest 0 (R53, R418). -/
def StepSec.initTokens (x : StepSec) : List Nat := x.tokens ++ List.replicate 8 0

/-- Writes a section into a core's step-table memory. -/
def CoreState.loadSec (k : CoreState) (slot : Nat) (x : StepSec) : CoreState :=
  let t := (k.table.write (64 * x.entryFirst) (x.entries.flatMap (leBytes 16))).1
  let t := (t.write (64 * x.descFirst) (x.descs.flatMap (fun d => d.flatMap (leBytes 8)))).1
  { k with table := t }.updSlot slot (fun cs => { cs with
    loaded := true, entryLine := x.entryFirst, entryLines := x.entryLines, descLine := x.descFirst, descLines := x.descLines })

/-- R45, R419: loads a slot's relocated step code into the cores that it names. -/
def State.loadTables (s : State) (slot : Nat) : State :=
  match s.steps slot (s.memberCount slot) with
  | none => s
  | some l => l.foldl (fun s x => x.cores.foldl (fun s c => State.updCore s c (fun k => k.loadSec slot x)) s) s

/-- The initial token counters of a core for a slot. -/
def State.initTokens (s : State) (slot c : Nat) : List Nat :=
  match (s.rawSteps slot).find? (fun x => x.cores.contains c) with
  | some x => x.initTokens
  | none => List.replicate 32 0

/-- R51, R477: clears the slot's work on every core, its counters at their initial values, ready to run the prologue of the
step after `step`. -/
def State.restartCores (s : State) (slot step : Nat) : State :=
  (List.range 256).foldl (fun s c =>
    if ((State.core s c).slot slot).loaded then
      State.updCore s c (fun k => (k.clearSlot slot (s.tileMask slot) (s.regMask slot) (State.initTokens s slot c)).updSlot slot
        (fun cs => { cs with iter := step, dispatched := 0 }))
    else s) s

/-- A slot's tables leave every core. -/
def State.unloadCores (s : State) (slot : Nat) : State :=
  (List.range 256).foldl (fun s c =>
    if ((State.core s c).slot slot).loaded then
      State.updCore s c (fun k => { k.clearSlot slot (s.tileMask slot) (s.regMask slot) [] with
        slots := SMap.del (k.clearSlot slot (s.tileMask slot) (s.regMask slot) []).slots slot })
    else s) s

end Sys2Proof.Machine
end

