-- ==== Sys2Proof/Machine/HostIngest.lean ====
section
/-! DEFINITION. Ingest (R378 to R387): rings and their descriptors, frames and their checks, landing, the ingest tokens and
the fence. -/

namespace Sys2Proof.Machine

open Sys2Proof

/-! Rings (R379, R382). -/

/-- The job slot of a ring. -/
def State.ringSlot (s : State) (r : Nat) : Nat := s.rfld (ringReg r 8) 9 8

/-- A ring is enabled. -/
def State.ringEnabled (s : State) (r : Nat) : Bool := decide (s.rfld (ringReg r 8) 10 10 = 1)

/-- R382: LOG2_ENTRIES in 4 to 16 and a base of 4 KiB alignment. -/
def State.ringValid (s : State) (r : Nat) : Bool :=
  let l := s.rfld (ringReg r 8) 4 0
  decide (4 ≤ l) && decide (l ≤ 16) && decide (s.rfld (ringReg r 0) 11 0 = 0)

/-- A ring is faulted. -/
def State.ringFaulted (s : State) (r : Nat) : Bool := decide (s.rfld (ringReg r 0x28) 0 0 = 1)

/-- R398: ingest is stopped until the host acknowledges the present epoch. -/
def State.ingestStopped (s : State) : Bool := decide (s.rfld 0x1820 31 0 ≠ s.rfld 0x1810 31 0)

/-- The module may take the ring's next entry: enabled, valid, not faulted, with entries posted, nothing in progress. -/
def State.ringServes (s : State) (r : Nat) : Bool :=
  s.hostUp && s.ringEnabled r && s.ringValid r && !s.ringFaulted r && !s.ingestStopped &&
  decide (s.rfld (ringReg r 0x18) 31 0 ≠ s.rfld (ringReg r 0x10) 31 0)

/-- R382: a ring stops at the faulting entry. -/
def State.ringFault (s : State) (r code : Nat) : State :=
  let cons := s.rfld (ringReg r 0x18) 31 0
  let s := s.updRing r (fun x => { x with desc := none, frame := none, fails := 0 })
  let s := (s.setFld (ringReg r 0x20) 15 8 code).setFld (ringReg r 0x20) 47 16 cons
  let s := s.setBit (ringReg r 0x28) 0
  (s.raiseError { code := 0x0501, unit := 12, index := r, slot := s.ringSlot r, d5 := r, d6 := code, d7 := cons }).raiseInt 7

/-- R382: an enabled ring whose configuration is invalid faults with code 6. -/
def State.ringCheck (s : State) (r : Nat) : State :=
  if s.ringEnabled r && !s.ringValid r && !s.ringFaulted r then s.ringFault r 6 else s

/-- R382: a failed read or check: the entry is taken again, and the fourth consecutive failure faults the ring. -/
def State.ringFailure (s : State) (r code : Nat) : State :=
  let n := (s.ring r).fails + 1
  if n ≥ 4 then s.ringFault r code
  else (s.updRing r (fun x => { x with desc := none, frame := none, fails := n })).inc (ringReg r 0x48) 1

/-- A host write of HL_RING_DB. -/
def State.ringDoorbell (s : State) (r : Nat) (v : Word) : State := (s.writePlain (ringReg r 0x10) v).ringCheck r

/-- RING_DOORBELL (R379). -/
def execRingDoorbell (r : RingId) (v : Word) (s : State) : Res := .next (if s.hostUp then s.ringDoorbell r.val v else s)

/-- A host write of HL_RING_CFG. -/
def State.ringConfig (s : State) (r : Nat) (v : Word) : State := (s.writePlain (ringReg r 8) v).ringCheck r

/-- RING_CONFIG (R382). -/
def execRingConfig (r : RingId) (v : Word) (s : State) : Res := .next (if s.hostUp then s.ringConfig r.val v else s)

/-- A host write of HL_RING_FAULTED: writing 1 resumes a faulted ring, which faults again while its configuration is
invalid. -/
def State.ringResume (s : State) (r : Nat) (v : Word) : State := (s.writePlain (ringReg r 0x28) v).ringCheck r

/-- RING_RESUME (R382). -/
def execRingResume (r : RingId) (v : Word) (s : State) : Res := .next (if s.hostUp then s.ringResume r.val v else s)

/-- R382, step 2: reserved bits, alignment, LEN, and a LOCAL frame within the ingest window. -/
def State.descOk (s : State) (addr w1 : Nat) : Bool :=
  let len := bits w1 31 0
  decide (bits w1 63 33 = 0) && decide (addr % 8 = 0) && decide (32 ≤ len) && decide (len ≤ s.modCfg 0x902 8192) &&
  (decide (bits w1 32 32 = 0) || decide (addr + len ≤ s.ingestWindow * 2 ^ 20))

/-- DESCRIPTOR_READ (R382, steps 1 and 2): the module reads the ring's next entry, and `res` is what the read returned. -/
def execDescriptorRead (r : RingId) (res : ReadResult) (s : State) : Res :=
  .next (if !s.ringServes r.val || (s.ring r.val).desc.isSome then s
  else
    let n := 2 ^ s.rfld (ringReg r.val 8) 4 0
    let s := s.emit (.hostRead (s.regN (ringReg r.val 0) + 16 * (s.rfld (ringReg r.val 0x18) 31 0 % n)) 16)
    match res with
    | .failed => s.ringFailure r.val 4
    | .ok bs =>
      let addr := fieldAt bs 0 8
      let w1 := fieldAt bs 8 8
      if s.descOk addr w1 then s.updRing r.val (fun x => { x with desc := some (addr, bits w1 31 0, decide (bits w1 32 32 = 1)) })
      else s.ringFault r.val 1)

/-! Frames (R381, R382). -/

/-- R381: the length that a frame's counts give. -/
def State.frameLength (s : State) (slot : Nat) (f : List Byte) : Nat :=
  let nt := s.tableCount slot
  let total := ((List.range nt).map (s.bagCount slot f)).foldl (· + ·) 0
  let weights := ((List.range nt).map (fun t => if s.weighted slot t then s.bagCount slot f t else 0)).foldl (· + ·) 0
  s.dirOffset slot + roundUp (4 * nt) 8 + 8 * total + roundUp (4 * weights) 8

/-- R381: CHECK holds over bytes 0 to 23 and 32 to LEN - 1. -/
def frameChecks (f : List Byte) : Bool := decide (fieldAt f 24 4 = crc32c (f.take 24 ++ f.drop 32))

/-- R382, step 5: the header against Table 13-4, the body layout and the descriptor's LEN. -/
def State.headerOk (s : State) (slot : Nat) (f : List Byte) : Bool :=
  let w1 := fieldAt f 8 8
  let w2 := fieldAt f 16 8
  decide (bits w1 15 0 = 0x5346) && decide (bits w1 23 16 = 1) && decide (bits w1 25 24 = slot) && decide (bits w1 31 26 = 0) &&
  decide (bits w1 63 32 = f.length) && decide (bits w1 63 32 = s.frameLength slot f) && decide (bits w2 15 0 = s.jobCfg slot 0x900 0) &&
  decide (bits w2 31 16 = s.jobCfg slot 0x901 0) && decide (bits w2 47 32 = s.tableCount slot) && decide (bits w2 63 48 = 0) &&
  decide (fieldAt f 28 4 = 0) &&
  (List.range (s.tableCount slot)).all (fun t => decide (fieldAt f (s.dirOffset slot + 4 * t + 2) 2 = 0))

/-- SEQ of a frame. -/
def frameSeq (f : List Byte) : Nat := fieldAt f 0 8

/-- R382, steps 4 to 6, on the bytes read. -/
def State.acceptFrame (s : State) (r len : Nat) (bs : List Byte) : State :=
  let f := bs.take len
  if f.length < len || !frameChecks f then s.ringFailure r 3
  else if !s.headerOk (s.ringSlot r) f then s.ringFault r 2
  else
    let lower := match (s.ring r).lastSeq with | some q => decide (frameSeq f < q) | none => false
    if lower then s.ringFault r 5
    else s.updRing r (fun x => { x with frame := some f, fails := 0, lastSeq := some (frameSeq f) })

/-- The host link's class 4 requests (Table 10-4). -/
def hlAsker (slot : Nat) : Asker := { cls := 4, unit := 12, slot := slot }

/-- FRAME_READ (R382): the frame of the checked descriptor is read, from host memory as `res` says or, with LOCAL = 1, from the
ingest window. -/
def execFrameRead (r : RingId) (res : ReadResult) (s : State) : Res :=
  .next (match (s.ring r.val).desc with
  | none => s
  | some (addr, len, loc) =>
    if !s.ringServes r.val || (s.ring r.val).frame.isSome then s
    else if loc then
      let m := s.memRead (hlAsker (s.ringSlot r.val)) (s.bar2Base + addr) len
      match m.bytes with
      | some bs => m.st.acceptFrame r.val len bs
      | none => m.st.ringFailure r.val 4
    else
      let s := s.emit (.hostRead addr len)
      match res with
      | .ok bs => s.acceptFrame r.val len bs
      | .failed => s.ringFailure r.val 4)

/-! Landing (R378, R383 to R385). -/

/-- Where a sequence number stands in a slot's stream: its step, microbatch and place. -/
structure FramePlace where
  step : Nat := 0
  mb : Nat := 0
  f : Nat := 0
  deriving DecidableEq, Repr

/-- R19, R378: the place of a sequence number; none before the stream's first. -/
def State.framePlace (s : State) (slot q : Nat) : Option FramePlace :=
  let first := (s.job slot).firstSeq
  if q < first then none
  else
    let d := q - first
    let b := s.stepSamples slot
    let m := s.microbatch slot
    some { step := d / b + 1, mb := d % b / m, f := d % b % m }

/-- R383: the base of the landing area. -/
def State.landingBase (s : State) (slot : Nat) : Nat := s.objectBase slot 0x80040002 (s.memberCount slot)

/-- R383: the landing address of a frame. -/
def State.landingAddr (s : State) (slot : Nat) (p : FramePlace) : Nat :=
  let m := s.microbatch slot
  let n := s.memberCount slot
  let i := (p.mb - (s.job slot).position) / n
  s.landingBase slot + (p.step % 2 * mbShare (s.mbTotal slot) n 0 * m + i * m + p.f) * s.modCfg 0x902 8192

/-- The sequence numbers of a step's own microbatches in ascending order. -/
def State.stepSeqs (s : State) (slot step : Nat) : List Nat := (List.range (s.job slot).mbCount).flatMap (s.mbSeqs slot step)

/-- The first own sequence number that has not landed, with its step, from a step on. -/
def State.nextExpected (s : State) (slot : Nat) : Nat → Nat → Nat × Nat
  | 0, step => (step, ((s.stepSeqs slot step).head?).getD (s.seqOf slot step 0 0))
  | n + 1, step =>
    match (s.stepSeqs slot step).find? (fun q => (SMap.find? (s.job slot).landed q).isNone) with
    | some q => (step, q)
    | none => if (s.job slot).mbCount = 0 then (step, s.seqOf slot step 0 0) else State.nextExpected s slot n (step + 1)

/-- HL_INGEST_STEP and HL_INGEST_NEXT_SEQ follow the primary's ingest. -/
def State.refreshIngest (s : State) : State :=
  let x := s.nextExpected 0 2 ((s.job 0).committed + 1)
  (s.setReg 0x1800 (BitVec.ofNat 64 x.1)).setReg 0x1808 (BitVec.ofNat 64 x.2)

/-- The ring's entry is done: the consumer index advances and RING_PROGRESS is raised. -/
def State.ringAdvance (s : State) (r : Nat) : State :=
  let s := s.updRing r (fun x => { x with desc := none, frame := none })
  (s.setFld (ringReg r 0x18) 31 0 (s.rfld (ringReg r 0x18) 31 0 + 1)).raiseInt (16 + r)

/-- R384: lands a frame. -/
def State.landFrame (s : State) (r slot : Nat) (p : FramePlace) (f : List Byte) : State :=
  let s := (s.memWrite (hlAsker slot) (s.landingAddr slot p) f).2
  let s := s.updJob slot (fun j => { j with landed := SMap.put j.landed (frameSeq f) f })
  ((s.inc (ringReg r 0x30) 1).ringAdvance r).signalIngest slot

/-- R385: a discarded frame, counted at a ring counter. -/
def State.dropFrame (s : State) (r off : Nat) : State := (s.inc (ringReg r off) 1).ringAdvance r

/-- R383 to R385: takes the checked frame of a ring. -/
def State.takeLanding (s : State) (r : Nat) (f : List Byte) : State :=
  let slot := s.ringSlot r
  let j := s.job slot
  let q := frameSeq f
  if !j.member || (j.restore.isOpen && decide (j.restore.step = 2 ^ 64 - 1)) then s
  else
    match s.framePlace slot q with
    | none => s.dropFrame r 0x38
    | some p =>
      let own := decide (p.mb % j.ranks.length = j.position)
      if !own || p.step ≤ j.restore.step then s.dropFrame r 0x38
      else if (SMap.find? j.landed q).isSome || p.step ≤ j.committed then s.dropFrame r 0x40
      else if j.committed + 2 < p.step then s
      else s.landFrame r slot p f

/-- FRAME_LANDING (R383): the checked frame lands, is discarded, or holds its ring. -/
def execFrameLanding (r : RingId) (s : State) : Res :=
  .next (match (s.ring r.val).frame with
  | none => s
  | some f => if s.ringServes r.val then (s.takeLanding r.val f).refreshIngest else s)

/-- INGEST_FENCE (R387): the read completes with HL_INGEST_EPOCH once no earlier BAR2 write waits. -/
def execIngestFence (s : State) : Res :=
  .next (if s.hostUp && s.link.earlyWrites.isEmpty then s.emit (.completion (leBytes 8 (s.regN 0x1810))) else s)

end Sys2Proof.Machine
end

