-- ==== Sys2Proof/Machine/HostExport.lean ====
section
/-! DEFINITION. Export (R388 to R397): the export ring and its records, the sweep, manifests, the fences and
acknowledgements. -/

namespace Sys2Proof.Machine

open Sys2Proof

/-- Changes the export state of a slot. -/
def State.updExp (s : State) (slot : Nat) (f : ExportSlot → ExportSlot) : State :=
  s.updJob slot (fun j => { j with exp := f j.exp })

/-! The ring (R388). -/

/-- LOG2_BYTES names a ring. -/
def State.expRing (s : State) : Bool :=
  let l := s.rfld (expReg 8) 5 0
  decide (12 ≤ l) && decide (l ≤ 34)

/-- Bytes of the export ring. -/
def State.expSize (s : State) : Nat := 2 ^ s.rfld (expReg 8) 5 0

/-- The export write pointer. -/
def State.expPtr (s : State) : Nat := s.regN (expReg 0x18)

/-- Table 13-6: the header of a record. -/
def recordHeader (kind slot len step w2 w3 : Nat) : List Byte :=
  wordsBytes ([kind * 2 ^ 56 + slot * 2 ^ 54 + len, step, w2, w3].map (BitVec.ofNat 64))

/-- R388: bytes before the ring's end that a record of `n` bytes leaves unused. -/
def State.expTail (s : State) (n : Nat) : Nat :=
  let left := s.expSize - s.expPtr % s.expSize
  if left < n then left else 0

/-- R388: whether there is room for a record of `n` bytes. -/
def State.expRoom (s : State) (n : Nat) : Bool :=
  s.expRing && decide (s.expPtr + s.expTail n + n ≤ s.regN (expReg 0x10) + s.expSize)

/-- Writes bytes into the ring at the write pointer. -/
def State.expPut (s : State) (bs : List Byte) : State :=
  if bs.isEmpty then s
  else
    let s := s.emit (.hostWrite (s.regN (expReg 0) + s.expPtr % s.expSize) bs)
    s.setReg (expReg 0x18) (BitVec.ofNat 64 (s.expPtr + bs.length))

/-- R388: what fills the ring to its end: a PAD record, or zeros where no header fits. -/
def padBytes (n : Nat) : List Byte := if n < 32 then List.replicate n 0 else recordHeader 0 0 n 0 0 0 ++ List.replicate (n - 32) 0

/-- R388, R389: writes one record of a slot; without room, export waits and EXPORT_FULL is raised. The second part tells whether
the record was written. -/
def State.exportRecord (s : State) (kind slot step w2 w3 : Nat) (body : List Byte) : State × Bool :=
  let rec_ := recordHeader kind slot (32 + body.length) step w2 w3 ++ body
  if !s.hostUp then (s, false)
  else if s.expRoom rec_.length then
    let s := (s.expPut (padBytes (s.expTail rec_.length))).expPut rec_
    let s := s.updExp slot (fun e => { e with
      records := SMap.upd e.records step 0 (· + 1)
      bytes := SMap.upd e.bytes step 0 (· + rec_.length)
      hashed := SMap.upd e.hashed step [] (· ++ rec_) })
    (s.clearBit (expReg 0x40) 8, true)
  else ((s.setBit (expReg 0x40) 8).raiseInt 8, false)

/-- Word 3 of a record that carries the CRC of its body. -/
def crcWord (body : List Byte) (low : Nat) : Nat := crc32c body * 2 ^ 32 + low

/-- R559: phase 10 of a slot stands until the slot has voted INPUTS_LOST. -/
def State.exportStopped (s : State) (slot : Nat) : Bool :=
  let j := s.job slot
  !j.member || j.stopped || j.halted || decide (j.cause = 0x3001)

/-! Rows (R245, R390). -/

/-- The row id of a record's word 3. -/
def rowWord (k : Key) : Nat := if k.row = defaultRow then 2 ^ 64 - 1 else k.row

/-- EXPORT_ROW (R390): writes the ROW record of the oldest row difference. -/
def execExportRow (sl : SlotId) (s : State) : Res :=
  .next (match (s.job sl.val).owner.diffs with
  | [] => s
  | d :: rest =>
    if s.exportStopped sl.val then s
    else
      let r := s.exportRecord 1 sl.val d.step d.key.table (rowWord d.key) (padTo 8 d.bytes)
      if r.2 then r.1.updOwner sl.val (fun o => { o with diffs := rest }) else r.1)

/-- R193: the in-shard index of a row. -/
def State.shardIndex (s : State) (slot t r : Nat) : Nat := (s.placeRow slot t r).j

/-- R390: the rows that this module owes a sweep of in a step: owned rows by in-shard index, and owned trainable default rows. -/
def State.sweepKeys (s : State) (slot step : Nat) : List Key :=
  let k := s.modCfg 0x905 4096
  (List.range (s.tableCount slot)).flatMap (fun t =>
    ((List.range (s.rows slot t)).filter (fun r => decide (s.shardIndex slot t r % k = step % k))).filterMap (fun r =>
      let x := s.keyOf slot t r
      if s.ownerOf slot x.shard = s.ownRank then some x else none) ++
    (let x := s.keyOf slot t defaultRow
     if step % k = 0 && !s.frozenDefault slot t && s.ownerOf slot x.shard = s.ownRank then [x] else []))

/-- EXPORT_SWEEP (R390): reads and writes the SWEEP record of the next row due; an unreadable record is the loss of committed
state (R559). -/
def execExportSweep (sl : SlotId) (s : State) : Res :=
  .next (match (s.job sl.val).exp.sweeps with
  | [] => s
  | (n, k) :: rest =>
    if s.exportStopped sl.val || !s.expRing || !s.hostUp then s
    else State.unlessStalled s 12 sl.val (fun s =>
      let a := s.recordAddr sl.val k
      let len := (s.recLayout sl.val k.table).check + 4
      let m := s.memRead { cls := 4, unit := 12, slot := sl.val, step := n, phase := 10 } a len
      match m.bytes with
      | none => m.st.inputsLost 0x0301 12 0 sl.val n 10 (s.stackOf sl.val k) 0 a
      | some bs =>
        let r := m.st.exportRecord 2 sl.val n k.table (rowWord k) (padTo 8 bs)
        if r.2 then r.1.updExp sl.val (fun e => { e with sweeps := rest }) else r.1))

/-! Dense slices (R391). -/

/-- Elements of a slice that are not padding. -/
def State.liveElems (s : State) (slot tid i : Nat) : Nat := min sliceLen (s.elements slot tid - sliceLen * i)

/-- The DENSE records of a slice of step `n`: part and values, none where a page cannot be read. -/
def State.densePages (s : State) (slot g n : Nat) (x : SliceState) : Option (List (List Byte)) × State :=
  (List.range (1 + s.denseMoments slot)).foldl (fun acc part =>
    match acc.1 with
    | none => acc
    | some l =>
      let m := acc.2.memRead { cls := 4, unit := 12, slot := slot, step := n, phase := 10 }
        (s.densePage slot g (n % 2) part) (4 * s.liveElems slot x.tensor x.index)
      (m.bytes.map (fun b => l ++ [b]), m.st)) (some [], s)

/-- Bytes that the DENSE records of a slice take. -/
def denseBytes (l : List (List Byte)) : Nat := (l.map (fun b => 32 + roundUp b.length 8)).foldl (· + ·) 0

/-- EXPORT_DENSE (R391): once the slice's kernel has written the buffer of the step, its records go out together. -/
def execExportDense (sl : SlotId) (g : Nat) (s : State) : Res :=
  .next (match (s.job sl.val).exp.dense.find? (fun x => decide (x.2 = g)), SMap.find? (s.job sl.val).slices g with
  | some (n, _), some x =>
    if s.exportStopped sl.val || x.mirror || decide (x.gatherStamp (n + 1) ≠ n % 2 ^ 32) || !s.expRing || !s.hostUp then s
    else State.unlessStalled s 12 sl.val (fun s =>
      let p := s.densePages sl.val g n x
      match p.1 with
      | none => p.2.inputsLost 0x0301 12 0 sl.val n 10 0 0 (s.densePage sl.val g (n % 2) 0)
      | some l =>
        if !s.expRoom (denseBytes l) then (p.2.setBit (expReg 0x40) 8).raiseInt 8
        else
          let s := ((l.zip (List.range l.length)).foldl (fun s y =>
            let body := padTo 8 y.1
            (State.exportRecord s 3 sl.val n (x.tensor + y.2 * 2 ^ 16 + x.index * 2 ^ 24) (crcWord body (y.1.length / 4)) body).1) p.2)
          s.updExp sl.val (fun e => { e with dense := e.dense.filter (fun y => y != (n, g)) }))
  | _, _ => s)

/-! Numerics, the map and manifests (R392 to R394). -/

/-- The 136 bytes of a recipe-managed tensor in a NUMERICS record. -/
def histBytes (tid : Nat) (h : TensorHist) : List Byte :=
  leBytes 2 tid ++ leBytes 1 h.refs.length ++ leBytes 1 h.fallback ++ leBytes 4 0 ++
  (List.range 64).flatMap (fun i => leBytes 2 (atD h.refs i 0))

/-- R392: the body of the NUMERICS record of step `n`. -/
def State.numericsBody (s : State) (slot n : Nat) : List Byte :=
  let j := s.job slot
  let rt := s.recipeTensors slot
  let w1 := (if j.num.lapsed then 1 else 0) + s.jobCfg slot 0x204 16 * 2 ^ 8 + rt.length * 2 ^ 16 + s.tableCount slot * 2 ^ 32
  leBytes 8 (s.seqOf slot (n + 1) 0 0) ++ leBytes 8 w1 ++
  padTo 8 ((List.range (s.tableCount slot)).flatMap (fun t => leBytes 2 (s.gT slot t + 151).toNat)) ++
  rt.flatMap (fun t => histBytes t (SMap.getD j.num.hist t {}))

/-- R393: the body of a MAP record. -/
def State.mapBody (s : State) (slot : Nat) : List Byte :=
  let j := s.job slot
  leBytes 8 (j.map.length + j.members.length * 2 ^ 32) ++ j.members.flatMap (leBytes 8) ++ padTo 8 (j.map.flatMap (leBytes 2))

/-- EXPORT_NUMERICS (R392): writes the NUMERICS record due. -/
def execExportNumerics (sl : SlotId) (s : State) : Res :=
  .next (match (s.job sl.val).exp.numerics with
  | [] => s
  | (n, body) :: rest =>
    if s.exportStopped sl.val then s
    else
      let r := s.exportRecord 4 sl.val n 0 (crcWord body 0) body
      if r.2 then r.1.updExp sl.val (fun e => { e with numerics := rest }) else r.1)

/-- EXPORT_MAP (R393): writes the MAP record due. -/
def execExportMap (sl : SlotId) (s : State) : Res :=
  .next (match (s.job sl.val).exp.maps with
  | [] => s
  | n :: rest =>
    if s.exportStopped sl.val then s
    else
      let body := s.mapBody sl.val
      let r := s.exportRecord 5 sl.val n 0 (crcWord body 0) body
      if r.2 then r.1.updExp sl.val (fun e => { e with maps := rest }) else r.1)

/-- R394: no other record of a step up to `n` is still due. -/
def State.recordsDone (s : State) (slot n : Nat) : Bool :=
  let e := (s.job slot).exp
  (s.job slot).owner.diffs.all (fun d => decide (n < d.step)) && e.sweeps.all (fun x => decide (n < x.1)) &&
  e.dense.all (fun x => decide (n < x.1)) && e.numerics.all (fun x => decide (n < x.1)) && e.maps.all (fun x => decide (n < x))

/-- Table 13-7: LAPSED and `numerics.fallback_ppm` of a step, at their places in word 2. -/
def State.manifestFlags (s : State) (slot : Nat) : Nat :=
  (if (s.job slot).num.lapsed then 2 ^ 8 else 0) + s.rfld (numReg 0x28) 31 0 * 2 ^ 32

/-- Table 13-7: the manifest's words 0 to 16 after its header. -/
def State.manifestWords (s : State) (slot n flags : Nat) (sign : Bool) : List Byte :=
  let j := s.job slot
  let h := (s.image.map (·.header)).getD []
  let w1 := s.ownRank + j.position * 2 ^ 12 + j.ranks.length * 2 ^ 24 + j.attempt % 256 * 2 ^ 37 + s.fuses.stepping % 256 * 2 ^ 45 +
    fieldAt h 0x100 1 * 2 ^ 53
  let w2 := fieldAt h 0x101 1 + flags + (if sign then 2 ^ 9 else 0) + (if s.fastFloat slot then 2 ^ 10 else 0)
  leBytes 8 s.fuses.serial ++ leBytes 8 w1 ++ leBytes 8 w2 ++ leBytes 8 (s.seqOf slot n 0 0) ++ leBytes 8 (s.seqOf slot (n + 1) 0 0) ++
  leBytes 8 (SMap.getD j.exp.records n 0) ++ leBytes 8 (SMap.getD j.exp.bytes n 0) ++ (sha512 (s.mapBody slot)).take 16 ++
  sha512 (SMap.getD j.exp.hashed n [])

/-- EXPORT_MANIFEST (R394): after the last other record of the step, the slot's manifest goes out and MANIFEST is raised. -/
def execExportManifest (sl : SlotId) (s : State) : Res :=
  .next (match (s.job sl.val).exp.manifests with
  | [] => s
  | (n, flags) :: rest =>
    if s.exportStopped sl.val || !s.recordsDone sl.val n then s
    else
      let sign := decide (s.modCfg 0x906 0 = 1)
      let body := s.manifestWords sl.val n flags sign
      let head := recordHeader 6 sl.val (32 + body.length + 64) n 0 0
      let sig := if sign then edSign s.fuses.deviceSeed (head ++ body) else List.replicate 64 0
      let r := s.exportRecord 6 sl.val n 0 0 (body ++ sig)
      if r.2 then
        (r.1.updExp sl.val (fun e => { e with
          manifests := rest, written := e.written ++ [n], records := SMap.del e.records n, bytes := SMap.del e.bytes n
          hashed := SMap.del e.hashed n })).raiseInt 1
      else r.1)

/-! The host's side (R388, R395 to R397). -/

/-- EXPORT_RELEASE (R388): the host writes HL_EXP_RPTR. -/
def execExportRelease (v : Word) (s : State) : Res := .next (if s.hostUp then s.writePlain (expReg 0x10) v else s)

/-- EXPORT_FENCE (R395): the read returns the export write pointer. -/
def execExportFence (s : State) : Res := .next (if s.hostUp then s.emit (.completion (leBytes 8 s.expPtr)) else s)

/-- HL_ACK_STEP of a slot. -/
def ackReg (slot : Nat) : Nat := expReg (0x20 + 8 * slot)

/-- R397: the unacknowledged count of a slot. -/
def State.unacked (s : State) (slot : Nat) : Nat := (s.job slot).committed - s.regN (ackReg slot)

/-- HL_EXP_STATUS shows the primary's unacknowledged count and its window hold (R30). -/
def State.refreshExport (s : State) : State :=
  let n := s.unacked 0
  (s.setFld (expReg 0x40) 7 0 (min 255 n)).setFld (expReg 0x40) 9 9 (if (s.job 0).member && s.exportWindow ≤ n then 1 else 0)

/-- R454: the COUNTERS item of a slot (Table 15-8). -/
def State.queueCounters (s : State) (slot : Nat) : State :=
  let j := s.job slot
  let w := slot + (if j.member then 4 else 0) + s.ownRank * 2 ^ 3 + j.position * 2 ^ 15 + j.ranks.length * 2 ^ 27
  let next := (s.nextExpected slot 2 (j.committed + 1)).2
  s.jqueue { kind := 8, body := [w, j.committed, s.regN (ackReg slot), j.attempt, next, s.rfld 0x1810 31 0].map (BitVec.ofNat 64) }

/-- R396, R8: a host write of HL_ACK_STEP; the value is journalled. -/
def State.ackStep (s : State) (slot : Nat) (v : Word) : State :=
  if s.regN (ackReg slot) < v.toNat && (s.job slot).exp.written.contains v.toNat then ((s.setReg (ackReg slot) v).refreshExport).queueCounters slot
  else s.inc (expReg 0x48) 1

/-- ACK_STEP (R396). -/
def execAckStep (sl : SlotId) (v : Word) (s : State) : Res := .next (if s.hostUp then s.ackStep sl.val v else s)

end Sys2Proof.Machine
end

