-- ==== Sys2Proof/Machine/Restore.lean ====
section
/-! DEFINITION. Restore (R398 to R401): opening, the need list, restore records and where they go, the check, and the replay
acknowledgement. -/

namespace Sys2Proof.Machine

open Sys2Proof

/-- The step of a restore that does not yet know its own. -/
def unknownStep : Nat := 2 ^ 64 - 1

/-- HL_RESTORE_STATUS. -/
def restoreStatus : Nat := expReg 0x100

/-- Changes the restore of a slot. -/
def State.updRestore (s : State) (slot : Nat) (f : RestoreState → RestoreState) : State :=
  s.updJob slot (fun j => { j with restore := f j.restore })

/-- The slot whose restore is open: one at a time, in ascending order. -/
def State.restoring (s : State) : Option Nat := [0, 1, 2, 3].find? (fun i => (s.job i).restore.isOpen)

/-! The need list (R399, R400). -/

/-- The shards that this module owns. -/
def State.ownShards (s : State) (slot : Nat) : List Nat :=
  (List.range (s.shards slot)).filter (fun x => decide (s.ownerOf slot x = s.ownRank))

/-- Every key of a shard: its rows in every table, and the default rows that live in it (R193, R194). -/
def State.shardKeys (s : State) (slot shard : Nat) : List Key :=
  (List.range (s.tableCount slot)).flatMap (fun t =>
    ((List.range (s.rows slot t)).map (s.keyOf slot t) ++ [s.keyOf slot t defaultRow]).filter (fun k => decide (k.shard = shard)))

/-- Table 13-9: word 0 [15:0] of a row's need. -/
def rowNeed (k : Key) : Nat := k.table + (if k.row = defaultRow then 1024 else 0)

/-- R399: whether a stamp shows a step after `c`. -/
def stampAfter (stamp c : Nat) : Bool :=
  let d := (stamp + 2 ^ 32 - c % 2 ^ 32) % 2 ^ 32
  decide (1 ≤ d) && decide (d < 2 ^ 31)

/-- R399: the owned rows whose stamp shows a step after `c`. -/
def State.changedRows (s : State) (slot c : Nat) : List Key :=
  (s.ownShards slot).flatMap (fun x => (s.shardKeys slot x).filter (fun k =>
    stampAfter (leNat (Mem.bytes s.mem (s.recordAddr slot k + (s.recLayout slot k.table).stamp) 4)) c))

/-- R399: a delta restore of step `c` will do. -/
def State.deltaOk (s : State) (slot c : Nat) : Bool :=
  let j := s.job slot
  decide (j.layoutStep ≤ c) && decide (j.admitStep < c) && (match j.damaged with | some d => decide (d < c) | none => true)

/-- The slices held, as needs. -/
def State.sliceNeeds (s : State) (slot : Nat) : List (Nat × Nat × Nat) :=
  (s.job slot).slices.map (fun x => (3, x.2.tensor, x.2.index))

/-- R399: the needs that depend on the map: shards or changed rows, and slices. -/
def State.bulkNeeds (s : State) (slot c : Nat) (delta : Bool) : List (Nat × Nat × Nat) :=
  (if delta then (s.changedRows slot c).map (fun k => (1, rowNeed k, rowWord k)) else (s.ownShards slot).map (fun x => (2, 0, x))) ++
  s.sliceNeeds slot

/-- NEEDS_DONE follows the list. -/
def State.refreshNeeds (s : State) (slot : Nat) : State :=
  let r := (s.job slot).restore
  if r.isOpen && r.whole && r.unwritten.isEmpty then s.setBit restoreStatus 2 else s

/-- Adds needs to the list. -/
def State.addNeeds (s : State) (slot : Nat) (l : List (Nat × Nat × Nat)) (whole : Bool) : State :=
  (s.updRestore slot (fun r => { r with needs := r.needs ++ l, unwritten := r.unwritten ++ l, whole := whole })).refreshNeeds slot

/-! Opening (R398). -/

/-- A slot's state at committed step `c`: no uncommitted work, no records due, nothing signalled. -/
def JobSlot.atStep (j : JobSlot) (c : Nat) : JobSlot :=
  { j with
    committed := c, voted := c, okStep := c, closedStep := c, hardStep := none, phase9 := c, cause := 0, mirrorBad := false, retries := 0
    closingRepeats := 0, reexecs := [], reexecPhase := 0, replay := none, countsRx := [], xchStep := 0, rounds := [], spillWait := [], owner := {}, gathers := []
    bags := [], signalled := 0, signalStep := c + 1, exp := {}, hardBits := 0, proposal := [], permuting := false, permuteSenders := 0, permuteCounts := [], permuteStage := []
    layoutPending := false, mirrorTries := 0, slices := j.slices.map (fun x => (x.1, { x.2 with grad := [], written := [] }))
    num := { gT := j.num.gT, gPrev := j.num.gPrev, hist := j.num.hist, lapsed := j.num.lapsed } }

/-- R398, step 1: the slot goes to step `c`: landed frames of later steps are discarded and the replay sequence is set. -/
def State.settle (s : State) (slot c : Nat) : State :=
  let first := s.seqOf slot (c + 1) 0 0
  let s := s.updJob slot (fun j => { j.atStep c with landed := j.landed.filter (fun x => decide (x.1 < first)) })
  let s := s.setReg (expReg 0x108) (BitVec.ofNat 64 c)
  if slot = 0 then (s.setReg 0x1818 (BitVec.ofNat 64 first)).setFld (denseReg 0) 0 0 (c % 2) else s

/-- R398, R400: opens the restore of a slot, at admission without a step. Ingest stops until the host acknowledges the new
epoch. -/
def State.openRestore (s : State) (slot : Nat) (admission : Bool) (c : Nat) : State :=
  let delta := !admission && s.deltaOk slot c
  let s := s.setFld 0x1810 31 0 (s.rfld 0x1810 31 0 + 1)
  let s := [0x120, 0x128, 0x130, 0x138].foldl (fun s o => State.setReg s (expReg o) 0) s
  let s := s.setFld restoreStatus 3 0 (if delta then 3 else 1)
  let s := s.updRestore slot (fun _ => { isOpen := true, admission := admission, step := if admission then unknownStep else c })
  let s := if admission then
      ((s.updJob slot (fun j => { j with landed := [] })).setReg (expReg 0x108) (BitVec.ofNat 64 unknownStep)).addNeeds slot [(4, 0, 0)] false
    else
      let s := s.settle slot c
      let first := (4, 0, 0) :: (if c = 0 then [] else [(5, 0, 0)])
      if delta then s.addNeeds slot (first ++ s.bulkNeeds slot c true) true
      else if c = 0 then
        let s := s.updJob slot (fun j => { j with map := s.firstMap slot j.ranks })
        s.addNeeds slot (first ++ s.bulkNeeds slot 0 false) true
      else s.addNeeds slot first false
  (s.raiseInt 2).raiseInt 3

/-- NEED_ENTRY_WRITE (R400, Table 13-9): the next need goes into the host's need ring. -/
def execNeedEntryWrite (s : State) : Res :=
  .next (match s.restoring with
  | none => s
  | some slot =>
    match (s.job slot).restore.unwritten with
    | [] => s
    | n :: rest =>
      let l := s.rfld (expReg 0x118) 4 0
      let base := s.regN (expReg 0x110)
      let prod := s.regN (expReg 0x120)
      if l < 8 || 24 < l || base % 4096 ≠ 0 || !s.hostUp || s.regN (expReg 0x128) + 2 ^ l ≤ prod then s
      else
        let s := s.emit (.hostWrite (base + 16 * (prod % 2 ^ l)) (wordsBytes [BitVec.ofNat 64 (n.1 * 2 ^ 56 + n.2.1), BitVec.ofNat 64 n.2.2]))
        let s := s.inc (expReg 0x120) 1
        ((s.updRestore slot (fun r => { r with unwritten := rest })).refreshNeeds slot).raiseInt 3)

/-- NEED_LIST_CONFIG (R400): the host writes HL_NEED_BASE or HL_NEED_SIZE. -/
def execNeedListConfig (off : Nat) (v : Word) (s : State) : Res :=
  .next (if s.hostUp && (off = expReg 0x110 || off = expReg 0x118) then s.writePlain off v else s)

/-- NEED_RELEASE (R400): the host writes HL_NEED_CONS. -/
def execNeedRelease (v : Word) (s : State) : Res := .next (if s.hostUp then s.writePlain (expReg 0x128) v else s)

/-- RESTORE_DOORBELL (R401): the host writes HL_RESTORE_DB. -/
def execRestoreDoorbell (v : Word) (s : State) : Res := .next (if s.hostUp then s.writePlain (expReg 0x130) v else s)

/-! Restore records (R389, R401). -/

/-- Bytes of the restore window. -/
def State.windowSize (s : State) : Nat := s.link.barGib * gib - s.ingestWindow * 2 ^ 20

/-- The header of a record. -/
structure RecHead where
  w0 : Nat := 0
  step : Nat := 0
  w2 : Nat := 0
  w3 : Nat := 0
  deriving DecidableEq, Repr

/-- Reads a record header. -/
def recHead (bs : List Byte) : RecHead := { w0 := fieldAt bs 0 8, step := fieldAt bs 8 8, w2 := fieldAt bs 16 8, w3 := fieldAt bs 24 8 }

/-- A record is ignored and counted (R401). -/
def State.badRecord (s : State) : State := s.inc (expReg 0x148) 1

/-- Marks an item as supplied. -/
def State.supply (s : State) (slot : Nat) (x : Nat × Nat × Nat) : State :=
  s.updRestore slot (fun r => { r with supplied := if r.supplied.contains x then r.supplied else r.supplied ++ [x] })

/-- R401: a ROW record goes to its place when its check holds and it answers a need. -/
def State.placeRestoredRow (s : State) (slot : Nat) (h : RecHead) (body : List Byte) : State :=
  let t := bits h.w2 9 0
  let row := if h.w3 = 2 ^ 64 - 1 then defaultRow else h.w3
  let k := s.keyOf slot t row
  let l := s.recLayout slot t
  let r := (s.job slot).restore
  let wanted := r.needs.contains (1, rowNeed k, h.w3) || (r.needs.contains (2, 0, k.shard))
  let bs := body.take (l.check + 4)
  if s.tableCount slot ≤ t || (row ≠ defaultRow && s.rows slot t ≤ row) || body.length ≠ roundUp (l.check + 4) 8 || !wanted ||
      fieldAt bs l.check 4 ≠ crc32c (keyBytes k ++ bs.take l.check) then s.badRecord
  else
    let m := s.memWrite (hlAsker slot) (s.recordAddr slot k) (bs ++ List.replicate (l.size - bs.length) 0)
    m.2.supply slot (1, rowNeed k, h.w3)

/-- R258, R269: a slice's working copy of its master values, rounded to nearest, as the bytes of its page. -/
def workImage (f : Fmt) (e5 : Bool) (ws : List W32) : List Byte :=
  match f with
  | .sb8 | .sb4 =>
    let eb := if f = .sb8 then 1024 else 512
    let gs := (List.range (cdiv ws.length 1024)).map (fun g => (encodeWeights f e5 (32 * g) ((ws.drop (1024 * g)).take 1024)).1)
    padTo 64 (gs.flatMap (fun b => b.take eb)) ++ padTo 64 (gs.flatMap (fun b => (b.drop eb).take 128)) ++
      padTo 64 (gs.flatMap (fun b => (b.drop (eb + 128)).take 32))
  | _ => padTo 64 (encodeWeights f e5 0 ws).1

/-- R256, R401: a part of a slice goes into buffer c mod 2; the master also gives the working copy. -/
def State.placeSlicePart (s : State) (slot g c part : Nat) (x : SliceState) (body : List Byte) : State :=
  let n := s.sliceElems slot x.tensor x.index
  let bs := body ++ List.replicate (4 * n - body.length) 0
  let s := (s.memWrite (hlAsker slot) (s.densePage slot g (c % 2) part) bs).2
  if part = 0 then (s.memWrite (hlAsker slot) (s.densePage slot g (c % 2) 3) (workImage (s.workFmt slot x.tensor) (s.e5m2Inf slot) (bytesW32 n bs))).2
  else s

/-- R401: a DENSE record. -/
def State.placeRestoredSlice (s : State) (slot : Nat) (h : RecHead) (body : List Byte) : State :=
  let tid := bits h.w2 15 0
  let part := bits h.w2 23 16
  let idx := bits h.w2 55 24
  let c := (s.job slot).restore.step
  let n := bits h.w3 31 0
  match List.find? (fun x => decide (x.2.tensor = tid) && decide (x.2.index = idx)) (s.job slot).slices with
  | none => s.badRecord
  | some (g, x) =>
    if bits h.w3 63 32 ≠ crc32c body || s.denseMoments slot < part || n ≠ s.liveElems slot tid idx || body.length ≠ roundUp (4 * n) 8 ||
        !(s.job slot).restore.needs.contains (3, tid, idx) then s.badRecord
    else
      let s := (s.placeSlicePart slot g c part x (body.take (4 * n))).supply slot (3, tid + part * 2 ^ 16, idx)
      let done := (List.range (1 + s.denseMoments slot)).all (fun p => (s.job slot).restore.supplied.contains (3, tid + p * 2 ^ 16, idx))
      if done then
        s.updJob slot (fun j => { j with slices := SMap.upd j.slices g {} (fun y =>
          if c % 2 = 0 then { y with stamp0 := c % 2 ^ 32 } else { y with stamp1 := c % 2 ^ 32 }) })
      else s

/-- R361, R362: the map that a MAP record carries, over the present members. -/
def State.mapFromRecord (s : State) (slot : Nat) (body : List Byte) : List Nat :=
  let n := bits (fieldAt body 0 8) 47 32
  let serials := (List.range n).map (fun i => fieldAt body (8 + 8 * i) 8)
  let ents := (List.range (s.shards slot)).map (fun i => fieldAt body (8 + 8 * n + 2 * i) 2 % 4096)
  let j := s.job slot
  let old := s.shardsByPosition ents (fun r => atD serials r (2 ^ 64)) j.ranks
  let same := j.ranks.all (fun r => serials.contains (s.serialOf r)) && decide (n = j.ranks.length)
  let pos := if same then old.map (fun o => o.getD 0) else rebalance j.ranks.length old
  pos.map (fun p => atD j.ranks p 0)

/-- A MAP record is well made for the slot. -/
def State.mapRecordOk (s : State) (slot : Nat) (body : List Byte) : Bool :=
  let w := fieldAt body 0 8
  decide (bits w 31 0 = s.shards slot) && decide (body.length = 8 + 8 * bits w 47 32 + roundUp (2 * s.shards slot) 8)

/-- R401: a MAP record; a restore that knows its map adds its other needs. -/
def State.placeRestoredMap (s : State) (slot : Nat) (h : RecHead) (body : List Byte) : State :=
  let r := (s.job slot).restore
  if bits h.w3 63 32 ≠ crc32c body || !r.needs.contains (5, 0, 0) || r.supplied.contains (5, 0, 0) || !s.mapRecordOk slot body then s.badRecord
  else
    let s := (s.updJob slot (fun j => { j with map := s.mapFromRecord slot body })).supply slot (5, 0, 0)
    if r.whole then s else s.addNeeds slot (s.bulkNeeds slot r.step false) true

/-- R392: the numerics state that a NUMERICS record carries; none where it does not fit the slot or a code is out of range. -/
def State.numericsFrom (s : State) (slot c : Nat) (body : List Byte) : Option (Nat × NumericsState) :=
  let nt := s.tableCount slot
  let rt := s.recipeTensors slot
  let w1 := fieldAt body 8 8
  let codes := (List.range nt).map (fun t => fieldAt body (16 + 2 * t) 2)
  let o := 16 + roundUp (2 * nt) 8
  let hist := (List.range rt.length).map (fun i =>
    let b := o + 136 * i
    (fieldAt body b 2, ({ refs := (List.range (fieldAt body (b + 2) 1)).map (fun k => fieldAt body (b + 8 + 2 * k) 2),
                          fallback := fieldAt body (b + 3) 1 } : TensorHist)))
  if body.length ≠ o + 136 * rt.length || bits w1 31 16 ≠ rt.length || bits w1 47 32 ≠ nt || hist.map (·.1) ≠ rt ||
      hist.any (fun x => decide (64 < x.2.refs.length)) || !codes.all (fun x => x = 0 || (decide (2 ≤ x) && decide (x ≤ 278))) ||
      fieldAt body 0 8 < c * s.stepSamples slot then none
  else
    let gs : SMap Int := (codes.zip (List.range nt)).filterMap (fun x => if x.1 = 0 then none else some (x.2, (x.1 : Int) - 151))
    some (fieldAt body 0 8 - c * s.stepSamples slot, { gT := gs, gPrev := gs, hist := hist, lapsed := decide (w1 % 2 = 1) })

/-- R163, R398, R401: a NUMERICS record, which never clears the lapse flag of a job that runs; at admission it names the step and brings the rest of the need list. -/
def State.placeRestoredNumerics (s : State) (slot : Nat) (h : RecHead) (body : List Byte) : State :=
  let r := (s.job slot).restore
  if bits h.w3 63 32 ≠ crc32c body || r.supplied.contains (4, 0, 0) then s.badRecord
  else
    match s.numericsFrom slot h.step body with
    | none => s.badRecord
    | some (first, num) =>
      let s := (s.updJob slot (fun j => { j with
        firstSeq := first, num := { num with lapsed := num.lapsed || (!r.admission && j.num.lapsed) } })).supply slot (4, 0, 0)
      if !r.admission then s
      else
        let c := h.step
        let s := (s.updRestore slot (fun r => { r with step := c })).settle slot c
        let s := s.updJob slot (fun j => { j with admitStep := c, layoutStep := c })
        if c = 0 then
          let s := s.updJob slot (fun j => { j with map := s.firstMap slot j.ranks })
          s.addNeeds slot (s.bulkNeeds slot 0 false) true
        else s.addNeeds slot [(5, 0, 0)] false

/-- R401: what a whole record of the window does. -/
def State.placeRecord (s : State) (slot : Nat) (h : RecHead) (body : List Byte) : State :=
  let r := (s.job slot).restore
  let kind := bits h.w0 63 56
  if kind = 0 then s
  else if bits h.w0 55 54 ≠ slot || (r.step = unknownStep && kind ≠ 4) || (r.step ≠ unknownStep && h.step ≠ r.step) then s.badRecord
  else
    match kind with
    | 1 => s.placeRestoredRow slot h body
    | 3 => s.placeRestoredSlice slot h body
    | 4 => s.placeRestoredNumerics slot h body
    | 5 => s.placeRestoredMap slot h body
    | _ => s.badRecord

/-- R401: a header that gives no next record: everything written so far is discarded. -/
def State.resyncRecords (s : State) : State := s.badRecord.setReg (expReg 0x138) (s.reg (expReg 0x130))

/-- RESTORE_RECORD (R401): the next record of the restore window is consumed once it is there whole. -/
def execRestoreRecord (s : State) : Res :=
  .next (match s.restoring with
  | none => s
  | some slot =>
    let cons := s.regN (expReg 0x138)
    let avail := s.regN (expReg 0x130) - cons
    let size := s.windowSize
    let left := size - cons % size
    let base := s.bar2Base + s.ingestWindow * 2 ^ 20 + cons % size
    if avail = 0 then s
    else if left < 32 then s.setReg (expReg 0x138) (BitVec.ofNat 64 (cons + min left avail))
    else if avail < 32 then s
    else State.unlessStalled s 12 slot (fun s =>
      let m := s.memRead (hlAsker slot) base 32
      let h := recHead (m.bytes.getD [])
      let len := bits h.w0 31 0
      if len < 32 || len % 8 ≠ 0 || left < len then m.st.resyncRecords
      else if avail < len then s
      else
        let b := m.st.memRead (hlAsker slot) (base + 32) (len - 32)
        let s := b.st.setReg (expReg 0x138) (BitVec.ofNat 64 (cons + len))
        match b.bytes with
        | some body => s.placeRecord slot h body
        | none => s.badRecord))

/-! The check (R401). -/

/-- The items that a need asks for. -/
def State.needItems (s : State) (slot : Nat) (n : Nat × Nat × Nat) : List (Nat × Nat × Nat) :=
  match n.1 with
  | 2 => (s.shardKeys slot n.2.2).map (fun k => (1, rowNeed k, rowWord k))
  | 3 => (List.range (1 + s.denseMoments slot)).map (fun p => (3, n.2.1 + p * 2 ^ 16, n.2.2))
  | _ => [n]

/-- R401: every need is met. -/
def State.needsMet (s : State) (slot : Nat) : Bool :=
  let r := (s.job slot).restore
  r.whole && r.needs.all (fun n => (s.needItems slot n).all (fun x => r.supplied.contains x))

/-- R398, R401, R432: the restore of a slot is checked: HL_ACK_STEP is c. The primary goes on to its closing round, a filler asks
for its admission, and the next slot's restore opens. -/
def State.restoreChecked (s : State) (slot : Nat) : State :=
  let r := (s.job slot).restore
  let s := s.setReg (ackReg slot) (BitVec.ofNat 64 r.step)
  let s := s.updRestore slot (fun r => { r with isOpen := false, needs := [], unwritten := [], supplied := [] })
  let s := (s.updJob slot (fun j => { j with damaged := none })).setFld restoreStatus 3 0 0
  let s := (s.refreshExport.raiseInt 3).signalIngest slot
  let s := if slot ≠ 0 then s.updJob slot (fun j => { j with wantAdmit := true })
    else if s.stage = 6 then s.setStage 7 else if s.rfld faultStatus 11 8 = 5 then s.setFld faultStatus 11 8 6 else s
  match s.link.restoreQueue with
  | x :: rest =>
    let c := s.regN (ackReg x)
    ({ s with link := { s.link with restoreQueue := rest } }).openRestore x r.admission c
  | [] => s

/-- RESTORE_DONE (R401): the host asks for the check. -/
def State.restoreDone (s : State) (v : Word) : State :=
  let s := s.writePlain (expReg 0x140) v
  match s.restoring with
  | none => s
  | some slot =>
    if Word.fld v 0 0 = 0 then s
    else if s.needsMet slot then s.restoreChecked slot
    else (s.setBit restoreStatus 3).raiseInt 3

/-- RESTORE_DONE (R401). -/
def execRestoreDone (v : Word) (s : State) : Res := .next (if s.hostUp then s.restoreDone v else s)

/-! Replay (R398). -/

/-- R398, step 6: at the acknowledgement every ring's consumer index goes to its producer index. -/
def State.skipRing (s : State) (r : Nat) : State :=
  (s.updRing r (fun _ => {})).setFld (ringReg r 0x18) 31 0 (s.rfld (ringReg r 0x10) 31 0)

/-- A host write of HL_REPLAY_ACK. -/
def State.replayAck (s : State) (v : Word) : State :=
  let was := s.ingestStopped
  let s := s.writePlain 0x1820 v
  if was && !s.ingestStopped then ((List.range 8).foldl State.skipRing s).refreshIngest else s

/-- REPLAY_ACK (R398). -/
def execReplayAck (v : Word) (s : State) : Res := .next (if s.hostUp then s.replayAck v else s)

end Sys2Proof.Machine
end

