-- ==== Sys2Proof/Machine/Links.lean ====
section
/-! DEFINITION. The link layer of a port (R309 to R314, R338, R343): flits and their retry buffer, acknowledgement, credits,
sending a message, and what is lost when a port goes down. -/

namespace Sys2Proof.Machine

open Sys2Proof

/-! Flits (Table 11-2). -/

/-- The bytes of a flit. -/
def flitBytes (f : Flit) : List Byte := leBytes 128 f.toNat

/-- The header of a flit. -/
def flitHeader (f : Flit) : Nat := f.toNat % 2 ^ 64

/-- TYPE. -/
def flitType (f : Flit) : Nat := bits (flitHeader f) 63 60
/-- VL. -/
def flitVl (f : Flit) : Nat := bits (flitHeader f) 59 58
/-- SEQ. -/
def flitSeq (f : Flit) : Nat := bits (flitHeader f) 55 40
/-- ACK. -/
def flitAck (f : Flit) : Nat := bits (flitHeader f) 39 24
/-- The credits returned on a lane (R343). -/
def flitCredit (f : Flit) (v : Nat) : Nat := bits (flitHeader f) (6 * v + 5) (6 * v)
/-- The payload, bytes 8 to 123. -/
def flitPayload (f : Flit) : List Byte := ((flitBytes f).drop 8).take 116

/-- R309: the CRC of a flit holds. -/
def flitGood (f : Flit) : Bool := decide (crc32c ((flitBytes f).take 124) = fieldAt (flitBytes f) 124 4)

/-- A flit. -/
def makeFlit (type vl seq ack credit : Nat) (payload : List Byte) : Flit :=
  let h := leBytes 8 (type * 2 ^ 60 + vl * 2 ^ 58 + seq % 65536 * 2 ^ 40 + ack % 65536 * 2 ^ 24 + credit) ++
    (payload ++ List.replicate (116 - payload.length) 0)
  BitVec.ofNat 1024 (leNat (h ++ leBytes 4 (crc32c h)))

/-- Flits of the retry buffer (R311). -/
def retryRoom : Nat := 2048

/-- R343: the CREDIT field of the freed counts, at most 63 a lane. -/
def creditField (l : List Nat) : Nat := (List.range 4).foldl (fun a v => a + min 63 (atD l v 0) * 2 ^ (6 * v)) 0

/-- R307, R308: a flit takes the next place of its port's frame. A full frame leaves in one slot, after an alignment slot where the
run of 257 slots begins (log entries 156, 160). -/
def Port.place (t : Port) (p : Nat) (f : Flit) : Port :=
  let fs := t.txFrame ++ [f]
  if fs.length < 20 then { t with txFrame := fs }
  else if t.txSlot % 257 = 0 then
    { t with txFrame := [], txSlot := t.txSlot + 2, lanes := [alignLanes p t.txSlot, frameLanes (t.txSlot + 1) fs] }
  else { t with txFrame := [], txSlot := t.txSlot + 1, lanes := [frameLanes t.txSlot fs] }

/-- Transmits a flit on a port. -/
def State.sendFlit (s : State) (p : Nat) (f : Flit) : State := (s.updPort p (fun t => t.place p f)).emit (.flit p f)

/-- R309, R311: sends one new sequenced flit, which the retry buffer keeps; its header carries the ACK and the credits due. -/
def State.txFlit (s : State) (p type vl : Nat) (payload : List Byte) : State :=
  let t := s.port p
  let f := makeFlit type vl t.txSeq t.rxSeq (creditField t.freed) payload
  (s.updPort p (fun t => { t with
    txSeq := (t.txSeq + 1) % 65536, retry := t.retry ++ [f], freed := t.freed.map (fun n => n - min 63 n), ackSince := 0 })).sendFlit p f

/-- A link-control flit, when the retry buffer has room. -/
def State.txControl (s : State) (p : Nat) (payload : List Byte) : State :=
  if (s.port p).retry.length < retryRoom then s.txFlit p 5 0 payload else s

/-- R309, R312: sends an idle flit, which has no sequence number; its header carries the ACK and the credits due. -/
def State.txIdle (s : State) (p : Nat) : State :=
  let t := s.port p
  let f := makeFlit 0 0 0 t.rxSeq (creditField t.freed) []
  (s.updPort p (fun t => { t with freed := t.freed.map (fun n => n - min 63 n), ackSince := 0 })).sendFlit p f

/-- The payload of a link-control flit that only carries its header. -/
def ackPayload : List Byte := [0]

/-- R312: an ACK that is due goes out in a link-control flit, or in an idle flit's header where the retry buffer is full. -/
def State.txAck (s : State) (p : Nat) : State :=
  if (s.port p).retry.length < retryRoom then s.txFlit p 5 0 ackPayload else s.txIdle p

/-- Pieces of a message's bytes, 116 to a flit (R338). -/
def flitPieces : Nat → List Byte → List (List Byte)
  | 0, _ => []
  | n + 1, bs => if bs.isEmpty then [] else bs.take 116 :: flitPieces n (bs.drop 116)

/-- The bytes of a message: envelope and body. -/
def messageBytes (m : Message) : List Byte := wordsBytes ([m.w0, m.w1, m.w2, m.w3] ++ m.body)

/-- R338: TYPE of piece `i` of `n`. -/
def pieceType (i n : Nat) : Nat := if n = 1 then 4 else if i = 0 then 1 else if i + 1 = n then 3 else 2

/-- R343: whether a port in UP can take a message on a lane. -/
def State.laneTakes (s : State) (p vl : Nat) (m : Message) : Bool :=
  let t := s.port p
  decide (t.state = 6) && decide (m.flits ≤ atD t.credits vl 0) && decide (t.retry.length + m.flits ≤ retryRoom)

/-- R338, R343: sends a message on a lane of a port, deducting its credits. -/
def State.txMessage (s : State) (p vl : Nat) (m : Message) : State :=
  let bs := messageBytes m
  let ps := flitPieces (bs.length + 1) bs
  let s := s.updPort p (fun t => { t with credits := modAt t.credits vl (fun n => n - m.flits) })
  (ps.zip (List.range ps.length)).foldl (fun s x => State.txFlit s p (pieceType x.2 ps.length) vl x.1) s

/-- Sends the beacons that wait on a port, in order, on VL 0 (R322). -/
def State.flushWait : Nat → State → Nat → State
  | 0, s, _ => s
  | n + 1, s, p =>
    match (s.port p).wait with
    | [] => s
    | m :: rest =>
      if s.laneTakes p 0 m then State.flushWait n ((s.updPort p (fun t => { t with wait := rest })).txMessage p 0 m) p else s

/-- Sends what waits on a port. -/
def State.flushPort (s : State) (p : Nat) : State := s.flushWait ((s.port p).wait.length + 1) p

/-! Acknowledgement and resends. -/

/-- The sequence number of the first flit in the retry buffer. -/
def Port.base (t : Port) : Nat := (t.txSeq + 65536 - t.retry.length % 65536) % 65536

/-- R311: an ACK releases the flits it covers; one out of range releases none. -/
def Port.acked (t : Port) (a : Nat) : Port :=
  let k := (a + 65536 - t.base) % 65536
  if k = 0 || t.retry.length < k then t else { t with retry := t.retry.drop k, resends := 0 }

/-- R311: resends the retry buffer, in order. -/
def State.resend (s : State) (p : Nat) : State := (s.port p).retry.foldl (fun s f => State.sendFlit s p f) s

/-! What is lost (R314). -/

/-- The message that a first flit begins. -/
def flitMessage (f : Flit) : Message :=
  let bs := flitPayload f
  { w0 := BitVec.ofNat 64 (fieldAt bs 0 8), w1 := BitVec.ofNat 64 (fieldAt bs 8 8), w2 := BitVec.ofNat 64 (fieldAt bs 16 8),
    w3 := BitVec.ofNat 64 (fieldAt bs 24 8) }

/-- The messages of a run of sequenced flits; one whose first flit is not in it has an empty envelope. -/
def flitMessages (l : List Flit) : List Message :=
  let body := l.filter (fun f => decide (flitType f ≠ 5))
  (match body.head? with | some f => if flitType f = 2 || flitType f = 3 then [{}] else [] | none => []) ++
  (body.filter (fun f => flitType f = 1 || flitType f = 4)).map flitMessage

/-- R314, R484: a lost message is recorded, and its step aborts; a beacon belongs to no step. -/
def State.messageLost (s : State) (p : Nat) (m : Message) : State :=
  if m.kind = 1 then s.raiseError { code := 0x0403, unit := 15, index := p, d5 := p, d6 := m.kind, d7 := m.dst }
  else s.serviceError 0x0403 15 p m.slot (s.fullStep m) 0 p m.kind m.dst

/-- R314: a port that does not return to UP discards its unacknowledged flits and the messages that arrived in part. -/
def State.dropPort (s : State) (p : Nat) : State :=
  let t := s.port p
  let lost := flitMessages t.retry ++ t.partials.flatMap (fun x => flitMessages x.2)
  let s := s.updPort p (fun t => { t with retry := [], partials := [], wait := [] })
  lost.foldl (fun s m => State.messageLost (State.inc s (portReg p 0x58) 1) p m) s

end Sys2Proof.Machine
end

