-- ==== Sys2Proof/Machine/Discovery.lean ====
section
/-! DEFINITION. Fabric discovery (R321 to R333, R459 to R461): beacons and their database, the map and its digest, adoption,
ranks and routes. -/

namespace Sys2Proof.Machine

open Sys2Proof

/-! Beacons (Table 11-5). -/

/-- `fabric.id`. -/
def State.fabricId (s : State) : Nat := s.modCfg 0x700 0

/-- A port in UP. -/
def State.portUp (s : State) (p : Nat) : Bool := decide ((s.port p).state = 6)

/-- The ports in UP, ascending. -/
def State.upPorts (s : State) : List Nat := (List.range 16).filter s.portUp

/-- R319: the own link list. -/
def State.ownLinks (s : State) : List LinkEntry :=
  s.upPorts.map (fun p => { neighbour := s.regN (portReg p 8), port := p, farPort := s.rfld (portReg p 0) 39 36 })

/-- The module is a member of a running primary job. -/
def State.jobRunning (s : State) : Bool := (s.job 0).member && (s.job 0).admitted

/-- R321: the own beacon as it stands. -/
def State.ownBeacon (s : State) : BeaconEntry :=
  { serial := s.fuses.serial, fabricId := s.fabricId, epoch := s.fabric.epoch, job := s.jobRunning, rv := s.fabric.rank.isSome,
    rank := s.ownRank, dv := s.fabric.digest.isSome, digest := s.fabric.digest.getD 0, links := s.ownLinks }

/-- A beacon's body. -/
def BeaconEntry.body (b : BeaconEntry) : List Word :=
  let bit := fun (x : Bool) (n : Nat) => if x then 2 ^ n else 0
  ([b.serial, b.fabricId * 2 ^ 32 + b.epoch % 2 ^ 32,
    bit b.job 19 + bit b.rv 18 + b.rank % 4096 * 2 ^ 6 + bit b.dv 5 + b.links.length % 32, b.digest % 2 ^ 64, b.digest / 2 ^ 64] ++
   b.links.flatMap (fun l => [l.neighbour, l.port % 16 + l.farPort % 16 * 16])).map (BitVec.ofNat 64)

/-- R339: the message of a beacon. -/
def BeaconEntry.message (b : BeaconEntry) : Message := mkMessage 1 0 0 0 0 0 0 0 0 b.body

/-- Reads a beacon's body. -/
def readBeacon (ws : List Word) : BeaconEntry :=
  let w := fun (i : Nat) => (atD ws i 0).toNat
  { serial := w 0, fabricId := bits (w 1) 63 32, epoch := bits (w 1) 31 0, job := decide (bits (w 2) 19 19 = 1),
    rv := decide (bits (w 2) 18 18 = 1), rank := bits (w 2) 17 6, dv := decide (bits (w 2) 5 5 = 1), digest := w 3 + w 4 * 2 ^ 64,
    links := (List.range (bits (w 2) 4 0)).map (fun i =>
      { neighbour := w (5 + 2 * i), port := bits (w (6 + 2 * i)) 3 0, farPort := bits (w (6 + 2 * i)) 7 4 }) }

/-- Queues a beacon on a port, to be sent in order. -/
def State.sendBeacon (s : State) (b : BeaconEntry) (p : Nat) : State :=
  (s.updPort p (fun t => { t with wait := t.wait ++ [b.message] })).flushPort p

/-- R454: the FABRIC item: the own EPOCH and the digest of the last adopted map. -/
def State.queueFabric (s : State) : State :=
  s.jqueue { kind := 4, body := [BitVec.ofNat 64 s.fabric.epoch, s.reg (fabReg 0x10), s.reg (fabReg 0x18)] }

/-- The entries of the modules of the adopted map. -/
def State.mapEntries (s : State) : List BeaconEntry := s.fabric.map.filterMap (fun x => SMap.find? s.fabric.db x.1)

/-- R329: ranks are frozen while any module of the map has JOB set. -/
def State.frozen (s : State) : Bool := s.mapEntries.any (·.job)

/-- FAB_STATUS shows whether ranks are frozen. -/
def State.refreshFrozen (s : State) : State := s.setFld fabStatus 18 18 (if s.frozen then 1 else 0)

/-- R325: two entries of one module differ in a field that ends the quiet of the database. -/
def BeaconEntry.noisy (a b : BeaconEntry) : Bool :=
  decide (a.links ≠ b.links) || decide (a.rank ≠ b.rank) || decide (a.rv ≠ b.rv) || decide (a.job ≠ b.job)

/-- The database's entry for the own serial is the beacon last sent; a changed one advances EPOCH and is sent on every port
in UP (R322). A change of its links, rank or JOB ends the quiet of the database (R325). -/
def State.announce (s : State) : State :=
  let b := s.ownBeacon
  let old := SMap.find? s.fabric.db b.serial
  if old.map (fun (e : BeaconEntry) => { e with epoch := 0 }) = some ({ b with epoch := 0 } : BeaconEntry) then s
  else
    let noisy := match old with | some e => e.noisy b | none => true
    let s := { s with fabric := { s.fabric with epoch := s.fabric.epoch + 1, quiet := s.fabric.quiet && !noisy } }
    let b := s.ownBeacon
    let s := ({ s with fabric := { s.fabric with db := SMap.put s.fabric.db b.serial b } }).refreshFrozen
    s.upPorts.foldl (fun s p => State.sendBeacon s b p) s.queueFabric

/-- R322, R325: a change of the own link list clears DV; the database is no longer quiet, and the change is announced. -/
def State.linksChanged (s : State) : State :=
  ({ s with fabric := { s.fabric with digest := none, quiet := false, waiting := false, stalled := false, refused := false } }).announce

/-! The map (R324, R325). -/

/-- The links of an entry that the far end's entry confirms. -/
def confirmedLinks (db : SMap BeaconEntry) (x : BeaconEntry) : List LinkEntry :=
  x.links.filter (fun l =>
    match SMap.find? db l.neighbour with
    | some y => y.links.any (fun m => decide (m.neighbour = x.serial) && decide (m.port = l.farPort) && decide (m.farPort = l.port))
    | none => false)

/-- Adds the modules that lie one link further, `n` times. -/
def reachable (db : SMap BeaconEntry) : Nat → List Nat → List Nat
  | 0, l => l
  | n + 1, l =>
    let next := l.flatMap (fun x => match SMap.find? db x with | some e => (confirmedLinks db e).map (·.neighbour) | none => [])
    reachable db n (distinctUp (l ++ next))

/-- R324: the map: the modules reached over confirmed links, ascending, with those links in ascending local port. -/
def State.computeMap (s : State) : List (Nat × List LinkEntry) :=
  let db := s.fabric.db
  (reachable db db.length [s.fuses.serial]).map (fun x =>
    (x, match SMap.find? db x with
        | some e => sortBy (fun a b => decide (a.port < b.port)) (confirmedLinks db e)
        | none => []))

/-- R325, R557: the digest of a map. -/
def mapDigest (m : List (Nat × List LinkEntry)) : Nat :=
  leNat ((sha512 (m.flatMap (fun x => leBytes 8 x.1 ++
    x.2.flatMap (fun l => leBytes 1 l.port ++ leBytes 8 l.neighbour ++ leBytes 1 l.farPort)))).take 16)

/-! Distances (R327, R331). -/

/-- The links of a module of a map. -/
def linksOf (m : List (Nat × List LinkEntry)) (x : Nat) : List LinkEntry :=
  match SMap.find? m x with | some l => l | none => []

/-- The smaller of two distances, `none` being out of reach. -/
def minDist (a b : Option Nat) : Option Nat :=
  match a, b with
  | some x, some y => some (min x y)
  | some x, none => some x
  | none, y => y

/-- One more hop. -/
def hop (a : Option Nat) : Option Nat := a.map (· + 1)

/-- Improves every module's distance over the links that `use` admits, `n` times. -/
def relax (m : List (Nat × List LinkEntry)) (use : Nat → Nat → Bool) (base : Nat → Option Nat) : Nat → SMap (Option Nat) → SMap (Option Nat)
  | 0, d => d
  | n + 1, d =>
    relax m use base n (m.map (fun x =>
      (x.1, x.2.foldl (fun a l => if use x.1 l.neighbour then minDist a (hop (SMap.getD d l.neighbour none)) else a)
        (minDist (base x.1) (SMap.getD d x.1 none)))))

/-- Distances from every module to `t` over the admitted links. -/
def distTo (m : List (Nat × List LinkEntry)) (t : Nat) (use : Nat → Nat → Bool) : SMap (Option Nat) :=
  relax m use (fun x => if x = t then some 0 else none) (m.length + 1) []

/-- Hop distances to a module. -/
def hopsTo (m : List (Nat × List LinkEntry)) (t : Nat) : SMap (Option Nat) := distTo m t (fun _ _ => true)

/-- R327: the diameter of a map. -/
def diameter (m : List (Nat × List LinkEntry)) : Nat :=
  m.foldl (fun a x => (hopsTo m x.1).foldl (fun a y => max a (y.2.getD 0)) a) 0

/-- R331: whether the hop from `x` to `y` goes up: nearer the lowest serial, ties to the lower serial. -/
def upHop (levels : SMap (Option Nat)) (x y : Nat) : Bool :=
  let lx := (SMap.getD levels x none).getD 0
  let ly := (SMap.getD levels y none).getD 0
  decide (ly < lx) || (decide (ly = lx) && decide (y < x))

/-- The levels of a map: distances from its lowest serial. -/
def mapLevels (m : List (Nat × List LinkEntry)) : SMap (Option Nat) := hopsTo m ((m.head?.map (·.1)).getD 0)

/-- Distances to `t` by down hops only. -/
def downTo (m : List (Nat × List LinkEntry)) (t : Nat) : SMap (Option Nat) :=
  let lv := mapLevels m
  distTo m t (fun x y => !upHop lv x y)

/-- Distances to `t` by up hops and then down hops. -/
def escapeTo (m : List (Nat × List LinkEntry)) (t : Nat) : SMap (Option Nat) :=
  let lv := mapLevels m
  let dn := downTo m t
  relax m (upHop lv) (fun x => SMap.getD dn x none) (m.length + 1) []

/-! Routes (R331, R344). -/

/-- The ports of links, by neighbour serial and then local port. -/
def byNeighbour (l : List LinkEntry) : List LinkEntry :=
  sortBy (fun a b => decide (a.neighbour < b.neighbour) || (decide (a.neighbour = b.neighbour) && decide (a.port < b.port))) l

/-- The first port, by neighbour and port, among links of least cost. -/
def cheapest (l : List (LinkEntry × Option Nat)) : Option Nat :=
  let best := l.foldl (fun a x => minDist a x.2) none
  if best.isNone then none
  else ((byNeighbour ((l.filter (fun x => x.2 = best)).map (·.1))).head?).map (·.port)

/-- R331: the routes from `me` to the module `t`. -/
def routeTo (m : List (Nat × List LinkEntry)) (me t : Nat) : Route :=
  let lv := mapLevels m
  let ls := linksOf m me
  let h := hopsTo m t
  let dn := downTo m t
  let up := escapeTo m t
  let near := ls.filter (fun l => hop (SMap.getD h l.neighbour none) = SMap.getD h me none && (SMap.getD h me none).isSome)
  { adaptive := ((byNeighbour near).map (·.port)).take 4
    escape := cheapest (ls.map (fun l => (l, hop (if upHop lv me l.neighbour then SMap.getD up l.neighbour none else SMap.getD dn l.neighbour none))))
    down := cheapest ((ls.filter (fun l => !upHop lv me l.neighbour)).map (fun l => (l, hop (SMap.getD dn l.neighbour none)))) }

/-- R331: the routes to every rank that another module of the map holds. -/
def State.computeRoutes (s : State) : State :=
  let me := s.fuses.serial
  let held := s.fabric.rankSerials.filter (fun e => decide (e.2 ≠ me) && (SMap.find? s.fabric.map e.2).isSome)
  { s with fabric := { s.fabric with routes := held.map (fun e => (e.1, routeTo s.fabric.map me e.2)) } }

/-! Ranks (R328 to R330). -/

/-- FAB_STATUS shows the own rank. -/
def State.refreshRank (s : State) : State :=
  (s.setFld fabStatus 31 20 (if s.fabric.rank.isSome then s.ownRank else 0)).setFld fabStatus 19 19 (if s.fabric.rank.isSome then 1 else 0)

/-- R328: ranks by ascending serial over a set of modules. -/
def State.reformRanks (s : State) (serials : List Nat) : State :=
  let l := (sortBy (fun a b => decide (a < b)) serials).take 4096
  let rs : SMap Nat := (List.range l.length).zip l
  let own := List.find? (fun (e : Nat × Nat) => decide (e.2 = s.fuses.serial)) rs
  ({ s with fabric := { s.fabric with rankSerials := rs, rank := own.map (fun (e : Nat × Nat) => e.1) } }).refreshRank

/-- R330: another module of the map with a lower serial holds the own rank. -/
def State.rankConflict (s : State) : Option Nat :=
  match s.fabric.rank with
  | none => none
  | some r => (s.mapEntries.find? (fun e => e.rv && decide (e.rank = r) && decide (e.serial < s.fuses.serial))).map (·.serial)

/-- R329: with ranks frozen, the module keeps its rank and learns the others from their beacons; of two holders of a rank the
lower serial keeps it. -/
def State.learnRanks (s : State) : State :=
  let others := (s.mapEntries.filter (fun e => e.rv && decide (e.serial ≠ s.fuses.serial))).reverse
  let kept := s.fabric.rankSerials.filter (fun e => (SMap.find? s.fabric.map e.2).isNone)
  let rs := others.foldl (fun (a : SMap Nat) e => SMap.put a e.rank e.serial) kept
  let rs := match s.fabric.rank with | some r => SMap.put rs r s.fuses.serial | none => rs
  { s with fabric := { s.fabric with rankSerials := rs } }

/-- R330: the module gives up a rank that a lower serial holds; its job has lost it. -/
def State.loseRank (s : State) (other : Nat) : State :=
  let r := s.ownRank
  let s := ({ s with fabric := { s.fabric with rank := none } }).refreshRank
  let s := (s.setBit fabStatus 2).raiseError { code := 0x0407, action := 7, d5 := r, d6 := other }
  let s := { s with jobs := s.jobs.map (fun (j : Nat × JobSlot) => (j.1, { j.2 with member := false })) }
  let s := if s.stage = 8 || s.stage = 7 || s.stage = 6 then (s.setStage 9).setBit startStatus 5 else s
  s.refreshGuidon.raiseInt 6

/-! Stages FABRIC to ADMIT (R446, R458, R460, R461). -/

/-- R445: a domain whose failure leaves the module a member of no job. -/
def State.memberDomainsOk (s : State) : Bool :=
  (List.range 48).all (fun d => (40 ≤ d && d ≤ 43) || s.rfld (imgReg 0x808) d d = 0)

/-- The module starts outside every job (R445, R458, R460). -/
def State.outsideJobs (s : State) : Bool :=
  decide (s.rfld faultStatus 4 4 = 1) || !s.memberDomainsOk || s.fabric.rank.isNone || !s.activeSlotsNow.contains 0

/-- R164: the stepping and firmware major version of a module, its own from its fuses and the booted firmware. -/
def State.buildOf (s : State) (serial : Nat) : Nat × Nat :=
  if serial = s.fuses.serial then (s.fuses.stepping, s.rfld 0 31 24) else Config.build serial

/-- R164: the holders of ranks that an admission takes: those of the build of the lowest (log entry 151). -/
def State.admitted (s : State) : SMap Nat :=
  match s.fabric.rankSerials with
  | [] => []
  | e :: _ => s.fabric.rankSerials.filter (fun x => decide (s.buildOf x.2 = s.buildOf e.2))

/-- R164: the module is refused for its build: its record, and the job runs without it. -/
def State.refuseBuild (s : State) : State :=
  let b := s.buildOf s.fuses.serial
  ((s.setStage 9).setBit startStatus 5).raiseError { code := 0x040A, d5 := b.1, d6 := b.2 }

/-- R164, R461: opens the admission restore over the ranks of the map. -/
def State.openAdmission (s : State) : State :=
  if s.fabric.rank.isSome && !s.admitted.any (fun (e : Nat × Nat) => decide (e.2 = s.fuses.serial)) then s.refuseBuild
  else
  let ranks := s.admitted.map (·.1)
  let slots := s.activeSlotsNow
  let s := slots.foldl (fun s i => State.formSlices (State.formJob s i ranks) i) s
  let s := { s with link := { s.link with restoreQueue := slots.drop 1 } }
  s.openRestore 0 true 0

/-- R494: a quarantined module starts a full Flint run. -/
def State.startFlint (s : State) : State :=
  let s := { s with faults := { s.faults with flintPoint := some 0, flintFailed := false } }
  s.setBit faultStatus 6

/-- R446, Table 15-4: with both memories initialised and a map adopted, the module reaches WAIT_HOST or NON_MEMBER. -/
def State.reachReady (s : State) : State :=
  if s.stage ≠ 5 || !s.start.mapAdopted then s
  else
    let s := s.setReg (imgReg 0x818) (BitVec.ofNat 64 s.now)
    if s.outsideJobs then
      let s := (s.setStage 9).setBit startStatus 5
      if s.rfld faultStatus 4 4 = 1 then s.startFlint else s
    else (s.setStage 6).openAdmission

/-! Adoption (R326 to R333). -/

/-- R461, R486: what a new map means for an admission or a rollback in progress. -/
def State.mapMoved (s : State) (before : List Nat) : State :=
  let ranks := s.fabric.rankSerials.map (·.1)
  if (s.stage = 6 || s.stage = 7) && decide (ranks ≠ before) then (s.setStage 6).openAdmission
  else if s.rfld faultStatus 2 2 = 1 && 3 ≤ s.rfld faultStatus 11 8 &&
      (if (s.job 0).proposal.isEmpty then (s.job 0).members else (s.job 0).proposal).any (fun x => (SMap.find? s.fabric.map x).isNone) then
    (s.setFld faultStatus 11 8 3).updJob 0 (fun j => { j with
      restore := { j.restore with isOpen := false }
      rounds := (j.rounds.filter (·.rollback)).map (fun r =>
        { closing := true, rollback := true, step := r.step, kids := r.kids }) })
  else s

/-- R460: a module outside every job proceeds to WAIT_HOST when it adopts a map without a running job. -/
def State.rejoin (s : State) (frozen : Bool) : State :=
  if s.stage = 9 && !frozen && !s.outsideJobs && !(s.job 0).rejected then ((s.clearBit startStatus 5).setStage 6).openAdmission
  else s.reachReady

/-- R326 to R331: adopts the computed map. -/
def State.adoptMap (s : State) : State :=
  let before := s.fabric.rankSerials.map (·.1)
  let d := s.fabric.digest.getD 0
  let s := { s with fabric := { s.fabric with map := s.fabric.computed, waiting := false, stalled := false } }
  let s := (s.setReg (fabReg 0x10) (BitVec.ofNat 64 d)).setReg (fabReg 0x18) (BitVec.ofNat 64 (d / 2 ^ 64))
  let s := (s.setReg (fabReg 0x28) (BitVec.ofNat 64 (diameter s.fabric.map))).inc (fabReg 0x30) 1
  let s := (s.setBit fabStatus 0).setBit fabStatus 1
  let frozen := s.frozen
  let s := s.refreshFrozen
  let s := if frozen then s.learnRanks else s.reformRanks (s.fabric.map.map (·.1))
  let s := match s.rankConflict with | some x => (s.loseRank x).learnRanks | none => s
  let s := { s with start := { s.start with mapAdopted := true } }
  (((s.computeRoutes.queueFabric).announce).mapMoved before).rejoin frozen

/-- R326, R327: adopts the computed map when every beacon of it shows the own digest and its diameter is allowed; a
refused map keeps the module waiting. -/
def State.tryAdopt (s : State) : State :=
  match s.fabric.digest with
  | none => s
  | some d =>
    if !s.fabric.quiet || !s.fabric.waiting || s.fabric.refused then s
    else if !s.fabric.computed.all (fun x => match SMap.find? s.fabric.db x.1 with
        | some e => e.dv && decide (e.digest = d)
        | none => false) then s
    else if diameter s.fabric.computed > 32 then
      ({ s with fabric := { s.fabric with refused := true } }).setBit fabStatus 3
    else s.adoptMap

/-- R322, R323: takes a beacon that arrived on a port. -/
def State.takeBeacon (s : State) (p : Nat) (b : BeaconEntry) : State :=
  if b.serial = s.fuses.serial then
    if b.epoch < s.fabric.epoch then s
    else
      let s := { s with fabric := { s.fabric with epoch := b.epoch + 1 } }
      let own := s.ownBeacon
      let s := { s with fabric := { s.fabric with db := SMap.put s.fabric.db own.serial own } }
      s.upPorts.foldl (fun s q => State.sendBeacon s own q) s.queueFabric
  else
    let old := SMap.find? s.fabric.db b.serial
    let newer := match old with | some e => decide (e.epoch < b.epoch) | none => true
    if b.fabricId ≠ s.fabricId || !newer then s
    else
      let e := old.getD {}
      let links := old.isNone || decide (e.links ≠ b.links)
      let noisy := links || e.noisy b
      let s := (({ s with fabric := { s.fabric with db := SMap.put s.fabric.db b.serial b } }).inc (fabReg 0x38) 1).refreshFrozen
      let s := (s.upPorts.filter (· ≠ p)).foldl (fun s q => State.sendBeacon s b q) s
      let s := if noisy then { s with fabric := { s.fabric with quiet := false } } else s
      (if links then s.linksChanged else s).tryAdopt

/-- BEACON (R323, R341): a beacon that arrived on port `p`. -/
def execBeacon (p : PortId) (m : Message) (s : State) : Res :=
  .next (if m.kind ≠ 1 then s
  else
    let s := { s with inbox := s.inbox.erase m }
    if !m.good then (s.inc (xuReg 0x18) 1).raiseError { code := 0x0404, d5 := m.kind, d6 := m.src, d7 := m.tag }
    else (s.inc (xuReg 0x10) 1).takeBeacon p.val (readBeacon m.body))

/-- DATABASE_QUIET (R324, R325): the database has been quiet for 2 ms, so the module computes its map and digest. -/
def execDatabaseQuiet (s : State) : Res :=
  .next (if s.fabric.quiet || s.stage < 3 || s.stage = 10 || s.stage = 12 || !s.start.domainsUp.contains 48 then s
  else
    let m := s.computeMap
    let s := { s with fabric := { s.fabric with
      db := s.fabric.db.filter (fun e => m.any (fun x => decide (x.1 = e.1))), computed := m, digest := some (mapDigest m)
      quiet := true, waiting := true, stalled := false, refused := false } }
    s.announce.tryAdopt)

/-- MAP_STALL (R326): 50 ms after quiet without adoption. -/
def execMapStall (s : State) : Res :=
  .next (if !s.fabric.quiet || !s.fabric.waiting || s.fabric.stalled then s
  else
    let d := s.fabric.digest.getD 0
    let n := (s.fabric.computed.filter (fun x => match SMap.find? s.fabric.db x.1 with
      | some e => !(e.dv && decide (e.digest = d))
      | none => true)).length
    let s := { s with fabric := { s.fabric with stalled := true } }
    (s.inc (fabReg 0x40) 1).raiseError { code := 0x0406, d5 := n })

end Sys2Proof.Machine
end

