-- ==== Sys2Proof/Machine/Journal.lean ====
section
/-! DEFINITION. The retained-state journal (R448 to R454): entries and slots in flash, the restore, the programming of
queued entries into both copies, snapshots, and the BOOT entry of a start. -/

namespace Sys2Proof.Machine

open Sys2Proof

/-! Entries and slots in flash. -/

/-- Table 15-8: body words of an entry type; none for a reserved type. -/
def bodyWords (kind : Nat) : Nat := atD [0, 2, 5, 2, 3, 1, 2, 8, 6, 2, 2, 1] kind 0

/-- R449: lines of an entry. -/
def JEntry.units (e : JEntry) : Nat := cdiv (20 + 8 * e.body.length) 64

/-- R449: the bytes of an entry. -/
def JEntry.bytes (e : JEntry) (seq : Nat) : List Byte :=
  let h := leBytes 1 e.kind ++ leBytes 1 e.units ++ List.replicate 6 0 ++ leBytes 8 seq ++ wordsBytes e.body
  let h := h ++ List.replicate (64 * e.units - 4 - h.length) 0
  h ++ leBytes 4 (crc32c h)

/-- The offset of journal slot `k` (R448). -/
def journalSlot (k : Nat) : Nat := 0x06000000 + k * 0x400000

/-- Lines of a slot's log (Table 15-6). -/
def logLines : Nat := 32768

/-- R449: the entry at an offset with at most `room` lines: the entry, its SEQ, its lines. -/
def FlashDevice.entryAt (d : FlashDevice) (a room : Nat) : Option (JEntry × Nat × Nat) :=
  let u := leNat (d.read (a + 1) 1)
  if u < 1 || 64 < u || room < u then none
  else
    let bs := d.read a (64 * u)
    if zeroAt bs 2 6 && fieldAt bs (64 * u - 4) 4 = crc32c (bs.take (64 * u - 4)) then
      let k := fieldAt bs 0 1
      some ({ kind := k, body := bytesWords ((bs.drop 16).take (8 * bodyWords k)) }, fieldAt bs 8 8, u)
    else none

/-- Whether a range of flash is erased. -/
def FlashDevice.erased (d : FlashDevice) (a n : Nat) : Bool := d.bytes.all (fun c => decide (c.1 < a) || decide (a + n ≤ c.1))

/-- R450: the entries of a log from a line: entries, the line after them, and whether it ends in a programmed entry that
fails its check. -/
def FlashDevice.readLog (d : FlashDevice) (base : Nat) : Nat → Nat → Nat → List JEntry → List JEntry × Nat × Bool
  | 0, line, _, acc => (acc, line, false)
  | n + 1, line, seq, acc =>
    if logLines ≤ line then (acc, line, false)
    else
      match d.entryAt (base + 64 * line) (logLines - line) with
      | some (e, q, u) => if q = seq then FlashDevice.readLog d base n (line + u) (seq + 1) (acc ++ [e]) else (acc, line, false)
      | none => (acc, line, !d.erased (base + 64 * line) 64)

/-- The entries of a snapshot whose last line is `stop`. -/
def FlashDevice.readSnapshot (d : FlashDevice) (base stop : Nat) : Nat → Nat → List JEntry → List JEntry
  | 0, _, acc => acc
  | n + 1, line, acc =>
    match d.entryAt (base + 64 * line) (stop - line) with
    | some (e, _, u) => FlashDevice.readSnapshot d base stop n (line + u) (acc ++ [e])
    | none => acc

/-- A valid journal slot (Table 15-7): its header, its snapshot and its log. -/
structure JSlot where
  slotSeq : Nat := 0
  gen : Nat := 0
  snapshot : List JEntry := []
  firstSeq : Nat := 0
  log : List JEntry := []
  line : Nat := 0
  torn : Bool := false
  deriving DecidableEq, Repr

/-- R450: journal slot `k` of a copy, where it is valid. -/
def FlashDevice.journalSlotAt (d : FlashDevice) (k : Nat) : Option JSlot :=
  let b := journalSlot k
  let h := d.read b 64
  let len := fieldAt h 32 4
  if fieldAt h 0 8 = 0x4C4E524A46455A47 && fieldAt h 60 4 = crc32c (h.take 60) && len % 64 = 0 && len ≤ 0x1FF000 &&
      fieldAt h 36 4 = crc32c (d.read (b + 0x1000) len) then
    let log := d.readLog (b + 0x200000) logLines 0 (fieldAt h 40 8) []
    some { slotSeq := fieldAt h 8 8, gen := fieldAt h 16 8, snapshot := d.readSnapshot (b + 0x1000) (len / 64) (len / 64) 0 [],
           firstSeq := fieldAt h 40 8, log := log.1, line := log.2.1, torn := log.2.2 }
  else none

/-- The valid slots of a copy. -/
def FlashDevice.journalSlots (d : FlashDevice) : List (Nat × JSlot) :=
  if d.answers then (List.range 8).filterMap (fun k => (d.journalSlotAt k).map (fun x => (k, x))) else []

/-- R450: the slot of highest SLOT_SEQ, ties to the longer log. -/
def bestSlot (l : List (Nat × JSlot)) : Option (Nat × JSlot) :=
  l.foldl (fun acc x =>
    match acc with
    | none => some x
    | some y => if x.2.slotSeq > y.2.slotSeq || (x.2.slotSeq = y.2.slotSeq && x.2.log.length > y.2.log.length) then some x else some y) none

/-- A slot area of a copy that is neither valid nor erased (R451). -/
def FlashDevice.tornArea (d : FlashDevice) : Bool :=
  d.answers && (List.range 8).any (fun k => (d.journalSlotAt k).isNone && !d.erased (journalSlot k) 0x400000)

/-! The retained state. -/

/-- Whether an entry replaces an item: an ERROR is appended, every other entry is of one item per type and key. -/
def JEntry.replaces (a b : JEntry) : Bool := decide (a.kind = b.kind) && decide (a.key = b.key)

/-- R450: applies an entry to the items and to the last 256 errors. -/
def applyEntry (st : List JEntry × List JEntry) (e : JEntry) : List JEntry × List JEntry :=
  if e.kind = 7 then
    let l := if st.2.contains e then st.2 else st.2 ++ [e]
    (st.1, l.drop (l.length - 256))
  else (st.1.filter (fun x => !x.replaces e) ++ [e], st.2)

/-- What a restore reads: the chosen slot, its items and errors, and the conditions of R451. -/
structure JRead where
  slot : Nat := 0
  slotSeq : Nat := 0
  gen : Nat := 0
  items : List JEntry := []
  errors : List JEntry := []
  seq : Nat := 1
  line : Nat := 0
  empty : Bool := true
  resync : Bool := false
  fellBack : Bool := false
  deriving DecidableEq, Repr

/-- R450, R451: reads both copies. -/
def State.journalRead (s : State) : JRead :=
  let l0 := s.flash0.journalSlots
  let l1 := s.flash1.journalSlots
  let torn := s.flash0.tornArea || s.flash1.tornArea
  let differ := s.flash0.answers && s.flash1.answers && decide (bestSlot l0 ≠ bestSlot l1)
  match bestSlot (l0 ++ l1) with
  | none => { resync := differ, fellBack := torn }
  | some (k, x) =>
    let st := (x.snapshot ++ x.log).foldl applyEntry ([], [])
    { slot := k, slotSeq := x.slotSeq, gen := x.gen, items := st.1, errors := st.2, seq := x.firstSeq + x.log.length,
      line := x.line, empty := false, resync := differ, fellBack := torn || x.torn }

/-- The retained state with the entries of the retention RAM on top. -/
def State.retained (s : State) (r : JRead) : List JEntry × List JEntry := s.journal.queue.foldl applyEntry (r.items, r.errors)

/-- The body of the item of a type and key. -/
def itemOf (items : List JEntry) (kind : Nat) (key : Option Nat) : Option (List Nat) :=
  (items.find? (fun e => decide (e.kind = kind) && decide (e.key = key))).map (fun e => e.body.map BitVec.toNat)

/-- R454, R471: a start queues its BOOT entry first, and records are numbered on from those of the journal. -/
def State.bootEntry (s : State) : State :=
  let st := s.retained s.journalRead
  let n := match itemOf st.1 9 none with | some b => b.headD 0 + 1 | none => 1
  let next := st.2.foldl (fun m e => max m (e.recordIndex + 1)) 0
  let s := s.setReg (imgReg 0x48) (BitVec.ofNat 64 n)
  let s := (s.setReg (faultReg 8) (BitVec.ofNat 64 next)).setReg (faultReg 0x10) (BitVec.ofNat 64 next)
  s.jqueue { kind := 9, body := [BitVec.ofNat 64 n, BitVec.ofNat 64 (s.rfld startStatus 15 8 + s.start.prevStage * 256)] }

/-! Writing. -/

/-- Changes both flash devices that answer. -/
def State.onFlash (s : State) (f : FlashDevice → FlashDevice) : State :=
  { s with flash0 := if s.flash0.answers then f s.flash0 else s.flash0, flash1 := if s.flash1.answers then f s.flash1 else s.flash1 }

/-- Table 15-7: a slot header. -/
def slotHeader (slotSeq gen boot : Nat) (snap : List Byte) (firstSeq : Nat) : List Byte :=
  let h := leBytes 8 0x4C4E524A46455A47 ++ leBytes 8 slotSeq ++ leBytes 8 gen ++ leBytes 8 boot ++ leBytes 4 snap.length ++
    leBytes 4 (crc32c snap) ++ leBytes 8 firstSeq ++ List.replicate 12 0
  h ++ leBytes 4 (crc32c h)

/-- JNL_STATUS and JNL_SLOT_SEQ follow the current slot. -/
def State.refreshJournal (s : State) : State :=
  let s := (s.setFld (imgReg 0x820) 10 8 s.journal.slot).setReg (imgReg 0x828) (BitVec.ofNat 64 s.journal.slotSeq)
  (s.setFld (imgReg 0x820) 0 0 (if s.flash0.answers then 1 else 0)).setFld (imgReg 0x820) 1 1 (if s.flash1.answers then 1 else 0)

/-- R453: a snapshot of the retained state goes into the next slot of each copy; the first slot is 0. -/
def State.writeSnapshot (s : State) : State :=
  let j := s.journal
  let k := if j.slotSeq = 0 then 0 else (j.slot + 1) % 8
  let snap := (j.items ++ j.errors).flatMap (fun e => e.bytes 0)
  let h := slotHeader (j.slotSeq + 1) ((s.image.map (·.gen)).getD 0) (s.regN (imgReg 0x48)) snap j.seq
  let b := journalSlot k
  let s := s.onFlash (fun d => ((d.erase b 0x400000).write (b + 0x1000) snap).write b h)
  let s := { s with journal := { j with slot := k, slotSeq := j.slotSeq + 1, logLine := 0, snapshotOwed := false } }
  (s.inc (imgReg 0x848) 1).refreshJournal

/-- R452: programs the first queued entry into the log of each copy, after a snapshot when the log cannot hold it; the entry
then leaves the retention RAM. -/
def State.programEntry (s : State) : State :=
  match s.journal.queue with
  | [] => s
  | e :: _ =>
    let s := if s.journal.logLine + e.units > logLines then s.writeSnapshot else s
    let j := s.journal
    let s := s.onFlash (fun d => d.write (journalSlot j.slot + 0x200000 + 64 * j.logLine) (e.bytes j.seq))
    let st := applyEntry (j.items, j.errors) e
    let s := { s with journal := { j with queue := j.queue.drop 1, items := st.1, errors := st.2, seq := j.seq + 1,
                                          logLine := j.logLine + e.units } }
    s.setReg (imgReg 0x830) (BitVec.ofNat 64 j.seq)

/-- Programs up to `n` queued entries. -/
def State.programEntries : Nat → State → State
  | 0, s => s
  | n + 1, s => State.programEntries n s.programEntry

/-- R451, R452: the journal can be written: restored, the service complex up, a device answering. -/
def State.journalReady (s : State) : Bool :=
  s.journal.restored && s.start.domainsUp.contains 48 && (s.flash0.answers || s.flash1.answers)

/-- R451 to R453: a snapshot that is owed comes first; then queued entries, `retain.max_entries_per_s` in a second. -/
def State.journalFlush (s : State) : State :=
  if !s.journalReady then s
  else
    let s := if s.journal.snapshotOwed then s.writeSnapshot else s
    s.programEntries (s.modCfg 0x8A02 256)

/-- JOURNAL_FLUSH (R452). -/
def execJournalFlush (s : State) : Res := .next s.journalFlush

end Sys2Proof.Machine
end

