-- ==== Sys2Proof/Machine/Ports.lean ====
section
/-! DEFINITION. The ports (R302, R309 to R320, R459): training, exclusion, retraining, laser failure, and the reception of
flits with acknowledgement and credit return. -/

namespace Sys2Proof.Machine

open Sys2Proof

/-! Levels of Table 18-10, in 0.01 dBm. -/

/-- Light is present at or above it. -/
def lightLevel : Int := -1100
/-- Receive sensitivity. -/
def sensitivityLevel : Int := -600
/-- The low-power warning level. -/
def warningLevel : Int := -550
/-- Reverse light on a transmit lane. -/
def reverseLevel : Int := -2500

/-- Lanes of the last check with light. -/
def litLanes (l : List Int) : Nat := (l.filter (fun x => decide (lightLevel ≤ x))).length

/-! Changes of state. -/

/-- Puts a port in a state of Table 11-3 with a reason. -/
def State.setPort (s : State) (p st reason : Nat) : State := s.updPort p (fun t => { t with state := st, reason := reason, sub := 0 })

/-- R333: a port is out of every route until the next adoption. -/
def Route.without (r : Route) (p : Nat) : Route :=
  { adaptive := r.adaptive.filter (fun x => x != p)
    escape := if r.escape = some p then none else r.escape
    down := if r.down = some p then none else r.down }

/-- R319, R333: what follows when port `p` has left UP. -/
def State.leaveUp (s : State) (p : Nat) : State :=
  ({ s with fabric := { s.fabric with routes := s.fabric.routes.map (fun (r : Nat × Route) => (r.1, r.2.without p)) } }).linksChanged

/-- Takes a port that is in UP or RETRAIN to a state that is neither (R314, R319). -/
def State.takeDown (s : State) (p st reason : Nat) : State :=
  let was := (s.port p).state
  let s := s.setPort p st reason
  let s := if was = 6 || was = 7 then s.dropPort p else s
  if was = 6 then s.leaveUp p else s

/-- R318: excludes a port; a return with the same reason after a retry writes no further record. -/
def State.exclude (s : State) (p reason : Nat) : State :=
  let logged := (s.port p).loggedReason
  let s := (s.takeDown p 8 reason).inc (portReg p 0x50) 1
  if logged = reason then s
  else (s.updPort p (fun t => { t with loggedReason := reason })).raiseError { code := 0x0401, unit := 15, index := p, d5 := p, d6 := reason }

/-- R313, R318: a port in UP goes to RETRAIN, or the third time within 10 s to EXCLUDED. -/
def State.enterRetrain (s : State) (p : Nat) : State :=
  if !s.portUp p then s
  else
    let now := s.now
    let l := ((s.port p).retrains.filter (fun t => decide (now < t + 10000000))) ++ [now]
    let s := (s.inc (portReg p 0x48) 1).setBit (portReg p 0) 2
    let s := s.updPort p (fun t => { t with retrains := if l.length ≥ 3 then [] else l })
    if l.length ≥ 3 then s.exclude p 12
    else (s.updPort p (fun t => { t with state := 7, sub := 2, resends := 0, identValid := false })).leaveUp p

/-- The retained items in force: those of the journal with the queued entries on top. -/
def State.itemsNow (s : State) : List JEntry := (s.journal.queue.foldl applyEntry (s.journal.items, s.journal.errors)).1

/-- R317: the link calibration of a port is journalled, a CALIB entry for each lane. -/
def State.journalCalib (s : State) (p : Nat) : State :=
  let c := (s.port p).calib
  if c.isEmpty then s
  else (List.range 4).foldl (fun s lane =>
    State.jqueue s { kind := 2, body := BitVec.ofNat 64 (p + lane * 16) :: (List.range 4).map (fun i => atD c (4 * lane + i) 0) }) s

/-- R459: a neighbour other than the one that the journal names is queued, and recorded where the journal named one. -/
def State.journalNeighbour (s : State) (p : Nat) : State :=
  let new := [p + s.rfld (portReg p 0) 39 36 * 16, s.regN (portReg p 8)]
  let e : JEntry := { kind := 3, body := new.map (BitVec.ofNat 64) }
  match itemOf s.itemsNow 3 (some p) with
  | none => s.jqueue e
  | some old =>
    if old = new then s
    else
      let s := s.jqueue e
      if atD old 1 0 = atD new 1 0 then s
      else s.raiseError { code := 0x0408, unit := 15, index := p, d5 := p, d6 := atD old 1 0, d7 := atD new 1 0 }

/-- R313, R317, R319, R322, R343: a port reaches UP; a port that comes from RETRAIN keeps its sequence numbers, retry buffer and
credits, any other starts them anew. -/
def State.enterUp (s : State) (p : Nat) : State :=
  let again := decide ((s.port p).state = 7)
  let s := s.updPort p (fun t =>
    if again then { t with state := 6, sub := 0, reason := 0, resync := true, loggedReason := 0 }
    else { t with state := 6, sub := 0, reason := 0, resync := false, loggedReason := 0, txSeq := 0, rxSeq := 0, retry := [],
                  nakSent := false, resends := 0, ackSince := 0, credits := [1536, 256, 1536, 256], freed := [0, 0, 0, 0],
                  partials := [], wait := [] })
  let s := (s.journalCalib p).journalNeighbour p
  let known := s.fabric.db.filter (fun e => decide (e.1 ≠ s.fuses.serial))
  let s := known.foldl (fun s e => State.sendBeacon s e.2 p) s
  s.linksChanged

/-! Training (Table 11-3). -/

/-- A port in a state of training, in its own right or inside RETRAIN. -/
def State.inTraining (s : State) (p st : Nat) : Bool :=
  decide ((s.port p).state = st) || (decide ((s.port p).state = 7) && decide ((s.port p).sub = st))

/-- Takes a port to the next state of training. -/
def State.train (s : State) (p st : Nat) : State :=
  s.updPort p (fun t => if t.state = 7 then { t with sub := st } else { t with state := st, reason := 0 })

/-- Four powers in 0.01 dBm, 16 bits each. -/
def powerWord (l : List Int) : Word := BitVec.ofNat 64 ((l.zip (List.range 4)).foldl (fun a x => a + ofInt 16 x.1 * 2 ^ (16 * x.2)) 0)

/-- FP_RX_POWER, FP_TX_POWER and LOW_POWER follow the powers read. -/
def State.setPowers (s : State) (p : Nat) (l tx : List Int) : State :=
  let s := ((s.setReg (portReg p 0x18) (powerWord l)).setReg (portReg p 0x20) (powerWord tx)).updPort p (fun t => { t with power := l })
  if l.any (fun x => decide (x < warningLevel)) then s.setBit (portReg p 0) 3 else s

/-- LIGHT_CHECK (R315, R337): the check of received power and reverse light that LIGHT makes every 1 ms, with the powers that the
transmit lanes have. -/
def execLightCheck (p : PortId) (powers : LanePowers) (reverse : List Int) (s : State) : Res :=
  .next (if (s.port p.val).state ≠ 1 then s
  else
    let s := s.setPowers p.val powers.rx powers.tx
    if reverse.any (fun x => decide (reverseLevel ≤ x)) then s.exclude p.val 3
    else if litLanes powers.rx = 4 then s.train p.val 2
    else if litLanes powers.rx = 0 then s.updPort p.val (fun t => { t with reason := 2 })
    else s)

/-- LIGHT_PARTIAL_TIMEOUT (R315): light on 1 to 3 lanes for 10 ms. -/
def execLightPartialTimeout (p : PortId) (s : State) : Res :=
  let n := litLanes (s.port p.val).power
  .next (if (s.port p.val).state = 1 && 1 ≤ n && n ≤ 3 then s.exclude p.val 5 else s)

/-- LOCK_COMPLETE (R315, R317): the lanes have locked, their polarities are known and their equalisers have these settings. -/
def execLockComplete (p : PortId) (lock : LaneLock) (s : State) : Res :=
  .next (if s.inTraining p.val 2 then
    ((s.setFld (portReg p.val 0) 23 20 lock.polarity).updPort p.val (fun t => { t with calib := lock.calib })).train p.val 3
  else s)

/-- LOCK_TIMEOUT (R315): 100 ms in LOCK. -/
def execLockTimeout (p : PortId) (s : State) : Res :=
  .next (if (s.port p.val).state ≠ 2 then s
  else s.exclude p.val (if (s.port p.val).power.any (fun x => decide (x < sensitivityLevel)) then 4 else 5))

/-- The codeword that receive lane `l` of a port gets from these levels; POL_INV says which lanes are mirrored (R320). -/
def State.laneWord (s : State) (p l : Nat) (v : Codeword) : Codeword := ofLevels (decide (s.rfld (portReg p 0) (20 + l) (20 + l) = 1)) v

/-- R307, R308: the far lane numbers that four receive lanes' alignment codewords carry, each with the slot it arrived in; none
where a lane has none, its numbers are no permutation of 0 to 3, or the lanes have more skew than the receiver takes up. -/
def State.alignedLanes (s : State) (p : Nat) (marks : List (Codeword × Nat)) : Option (List Nat) :=
  let got := (marks.zip (List.range 4)).filterMap (fun x => (readAlign (s.laneWord p x.2 x.1.1)).map (fun a => (a.1, x.1.2, a.2.2)))
  let lanes := got.map (·.1)
  if lanes.length = 4 && (List.range 4).all (fun l => lanes.contains l) && deskews (got.map (·.2)) then some lanes else none

/-- ALIGN_COMPLETE (R308, R315): the receive lanes' alignment codewords and the slots of their arrival; a permutation of the far
lane numbers within the skew that the receiver takes up completes ALIGN. -/
def execAlignComplete (p : PortId) (marks : List (Codeword × Nat)) (s : State) : Res :=
  .next (match (if s.inTraining p.val 3 then s.alignedLanes p.val marks else none) with
  | some lanes =>
    let w := (lanes.zip (List.range 4)).foldl (fun a x => a + x.1 % 4 * 2 ^ (2 * x.2)) 0
    let s := (s.setFld (portReg p.val 0) 31 24 w).updPort p.val (fun t => { t with identValid := false })
    s.train p.val 4
  | none => s)

/-- ALIGN_TIMEOUT (R315): 2 ms in ALIGN. -/
def execAlignTimeout (p : PortId) (s : State) : Res := .next (if (s.port p.val).state = 3 then s.exclude p.val 8 else s)

/-- The magic of R316. -/
def identMagic : Nat := 0x4E4C4749

/-- IDENT_SEND (R316): the own IDENT control flit, every 10 µs in IDENT. -/
def execIdentSend (p : PortId) (s : State) : Res :=
  .next (if s.inTraining p.val 4 then
    s.emit (.identFlit p.val { magic := identMagic, version := Config.identVersion, serial := s.fuses.serial, fabricId := s.fabricId,
                               port := p.val, rxOk := true, acked := (s.port p.val).identValid })
  else s)

/-- R316: the reason of the first check that an IDENT fails, 0 where it passes. -/
def State.identReason (s : State) (i : Ident) : Nat :=
  if i.magic ≠ identMagic || i.version ≠ Config.identVersion then 8
  else if i.fabricId ≠ s.fabricId then 9
  else if i.serial = s.fuses.serial then 7
  else if s.modCfg 0x8703 600 < i.delayNs then 10
  else 0

/-- IDENT_FLIT (R316): an IDENT arrives and is checked; with RX_OK and the own IDENT acknowledged the port goes on to QUALIFY,
or back to UP from RETRAIN. -/
def execIdentFlit (p : PortId) (i : Ident) (s : State) : Res :=
  .next (if !s.inTraining p.val 4 then s
  else
    let r := s.identReason i
    let s := if r = 8 then s
      else ((s.setReg (portReg p.val 8) (BitVec.ofNat 64 i.serial)).setReg (portReg p.val 0x10) (BitVec.ofNat 64 i.delayNs)).setFld
        (portReg p.val 0) 39 36 i.port
    if r ≠ 0 then s.exclude p.val r
    else
      let s := s.updPort p.val (fun t => { t with identValid := true })
      if !(i.rxOk && i.acked) then s
      else if (s.port p.val).state = 7 then s.enterUp p.val
      else s.setPort p.val 5 0)

/-- IDENT_TIMEOUT (R315): 5 ms in IDENT. -/
def execIdentTimeout (p : PortId) (s : State) : Res :=
  .next (if (s.port p.val).state = 4 then s.exclude p.val (if (s.port p.val).identValid then 13 else 8) else s)

/-- QUALIFY_END (R315, R317): the symbol-error ratio of 1 ms in QUALIFY and the equaliser settings of the lanes. -/
def execQualifyEnd (p : PortId) (ppm : Nat) (calib : List Word) (s : State) : Res :=
  .next (if (s.port p.val).state ≠ 5 then s
  else if ppm ≤ s.modCfg 0x8702 100 then (s.updPort p.val (fun t => { t with calib := calib })).enterUp p.val
  else s.exclude p.val 6)

/-- RETRAIN_TIMEOUT (R314, R315): 50 ms in RETRAIN. -/
def execRetrainTimeout (p : PortId) (s : State) : Res :=
  .next (if (s.port p.val).state = 7 then s.takeDown p.val 1 12 else s)

/-- EXCLUDED_RETRY (R315): `fabric.retry_s` in EXCLUDED. -/
def execExcludedRetry (p : PortId) (s : State) : Res :=
  .next (if (s.port p.val).state = 8 then s.setPort p.val 1 (s.port p.val).reason else s)

/-- LASER_FAIL (R302): the four ports of the engine go down with the reason LASER. -/
def execLaserFail (k : EngineUnit) (s : State) : Res :=
  .next (if s.lasers.contains k.val || !s.start.domainsUp.contains (40 + k.val) then s
  else
    let s := { s with lasers := s.lasers ++ [k.val] }
    let s := (s.setBit fabStatus (8 + k.val)).raiseError { code := 0x0402, unit := 16, index := k.val, d5 := k.val }
    ((List.range 4).foldl (fun s i => State.takeDown s (4 * k.val + i) 0 11) s).refreshPins)

/-- LOSS_OF_SIGNAL (R313) on a lane. -/
def execLossOfSignal (p : PortId) (_lane : Nat) (s : State) : Res := .next (s.enterRetrain p.val)

/-- LOSS_OF_ALIGNMENT (R313) on a lane. -/
def execLossOfAlignment (p : PortId) (_lane : Nat) (s : State) : Res := .next (s.enterRetrain p.val)

/-- ACK_PROGRESS_TIMEOUT (R313): 100 µs without an advance of ACK while the retry buffer is not empty. -/
def execAckProgressTimeout (p : PortId) (s : State) : Res :=
  .next (if (s.port p.val).retry.isEmpty then s else s.enterRetrain p.val)

/-- LOW_POWER_WARNING (R320, R337): received and transmitted powers of a trained port. -/
def execLowPowerWarning (p : PortId) (powers : LanePowers) (s : State) : Res :=
  .next (if 2 ≤ (s.port p.val).state && (s.port p.val).state ≤ 7 then s.setPowers p.val powers.rx powers.tx else s)

/-! Flits received. -/

/-- The payload of a NAK control flit that names `seq`. -/
def nakPayload (seq : Nat) : List Byte := 1 :: leBytes 2 seq

/-- The message of a run of flits: envelope and body, LEN bytes of it. -/
def assemble (l : List Flit) : Message :=
  let ws := bytesWords (l.flatMap flitPayload)
  let m : Message := { w0 := atD ws 0 0, w1 := atD ws 1 0, w2 := atD ws 2 0, w3 := atD ws 3 0 }
  { m with body := (ws.drop 4).take (m.len / 8) }

/-- R343: flits freed on a lane of a port. -/
def State.freeCredits (s : State) (p vl n : Nat) : State := s.updPort p (fun t => { t with freed := modAt t.freed vl (· + n) })

/-- R339: a message that has arrived whole goes to its sink here or to the router. -/
def State.deliver (s : State) (p vl : Nat) (m : Message) : State :=
  if m.kind = 1 || s.fabric.rank = some m.dst then ({ s with inbox := s.inbox ++ [m] }).freeCredits p vl m.flits
  else { s with router := s.router ++ [{ msg := m, arrival := some p, escape := decide (vl % 2 = 1) }] }

/-- R338: takes an accepted flit of a message. -/
def State.takeFlit (s : State) (p : Nat) (f : Flit) : State :=
  let vl := flitVl f
  let part := SMap.getD (s.port p).partials vl []
  match flitType f with
  | 1 => s.updPort p (fun t => { t with partials := SMap.put t.partials vl [f] })
  | 2 => s.updPort p (fun t => { t with partials := SMap.put t.partials vl (part ++ [f]) })
  | 3 => (s.updPort p (fun t => { t with partials := SMap.del t.partials vl })).deliver p vl (assemble (part ++ [f]))
  | 4 => s.deliver p vl (assemble [f])
  | _ => s

/-- R311, R313: takes the ACK of a header; the first after a retrain starts the resend. -/
def State.takeAck (s : State) (p a : Nat) : State :=
  let re := (s.port p).resync
  let s := s.updPort p (fun t => { t.acked a with resync := false })
  if re then s.resend p else s

/-- R343: takes the credits of a header. -/
def State.takeCredit (s : State) (p : Nat) (f : Flit) : State :=
  s.updPort p (fun t => { t with credits := (List.range 4).map (fun v => atD t.credits v 0 + flitCredit f v) })

/-- R310: a flit is discarded; the first after a good one sends a NAK. -/
def State.discardFlit (s : State) (p : Nat) : State :=
  let s := s.inc (portReg p 0x38) 1
  if (s.port p).nakSent then s
  else (s.updPort p (fun t => { t with nakSent := true })).txControl p (nakPayload (s.port p).rxSeq)

/-- R310 to R312, R338, R343: takes a flit of a decoded codeword. -/
def State.flitIn (s : State) (p : Nat) (f : Flit) : State :=
  if !flitGood f then s.discardFlit p
  else if flitType f = 0 then ((s.takeAck p (flitAck f)).takeCredit p f).flushPort p
  else if 6 ≤ flitType f || flitSeq f ≠ (s.port p).rxSeq then (s.takeAck p (flitAck f)).discardFlit p
  else
    let s := (s.takeAck p (flitAck f)).takeCredit p f
    let s := s.updPort p (fun t => { t with rxSeq := (t.rxSeq + 1) % 65536, nakSent := false, ackSince := t.ackSince + 1 })
    let s := s.takeFlit p f
    let s := if (s.port p).ackSince ≥ 64 then s.txAck p else s
    s.flushPort p

/-- R306, R337: what the lane's FEC makes of a received codeword, counted once for the codeword's five flits, at the first; its
data where it decodes. -/
def State.fecIn (s : State) (p lane pos : Nat) (levels : Codeword) : Option Nat × State :=
  match rsDecode (s.laneWord p lane levels) with
  | some (d, n) => (some d, if pos = 0 then s.inc (portReg p 0x28) n else s)
  | none => (none, if pos = 0 then s.inc (portReg p 0x30) 1 else s)

/-- FLIT_RECEIVE (R306 to R312, R338, R343): flit `pos` of a codeword that a receive lane of a port in UP has got; the lanes
are already deskewed, so the flits come in the order of the port's frame (R308). -/
def execFlitReceive (p : PortId) (got : LaneCodeword) (pos : Fin 5) (s : State) : Res :=
  .next (if !s.portUp p.val then s
  else
    let r := s.fecIn p.val got.lane.val pos.val got.levels
    match r.1 with
    | some d => r.2.flitIn p.val (codewordFlit d pos.val)
    | none => r.2.discardFlit p.val)

/-- NAK (R311, R313): the transmitter resends from the named sequence; the 16th resend of one sequence without progress
starts a retrain. -/
def execNak (p : PortId) (seq : Nat) (s : State) : Res :=
  .next (if !s.portUp p.val then s
  else
    let s := s.updPort p.val (fun t => t.acked (seq % 65536))
    let t := s.port p.val
    let n := if t.resendSeq = t.base then t.resends + 1 else 1
    let s := (s.updPort p.val (fun t => { t with resends := n, resendSeq := t.base })).inc (portReg p.val 0x40) 1
    if n ≥ 16 then s.enterRetrain p.val else s.resend p.val)

/-- NAK_REPEAT (R310): 2 µs after a NAK whose sequence has not arrived. -/
def execNakRepeat (p : PortId) (s : State) : Res :=
  .next (if s.portUp p.val && (s.port p.val).nakSent then s.txControl p.val (nakPayload (s.port p.val).rxSeq) else s)

/-- ACK_TIMER (R312): 500 ns without an ACK. -/
def execAckTimer (p : PortId) (s : State) : Res :=
  .next (if s.portUp p.val then s.txAck p.val else s)

end Sys2Proof.Machine
end

