-- ==== Sys2Proof/Machine/Router.lean ====
section
/-! DEFINITION. The router (R332, R342 to R344, R484): the choice of a port and lane for a waiting message, and the discard of
one that has waited too long. -/

namespace Sys2Proof.Machine

open Sys2Proof

/-- The waiting message at an index of the router. -/
def State.waitingAt (s : State) (k : Nat) : Option Waiting := s.router[k]?

/-- Table 12-3: the adaptive lane of a message's class; the escape lane is the next. -/
def messageLane (m : Message) : Nat := if m.response then 2 else 0

/-- The message has left the router: its place is free, and the flits of its arrival lane return as credits (R343). -/
def State.leaveRouter (s : State) (k : Nat) (w : Waiting) : State :=
  let s := { s with router := s.router.eraseIdx k }
  match w.arrival with
  | some p => s.freeCredits p (messageLane w.msg + if w.escape then 1 else 0) w.msg.flits
  | none => s

/-- R332: of the adaptive ports that can take the message, the one with the most free credits, ties to the lowest. -/
def State.adaptivePort (s : State) (r : Route) (m : Message) : Option Nat :=
  let vl := messageLane m
  let cr := fun (p : Nat) => atD (s.port p).credits vl 0
  ((sortBy (fun a b => decide (a < b)) r.adaptive).filter (fun p => s.laneTakes p vl m)).foldl (fun acc p =>
    match acc with
    | none => some p
    | some q => if cr q < cr p then some p else some q) none

/-- R344: whether the hop over which a message arrived was a down link of the up*/down* tree. -/
def State.cameDown (s : State) (p : Nat) : Bool :=
  !upHop (mapLevels s.fabric.map) (s.regN (portReg p 8)) s.fuses.serial

/-- R344: the escape port of a waiting message. -/
def State.escapePort (s : State) (r : Route) (w : Waiting) : Option Nat :=
  match w.arrival with
  | some p => if w.escape && s.cameDown p then r.down else r.escape
  | none => r.escape

/-- R332, R344: the port and lane that a waiting message takes now. -/
def State.choosePort (s : State) (r : Route) (w : Waiting) : Option (Nat × Nat) :=
  let vl := messageLane w.msg
  let ad := if w.escape then none else s.adaptivePort r w.msg
  match ad with
  | some p => some (p, vl)
  | none =>
    match s.escapePort r w with
    | some p => if s.laneTakes p (vl + 1) w.msg then some (p, vl + 1) else none
    | none => none

/-- A message with a route that no port can take waits for credits, counted once (R344). -/
def State.countWait (s : State) (k : Nat) (w : Waiting) : State :=
  if w.counted then s
  else
    let s := { s with router := s.router.set k { w with counted := true } }
    s.inc (xuReg (0x38 + 8 * (messageLane w.msg + if w.escape then 1 else 0))) 1

/-- R39, R218: a primary message of the same class waits and can take the port now; a filler's message waits for it. -/
def State.primaryFirst (s : State) (m : Message) (p : Nat) : Bool :=
  decide (m.slot ≠ 0) && s.router.any (fun x => decide (x.msg.slot = 0) && (x.msg.response == m.response) &&
    (match SMap.find? s.fabric.routes x.msg.dst with
     | some r => decide ((s.choosePort r x).map (·.1) = some p)
     | none => false))

/-- MESSAGE_FORWARD (R332, R344): a waiting message takes a port whose lane holds credits for all of it, or waits on; a filler's
message waits behind a primary one of its class. -/
def execMessageForward (k : Nat) (s : State) : Res :=
  .next (match s.waitingAt k with
  | none => s
  | some w =>
    match SMap.find? s.fabric.routes w.msg.dst with
    | none => s
    | some r =>
      match s.choosePort r w with
      | none => if r.adaptive.isEmpty && r.escape.isNone then s else s.countWait k w
      | some (p, vl) =>
        if s.primaryFirst w.msg p then s
        else
        let s := (s.leaveRouter k w).txMessage p vl w.msg
        if vl % 2 = 1 then s.inc (xuReg 0x30) 1 else s)

/-- MESSAGE_HOLD_DROP (R484): a message that has waited longer than `fault.hold_limit_ms` is discarded. -/
def execMessageHoldDrop (k : Nat) (s : State) : Res :=
  .next (match s.waitingAt k with
  | none => s
  | some w => ((s.leaveRouter k w).inc (faultReg 0x40) 1).messageLost (w.arrival.getD 0) w.msg)

end Sys2Proof.Machine
end

