-- ==== Sys2Proof/Machine/Start.lean ====
section
/-! DEFINITION. Starts (R404, R437, R443 to R447, R450, R455 to R459, R518, R535): what a start keeps, the bring-up of the power
domains, their rail checks, the journal restore, and the events that begin or end a start. -/

namespace Sys2Proof.Machine

open Sys2Proof

/-! What a start keeps. -/

/-- R404, R452, R542: the parts that the always-on domain, flash, fuses and the system's signals carry across a start; every other
part of the machine begins anew. -/
def State.kept (s : State) (on up : List Nat) : State :=
  { fuses := s.fuses, pending := s.pending, freeCtr := s.freeCtr, out := s.out, flash0 := s.flash0, flash1 := s.flash1
    journal := { queue := s.journal.queue, lost := s.journal.lost }
    faults := { owed := s.faults.owed }
    link := { perst := s.link.perst }
    pins := { smbAddr := s.pins.smbAddr, smbAlert := s.pins.smbAlert, modFault := s.pins.modFault, smbStuck := s.pins.smbStuck
              jtagIr := if up.contains 48 then s.pins.jtagIr else 0x01 }
    start := { s.start with prevStage := if s.stage = 0 then s.start.prevStage else s.stage, domainsOn := on, domainsUp := up
                            hbmReady := false, slateReady := false, mapAdopted := false, trip := false, shutdown := 0 } }

/-- A domain has failed at this start (R444). -/
def State.domainFailed (s : State) (d : Nat) : Bool := decide (s.rfld (imgReg 0x808) d d = 1)

/-- A domain is up. -/
def State.domainUp (s : State) (d : Nat) : Bool := s.start.domainsUp.contains d

/-- R443: every domain of a row has passed its checks or has failed. -/
def State.settled (s : State) (l : List Nat) : Bool := l.all (fun d => s.domainUp d || s.domainFailed d || s.pace.deadDomains.contains d)

/-- Begins the soft-start of the domains of a row that are off and have not failed. -/
def State.powerRow (s : State) (l : List Nat) : State :=
  let off := l.filter (fun d => !s.start.domainsOn.contains d && !s.domainFailed d && !s.pace.deadDomains.contains d)
  { s with start := { s.start with domainsOn := s.start.domainsOn ++ off } }

/-! Table 15-1. -/

/-- Row 1. -/
def row1 : List Nat := [48, 47]
/-- Row 2. -/
def row2 : List Nat := [44, 45]
/-- Row 3. -/
def row3 : List Nat := (List.range 8).map (· + 32) ++ [46] ++ (List.range 4).map (· + 40)
/-- Row 4. -/
def row4 : List Nat := List.range 32

/-- The die uncores and the optical engines, which the ports need. -/
def portDomains : List Nat := [40, 41, 42, 43, 44, 45]

/-- R444, R535: an error of the always-on domain is recorded at once, or is owed to the next start. -/
def State.raiseOrOwe (s : State) (e : ErrInfo) : State :=
  if s.domainUp 48 then s.raiseError e else { s with faults := { s.faults with owed := s.faults.owed ++ [e] } }

/-- R446, R454, R535: row 1 is up: the BOOT entry is queued first, then the records owed are placed. -/
def State.rowOneUp (s : State) : State :=
  let l := s.faults.owed
  let s := (s.setStage 1).bootEntry
  l.foldl (fun s e => State.raiseError s e) { s with faults := { s.faults with owed := [] } }

/-- R315, R445: the port's engine and the uncores are up and the image enables it. -/
def State.portUsable (s : State) (p : Nat) : Bool :=
  decide (bits (s.modCfg 0x701 0xFFFF) p p = 1) && s.domainUp 44 && s.domainUp 45 && s.domainUp (40 + p / 4)

/-- R315, R445: the ports that can run enter LIGHT, the others stay OFF. -/
def State.startPorts (s : State) : State :=
  (List.range 16).foldl (fun s p =>
    let t := State.port s p
    if t.state ≠ 0 || t.reason = 11 then s
    else if !State.portUsable s p then State.setPort s p 0 1
    else if s.lasers.contains (p / 4) then State.setPort s p 0 11
    else State.setPort s p 1 0) s

/-- Table 15-4: both memories initialised, or absent with their domains (R445). -/
def State.memoriesReady (s : State) : Bool :=
  (s.start.hbmReady || (List.range 8).all (fun k => !s.domainUp (32 + k))) && (s.start.slateReady || !s.domainUp 46)

/-- Stage MEMORY ends when both memories are initialised. -/
def State.memoryStage (s : State) : State := if s.memoriesReady then (s.setStage 5).reachReady else s

/-- R443, R446: what the settled rows allow next. -/
def State.domainsStage (s : State) : State :=
  let s := s.powerRow row2
  if !s.settled row2 then s
  else
    let s := s.powerRow row3
    let s := if s.settled portDomains then s.startPorts else s
    if !s.settled row3 then s
    else
      let s := s.powerRow row4
      if s.settled row4 then (s.setStage 4).memoryStage else s

/-- R443, R446: moves a start on as far as its domains and memories allow. -/
def State.advanceStart (s : State) : State :=
  if s.start.trip then s
  else if s.stage = 0 then
    let s := s.powerRow row1
    if s.settled row1 && s.domainUp 48 then s.rowOneUp else s
  else if s.stage = 3 then s.domainsStage
  else if s.stage = 4 then s.memoryStage
  else s

/-- R404, R446: a start begins with a cause of Table 15-11; the domains of `up` stay up and those of `on` go on ramping. -/
def State.beginStart (s : State) (cause : Nat) (on up : List Nat) : State :=
  let s := s.kept on up
  let s := { s with start := { s.start with cause := 0 } }
  let s := (s.setFld startStatus 15 8 cause).setReg (fabReg 8) (BitVec.ofNat 64 s.fuses.serial)
  let s := s.setReg 0 (BitVec.ofNat 64 (0x1296 + s.fuses.stepping % 256 * 2 ^ 16))
  s.refreshPins.advanceStart

/-- A start may begin: input and PWR_EN present, no over-voltage, no trip, nothing powered. -/
def State.canStart (s : State) : Bool :=
  s.start.aoOn && s.start.input && s.start.pwrEn && !s.start.overVolt && !s.start.trip && s.start.domainsOn.isEmpty

/-- R443: a start begins when it may, with the cause that is due, else PWR_EN. -/
def State.tryStart (s : State) : State :=
  if s.canStart then s.beginStart (if s.start.cause = 0 then 2 else s.start.cause) [] [] else s

/-! Domains going off. -/

/-- Table 17-9: the domains of a list are off: DOM_STATE shows no rail, neither ON nor VMAX. -/
def State.domainsOff (s : State) (l : List Nat) : State :=
  l.foldl (fun s d => ((s.setFld (domState d) 15 0 0).setFld (domState d) 32 32 0).setFld (domState d) 35 35 0) s

/-- R463, R518: domains 0 to 46 are off: the cores, the memories, the fabric and every job are gone; the service complex and the
host link go on. -/
def State.dropMain (s : State) : State :=
  let keep := fun (l : List Nat) => l.filter (fun d => decide (47 ≤ d))
  let s := s.domainsOff (s.start.domainsOn.filter (fun d => decide (d < 47)))
  let s := { s with
    cores := [], mem := [], memErr := [], controllers := [], slate := {}, jobs := [], inbox := [], router := []
    collectives := [], ports := [], fabric := { epoch := s.fabric.epoch }
    start := { s.start with domainsOn := keep s.start.domainsOn, domainsUp := keep s.start.domainsUp, hbmReady := false
                            slateReady := false, mapAdopted := false }
    faults := { s.faults with flintPoint := none } }
  (s.clearBit faultStatus 6).refreshGuidon

/-- R464, R518, R535: domains 0 to 48 are off; only the always-on domain runs. -/
def State.aoOnly (s : State) : State :=
  let stage := if s.stage = 0 then s.start.prevStage else s.stage
  let s := (s.domainsOff (s.start.domainsOn.filter (fun d => decide (47 ≤ d)))).dropMain
  let s := { s with
    link := { perst := s.link.perst }, journal := { queue := s.journal.queue, lost := s.journal.lost }, image := none, cfg := []
    staged := [], pins := { s.pins with jtagIr := 0x01, scan := 0, floating := false, driven := none }
    start := { s.start with domainsOn := [], domainsUp := [], prevStage := stage } }
  s.setStage 0

/-! Rail checks (Table 15-2). -/

/-- R444, R445: a domain whose output is shorted is off until the next start. -/
def State.failDomain (s : State) (d : Nat) : State :=
  let s := { s with start := { s.start with domainsOn := s.start.domainsOn.filter (fun x => x != d) } }
  let f := s.free
  let s := ((f.2.setFld (imgReg 0x808) d d 1).setFld (domState d) 33 33 1).setBit startStatus 4
  (s.raiseOrOwe { code := 0x0901, unit := 17, index := d, action := 7, d5 := d, d6 := f.1 }).refreshPins

/-- R444: whether the remote sense of a rail is open. -/
def senseOpen (r : RailReading) : Bool :=
  decide (r.remote + 50 < r.localMv) || decide (r.localMv + 50 < r.remote) || decide (5 * r.remote < r.target) ||
  decide (3 * r.target < 2 * r.remote)

/-- R444: a domain has ramped; with an open remote sense it regulates on local sense. -/
def State.raiseDomain (s : State) (d : Nat) (r : RailReading) : State :=
  let s := { s with start := { s.start with domainsUp := s.start.domainsUp ++ [d] } }
  let s := (s.setFld (domState d) 15 0 r.target).setFld (domState d) 32 32 1
  if senseOpen r then
    ((s.setFld (imgReg 0x810) d d 1).setFld (domState d) 34 34 1).raiseOrOwe { code := 0x0902, unit := 17, index := d, d5 := d }
  else s

/-- A domain in soft-start. -/
def State.ramping (s : State) (d : Nat) : Bool := s.start.domainsOn.contains d && !s.domainUp d

/-- SOFT_START_END (R443, R444): a domain's ramp ends and its rail is checked. -/
def execSoftStartEnd (d : DomainId) (r : RailReading) (s : State) : Res :=
  .next (if !s.ramping d.val then s
  else (if 2 * r.output < r.target then s.failDomain d.val else s.raiseDomain d.val r).advanceStart)

/-- SHORTED_OUTPUT (R444): the regulator's limit for 100 µs during soft-start. -/
def execShortedOutput (d : DomainId) (s : State) : Res :=
  .next (if s.ramping d.val then (s.failDomain d.val).advanceStart else s)

/-! The journal restore. -/

/-- R437, R450, R455: a live setting takes its journalled value, or the image's; `image` says that the image's value is taken
and queued. -/
def State.restoreLive (s : State) (items : List JEntry) (image : Bool) : State :=
  (imageLive s.cfg).foldl (fun s x =>
    if image then
      (State.setReg s x.1 (BitVec.ofNat 64 x.2)).jqueue { kind := 1, body := [BitVec.ofNat 64 x.1, BitVec.ofNat 64 x.2] }
    else
      State.setReg s x.1 (BitVec.ofNat 64 (match itemOf items 1 (some x.1) with | some b => atD b 1 0 | none => x.2))) s

/-- R317: the retained calibration of a port, a lane's settings zero where the journal holds none. -/
def calibOf (items : List JEntry) (p : Nat) : List Word :=
  let lane := fun (l : Nat) => items.find? (fun e => decide (e.kind = 2) && decide ((atD e.body 0 0).toNat % 64 = p + 16 * l))
  if (List.range 4).all (fun l => (lane l).isNone) then []
  else (List.range 4).flatMap (fun l => match lane l with
    | some e => (List.range 4).map (fun i => atD e.body (i + 1) 0)
    | none => List.replicate 4 0)

/-- The items other than the live settings take their places (Table 15-8). -/
def State.restoreItems (s : State) (items : List JEntry) : State :=
  let s := (List.range 4).foldl (fun s i =>
    State.setReg s (ackReg i) (BitVec.ofNat 64 (match itemOf items 8 (some i) with | some b => atD b 2 0 | none => 0))) s
  let s := (List.range 16).foldl (fun s p =>
    let c := calibOf items p
    if c.isEmpty then s else State.updPort s p (fun t => { t with calib := c })) s
  let epoch := match itemOf items 4 (some 0) with | some b => b.headD 0 % 2 ^ 32 | none => 0
  let s := { s with fabric := { s.fabric with epoch := epoch } }
  let trims := (List.range 64).filterMap (fun d => (itemOf items 5 (some d)).map (fun b => (d, b.headD 0)))
  let s := { s with pace := { s.pace with
    trims := trims.map (fun (x : Nat × Nat) => (x.1, sint 16 (bits x.2 31 16)))
    topPace := trims.map (fun (x : Nat × Nat) => (x.1, bits x.2 47 32)) } }
  let quarantined := match itemOf items 6 (some 0) with | some b => b.headD 0 % 2 | none => 0
  let s := (s.setFld faultStatus 4 4 quarantined).refreshPins
  { s with journal := { s.journal with lost := match itemOf items 0x0B none with | some b => b.headD 0 | none => 0 } }

/-- The journal's own state after a restore (R450, R451). -/
def State.takeJournal (s : State) (r : JRead) : State :=
  let owed := r.empty || r.resync || r.fellBack
  let s := { s with journal := { s.journal with
    items := r.items, errors := r.errors, slot := r.slot, slotSeq := r.slotSeq, seq := r.seq, logLine := r.line
    snapshotOwed := owed, restored := true } }
  let s := (s.setFld (imgReg 0x820) 4 4 (if r.empty then 1 else 0)).setFld (imgReg 0x820) 3 3 (if r.resync then 1 else 0)
  (s.setFld (imgReg 0x820) 2 2 (if r.fellBack then 1 else 0)).refreshJournal

/-! Image selection. -/

/-- R13, R450, R455: in recovery mode the retained items take their places too; a live setting without an item reads 0, since
no image is booted. -/
def State.restoreRecovery (s : State) : State :=
  let r := s.journalRead
  let items := (s.retained r).1
  let s := (imageLive []).foldl (fun s x =>
    State.setReg s x.1 (BitVec.ofNat 64 (match itemOf items 1 (some x.1) with | some b => atD b 1 0 | none => 0))) (s.takeJournal r)
  (s.setBit startStatus 6).restoreItems items

/-- R412: no slot boots; the module restores its retained items and brings up the slate tier. -/
def State.enterRecovery (s : State) : State :=
  let s := s.restoreRecovery
  let s := { s with start := { s.start with domainsOn := s.start.domainsOn ++ [46].filter (fun d => !s.start.domainsOn.contains d) } }
  ((s.setBit (imgReg 0) 2).setStage 10).refreshPins

/-- R410: a device that answers with data that fails every check: no control block and no journal slot of it holds (an erased
device is one; log entry 164). -/
def FlashDevice.garbled (d : FlashDevice) : Bool :=
  d.answers && (readCb (d.read 0 64)).isNone && (readCb (d.read 0x1000 64)).isNone && d.journalSlots.isEmpty

/-- R410: the check of a device at start: one that does not answer, or whose data fail every check, is counted and recorded. -/
def State.flashCheck (s : State) (x : Nat) : State :=
  if (s.flash x).answers && !(s.flash x).garbled then s else (s.inc (imgReg 0x58) 1).raiseError { code := 0x0703, d5 := x }

/-- R409: tries the slots of an order; a TRIAL counts its start before use. -/
def State.trySlots : State → List Nat → State
  | s, [] => s.enterRecovery
  | s, x :: rest =>
    let s := if (s.cb x).state = 3 then s.putCb x (fun c => { c with tries := c.tries + 1 }) else s
    match s.verify x with
    | none => s.boot x
    | some e => State.trySlots ((s.reject e x).markBad x e.code) rest

/-- IMAGE_SELECTION (R409): in stage VERIFY, with the service complex up, a slot boots or the module enters recovery. -/
def execImageSelection (s : State) : Res :=
  .next (if s.stage ≠ 1 || !s.start.domainsUp.contains 48 then s
  else
    let s := ((s.flashCheck 0).flashCheck 1).identity
    let s := (s.trialLimit 0).trialLimit 1
    s.trySlots s.bootOrder)

/-- R437: the booted image takes every live setting from itself. -/
def State.liveReset (s : State) (r : JRead) : Bool :=
  match s.image with
  | some b => decide (bits (fieldAt b.header 0x20 4) 0 0 = 1) && decide (b.gen ≠ r.gen)
  | none => false

/-- JOURNAL_RESTORE (R450, R451, R455 to R458): with an image booted, the module restores its retained state, the power limiter
begins at the pace ceiling, and the next rows of domains begin. -/
def execJournalRestore (s : State) : Res :=
  .next (if s.stage ≠ 2 || !s.domainUp 48 then s
  else
    let r := s.journalRead
    let items := (s.retained r).1
    let s := s.takeJournal r
    let s := (s.restoreLive items (r.empty || s.liveReset r)).setBit startStatus 6
    let s := s.restoreItems items
    let s := { s with pace := { s.pace with pPow := s.paceCeiling } }
    (s.refreshPace.setStage 3).advanceStart)

/-! Memories. -/

/-- HBM_INITIALISED (R446): every line of HBM holds zero data and a valid code. -/
def execHbmInitialised (s : State) : Res :=
  .next (if s.start.hbmReady || (s.stage ≠ 3 && s.stage ≠ 4) || !s.settled ((List.range 8).map (· + 32)) then s
  else
    let s := { s with
      mem := s.mem.filter (fun c => decide (slateBase ≤ c.1)), memErr := s.memErr.filter (fun c => decide (slateBase ≤ c.1))
      start := { s.start with hbmReady := true } }
    s.advanceStart)

/-- Bytes that the host writes through BAR2 reach module memory as class 4 line writes (R289); the region is pinned in the slate
tier (R373). -/
def State.putBar2 (s : State) (off : Nat) (bs : List Byte) : State :=
  let s := (lines (s.bar2Base + off) bs.length).foldl (fun s l => (s.serve (s.place l) true).countLine (s.place l) 4 true) s
  { s with mem := Mem.putBytes s.mem (s.bar2Base + off) bs }

/-- SLATE_INITIALISED (R446, R447): the slate tier holds zero data; BAR2 writes held by flow control are then made. -/
def execSlateInitialised (s : State) : Res :=
  .next (if s.start.slateReady || !s.domainUp 46 || (s.stage ≠ 3 && s.stage ≠ 4 && s.stage ≠ 10) then s
  else
    let early := s.link.earlyWrites
    let s := { s with
      mem := s.mem.filter (fun c => decide (c.1 < slateBase)), memErr := s.memErr.filter (fun c => decide (c.1 * 64 < slateBase))
      start := { s.start with slateReady := true }, link := { s.link with earlyWrites := [] } }
    (early.foldl (fun s x => State.putBar2 s x.1 x.2) s).advanceStart)

/-! Input and PWR_EN (Table 18-4, R443, R464, R536). -/

/-- INPUT_RISE (R535, R536, R542): the input reaches 40 V; a stopped always-on domain starts and samples its address straps. -/
def execInputRise (straps : Nat) (s : State) : Res :=
  .next (let s := { s with start := { s.start with input := true } }
    let s := if s.start.aoOn then s
      else { s with start := { s.start with aoOn := true, cause := 1 }, pins := { s.pins with smbAddr := 0x58 + straps % 8 } }
    s.tryStart)

/-- R535: an input condition turns domains 0 to 48 off; its record is owed, and the next start shows POWER_ON. -/
def State.inputFault (s : State) : State :=
  let s := s.aoOnly
  let f := s.free
  let s := f.2.raiseOrOwe { code := 0x0901, unit := 14, index := 49, action := 7, d5 := 49, d6 := f.1 }
  { s with start := { s.start with cause := 1 } }

/-- UNDER_VOLTAGE (R535): below 38 V for 10 µs while domains 0 to 48 are on. -/
def execUnderVoltage (s : State) : Res :=
  .next (if !s.start.aoOn || s.start.domainsOn.isEmpty then s
  else
    let s := s.inputFault
    { s with start := { s.start with input := false } })

/-- LOSS_OF_INPUT (R465, R535): the always-on domain stops, and its retention RAM is lost. -/
def execLossOfInput (s : State) : Res :=
  .next { fuses := s.fuses, pending := s.pending, freeCtr := s.freeCtr, out := s.out, flash0 := s.flash0, flash1 := s.flash1
          link := { perst := s.link.perst }, start := { pwrEn := s.start.pwrEn } }

/-- OVER_VOLTAGE (R535): above 62 V for 10 µs. -/
def execOverVoltage (s : State) : Res :=
  .next (if !s.start.aoOn then s
  else
    let s := s.inputFault
    { s with start := { s.start with overVolt := true } })

/-- OVER_VOLTAGE_CLEAR (R535): at or below 60 V for 100 ms. -/
def execOverVoltageClear (s : State) : Res :=
  .next (let s := { s with start := { s.start with overVolt := false } }
    s.tryStart)

/-- PWR_EN_ASSERT (R443, R536). -/
def execPwrEnAssert (s : State) : Res :=
  .next (let s := { s with start := { s.start with pwrEn := true } }
    s.tryStart)

/-- PWR_EN_DEASSERT (R464): domains 0 to 48 turn off. -/
def execPwrEnDeassert (s : State) : Res :=
  .next (let s := { s with start := { s.start with pwrEn := false } }
    if s.start.aoOn then s.aoOnly else s)

/-! Thermal trips (R518). -/

/-- THERMAL_TRIP (R518): a sensor of domain `d` crosses its trip threshold; one of domains 47 and 48 takes those off too. Which
sensor, and its reading, are free (log entry 41). -/
def execThermalTrip (d : DomainId) (s : State) : Res :=
  .next (if !s.start.aoOn || d.val = 49 then s
  else
    let f := s.free
    let g := f.2.free
    let e : ErrInfo := { code := 0x0903, unit := 14, action := 7, d5 := f.1, d6 := g.1 }
    let stage := if s.stage = 0 then s.start.prevStage else s.stage
    let s := if d.val = 47 || d.val = 48 then g.2.aoOnly else (g.2.dropMain).setStage 0
    let s := { s with start := { s.start with trip := true, prevStage := stage }, pins := { s.pins with thermTrip := true } }
    ((s.inc (pgReg 0x50) 1).raiseInt 9).raiseOrOwe e)

/-- TRIP_RECOVERY (R518): every sensor has been below its restart limit for 10 s; a start begins that keeps domains 47 and 48
where they are up. -/
def execTripRecovery (s : State) : Res :=
  .next (if !s.start.trip then s
  else if s.start.domainsUp.isEmpty then
    let s := { s with start := { s.start with trip := false, cause := 4 } }
    s.tryStart
  else s.beginStart 4 s.start.domainsOn s.start.domainsUp)

/-! The host link's resets (R404, Table 13-12). -/

/-- The function is no longer ready and issues no request. -/
def State.linkDown (s : State) : State := { s with link := { s.link with ready := false, l0 := false } }

/-- R404: the module resets itself, sparing the always-on domain and the retained state, and reboots; a stopped module and one
that waits out a trip do not (R463, R518). -/
def State.selfReset (s : State) : State :=
  let s := s.linkDown
  if s.domainUp 48 && !s.start.trip && s.stage ≠ 12 then s.beginStart 3 s.start.domainsOn s.start.domainsUp else s

/-- PERST_ASSERT (R404). -/
def execPerstAssert (s : State) : Res :=
  .next (let s := { s with link := { s.link with perst := true } }
    s.selfReset)

/-- PERST_DEASSERT (R404): configuration requests are answered with Request Retry Status until FUNCTION_READY. -/
def execPerstDeassert (s : State) : Res :=
  .next (let s := { s with link := { s.link with perst := false } }
    s)

/-- FUNCTION_LEVEL_RESET (R404). -/
def execFunctionLevelReset (s : State) : Res := .next (if s.link.ready then s.selfReset else s)

/-- D3HOT_ENTRY (R404). -/
def execD3hotEntry (s : State) : Res := .next (if s.link.ready then s.selfReset else s)

/-- LINK_LEAVES_L0 (R404): transfers wait. -/
def execLinkLeavesL0 (s : State) : Res :=
  .next (let s := { s with link := { s.link with l0 := false } }
    s)

/-- LINK_RETURN (R404): the link is in L0 again within 100 ms. -/
def execLinkReturn (s : State) : Res :=
  .next (if s.link.ready && !s.link.perst then { s with link := { s.link with l0 := true } } else s)

/-- LINK_LOSS_TIMEOUT (R404): 100 ms out of L0. -/
def execLinkLossTimeout (s : State) : Res := .next (if s.link.ready && !s.link.l0 then s.selfReset else s)

/-- FUNCTION_READY (R404): the function answers without Request Retry Status; HL_STATUS shows READY, rate and width. -/
def execFunctionReady (rate width : Nat) (s : State) : Res :=
  .next (if s.link.perst || !s.domainUp 47 || !s.domainUp 48 then s
  else
    let s := { s with link := { s.link with ready := true, l0 := true } }
    ((s.setFld hlStatus 12 8 width).setFld hlStatus 7 4 rate).setFld hlStatus 0 0 1)

/-! Shutdown (R463). -/

/-- R463: the mode of a SHUTDOWN argument; none for any other argument. -/
def shutdownMode (a : List Byte) : Option Nat :=
  if a.length = 8 && fieldAt a 0 8 ≤ 1 then some (fieldAt a 0 8) else none

/-- R463, steps 2 to 5: the ports stop, the journal is flushed behind a fresh snapshot, the status is returned, and domains 0 to
46 turn off. -/
def State.finishShutdown (s : State) (mode status : Nat) : State :=
  let s := (List.range 16).foldl (fun s p => State.takeDown s p 0 1) s
  let s := s.jqueue { kind := 10, body := [BitVec.ofNat 64 mode, BitVec.ofNat 64 (s.job 0).committed] }
  let s := if s.journalReady then let t := s.writeSnapshot; t.programEntries t.journal.queue.length else s
  let s := (s.mboxDone status []).dropMain
  let s := (List.range 16).foldl (fun s p => State.setPort s p 0 1) s
  s.setStage 12

/-- R463: the step in progress when a drain begins: one that the module has voted or whose frames land. -/
def State.stepInProgress (s : State) : Nat :=
  let j := s.job 0
  if j.committed < j.voted || j.signalled ≠ 0 || !j.landed.isEmpty then j.committed + 1 else j.committed

/-- R463: the drain is over: the step in progress has committed and every step is acknowledged. -/
def State.drained (s : State) : Bool := decide (s.start.shutdown ≤ (s.job 0).committed) && decide (s.unacked 0 = 0)

/-- SHUTDOWN_DRAIN (R463, mode 0): the module enters stage SHUTDOWN and, once the step in progress has committed and been
acknowledged, stops; a module that is no member stops at once. -/
def execShutdownDrain (s : State) : Res :=
  .next (s.mboxRun 0x20 (fun a s =>
    match shutdownMode a with
    | none => s.mboxDone 2 []
    | some 0 =>
      let member := (s.job 0).member && (s.job 0).admitted
      let s := if s.stage = 11 then s
        else
          let n := s.stepInProgress
          ({ s with start := { s.start with shutdown := n } }).setStage 11
      if !member || s.drained then s.finishShutdown 0 0 else s
    | some _ => s))

/-- SHUTDOWN_IMMEDIATE (R463, mode 1). -/
def execShutdownImmediate (s : State) : Res :=
  .next (s.mboxRun 0x20 (fun a s =>
    match shutdownMode a with
    | none => s.mboxDone 2 []
    | some 1 => (s.setStage 11).finishShutdown 1 0
    | some _ => s))

/-- SHUTDOWN_TIMEOUT (R463): `shutdown.timeout_s` of a drain have passed. -/
def execShutdownTimeout (s : State) : Res :=
  .next (s.mboxRun 0x20 (fun _ s => if s.stage = 11 then s.finishShutdown 0 3 else s))

end Sys2Proof.Machine
end

