-- ==== Sys2Proof/Machine/Board.lean ====
section
/-! DEFINITION. The SMBus port (R542 to R546) and the JTAG port (R547 to R549). -/

namespace Sys2Proof.Machine

open Sys2Proof

/-! SMBus commands (Table 18-7). -/

/-- The packet error code of SMBus 3.x: the CRC with x^8 + x^2 + x + 1 of a command's bytes (log entry 157). -/
def crc8 (bs : List Byte) : Byte := bs.foldl (fun c b =>
  (List.range 8).foldl (fun (c : Byte) _ => if c.getLsbD 7 then (c <<< 1) ^^^ 0x07 else c <<< 1) (c ^^^ b)) 0

/-- The bytes with which a controller begins a command: the address with a write, the code, and what it writes. -/
def State.smbBegin (s : State) (code : Nat) (written : List Byte) : List Byte :=
  [BitVec.ofNat 8 (2 * s.pins.smbAddr), BitVec.ofNat 8 code] ++ written

/-- R543, R544, R546: the port answers a command, and a byte read beyond the answer is its packet error code over all bytes of the
command; a command ends an episode of a held bus. -/
def State.smbReply (s : State) (code : Nat) (written : List Byte) (block : Bool) (bs : List Byte) : State :=
  let sent := (if block then [BitVec.ofNat 8 bs.length] else []) ++ bs
  let pec := crc8 (s.smbBegin code written ++ [BitVec.ofNat 8 (2 * s.pins.smbAddr + 1)] ++ sent)
  if s.start.aoOn then ({ s with pins := { s.pins with smbStuck := false } }).emit (.smbusBlock bs pec) else s

/-- A Block Read. -/
def State.smbAnswer (s : State) (code : Nat) (bs : List Byte) : State := s.smbReply code [] true bs

/-- R544: a command that needs domain 48 returns a block whose count is 0 while that domain is off. -/
def State.smbNeeds48 (s : State) (code : Nat) (ws : List Word) : State := s.smbAnswer code (if s.domainUp 48 then wordsBytes ws else [])

/-- CAPABILITY (Table 18-7): PEC supported, the straps, command set 1. -/
def execSmbCapability (s : State) : Res :=
  .next (s.smbReply 0 [] false [BitVec.ofNat 8 (1 + s.pins.smbAddr % 8 * 2 + 16)])

/-- FAULT_SUMMARY (R545): also releases SMB_ALERT#. -/
def execSmbFaultSummary (s : State) : Res :=
  .next (if s.start.aoOn then
    let s := s.smbNeeds48 1 [s.readReg (faultReg 0x50)]
    { s with pins := { s.pins with smbAlert := false } }
  else s)

/-- IDENT (Table 18-7). -/
def execSmbIdent (s : State) : Res := .next (s.smbNeeds48 2 [s.readReg (fabReg 8), s.readReg 0])

/-- START (Table 18-7). -/
def execSmbStart (s : State) : Res := .next (s.smbNeeds48 3 [s.readReg startStatus])

/-- TEMPERATURE (Table 18-7): the low halves of TH_MAX_JUNCTION and TH_MAX_HBM. -/
def execSmbTemperature (s : State) : Res :=
  .next (s.smbAnswer 0x10 (leBytes 4 (s.rfld (pgReg 0x40) 31 0) ++ leBytes 4 (s.rfld (pgReg 0x48) 31 0)))

/-- POWER (Table 18-7). -/
def execSmbPower (s : State) : Res := .next (s.smbAnswer 0x11 (wordsBytes [s.readReg (pgReg 0x20)]))

/-- PACE (Table 18-7). -/
def execSmbPace (s : State) : Res := .next (s.smbAnswer 0x12 (wordsBytes [s.readReg (pgReg 0), s.readReg (pgReg 8)]))

/-- What a controller writes in REG_READ: a count and the offset. -/
def regReadBytes (off : Nat) : List Byte := 4 :: leBytes 4 off

/-- REG_READ's answer on offset `off`. -/
def State.smbRegister (s : State) (off : Nat) (w : Word) : State :=
  s.smbReply 0x20 (regReadBytes off) true (if s.domainUp 48 then wordsBytes [w] else [])

/-- R543: the controller has sent a packet error code after the bytes it wrote, and it is wrong. -/
def State.pecWrong (s : State) (code : Nat) (written : List Byte) (pec : Option Byte) : Bool :=
  match pec with
  | some x => decide (x ≠ crc8 (s.smbBegin code written))
  | none => false

/-- REG_READ (R543, R545): the register at an aligned offset of BAR0; the data of any other offset is a free value. A write with a
wrong packet error code is not acknowledged and has no effect. -/
def execSmbRegRead (q : SmbRead) (s : State) : Res :=
  .next (if s.pecWrong 0x20 (regReadBytes q.off) q.pec then if s.start.aoOn then s.emit (.smbusPecRefused 0x20) else s
  else if q.off % 8 = 0 && q.off < 0x04000000 then s.smbRegister q.off (s.readReg q.off)
  else
    let f := s.free
    f.2.smbRegister q.off (BitVec.ofNat 64 f.1))

/-- SMBUS_OTHER_CODE (R544): the command byte is not acknowledged. -/
def execSmbusOtherCode (code : Nat) (s : State) : Res :=
  .next (if s.start.aoOn && !([0x00, 0x01, 0x02, 0x03, 0x10, 0x11, 0x12, 0x20] : List Nat).contains code then s.emit (.smbusNotAcknowledged code)
  else s)

/-! A bus held low. -/

/-- R546: one record in an episode; the number of the partner domain SMBus is a free value. -/
def State.smbHeld (s : State) : State :=
  if !s.start.aoOn || s.pins.smbStuck then s
  else
    let f := ({ s with pins := { s.pins with smbStuck := true } }).free
    f.2.raiseOrOwe { code := 0x0801, unit := 18, d5 := 9, d6 := f.1 }

/-- SCL_LOW_TIMEOUT (R546): the module resets its interface. -/
def execSclLowTimeout (s : State) : Res := .next s.smbHeld

/-- SDA_LOW_TIMEOUT (R546): the module releases SDA and resets its interface. -/
def execSdaLowTimeout (s : State) : Res := .next s.smbHeld

/-- BUS_CLEAR (R546): the module stops driving SDA; the episode is recorded when SDA had stayed low for 25 ms. -/
def execBusClear (longLow : Bool) (s : State) : Res :=
  .next (
    let s := if longLow then s.smbHeld else s
    { s with pins := { s.pins with smbStuck := false } })

/-! JTAG (Table 18-8). -/

/-- R547: an instruction is selected, while domain 48 is on; what the one before drove or floated is released. -/
def State.jtagSelect (s : State) (code : Nat) (f : State → State) : State :=
  if s.domainUp 48 then f { s with pins := { s.pins with jtagIr := code, floating := false, driven := none } } else s

/-- R548: boundary scan may drive the pins: STOPPED or RECOVERY. -/
def State.scanAllowed (s : State) : Bool := s.stage = 12 || s.stage = 10

/-- The bypass register captures 0. -/
def State.jtagBypass (s : State) : State := s.emit (.jtagData 1 0)

/-- IDCODE (Table 18-8). -/
def execIdcode (s : State) : Res :=
  .next (s.jtagSelect 0x01 (fun s =>
    s.emit (.jtagData 32 (s.fuses.stepping / 16 % 16 * 2 ^ 28 + 0x1296 * 2 ^ 12 + 0x4D3 * 2 + 1))))

/-- SAMPLE/PRELOAD (IEEE 1149.1): samples the pins, whose levels no rule gives, and preloads the boundary-scan register. -/
def execSamplePreload (data : Nat) (s : State) : Res :=
  .next (s.jtagSelect 0x02 (fun s =>
    let f := ({ s with pins := { s.pins with scan := data } }).free
    f.2.emit (.jtagData 0 f.1)))

/-- EXTEST (R548): drives the pins from the boundary-scan register, or acts as BYPASS. -/
def execExtest (s : State) : Res :=
  .next (s.jtagSelect 0x03 (fun s =>
    if s.scanAllowed then { s with pins := { s.pins with driven := some s.pins.scan } } else s.jtagBypass))

/-- HIGHZ (R548): floats the scanned outputs, or acts as BYPASS; the bypass register is selected. -/
def execHighz (s : State) : Res :=
  .next (s.jtagSelect 0x04 (fun s =>
    (if s.scanAllowed then { s with pins := { s.pins with floating := true } } else s).jtagBypass))

/-- CLAMP (R548): holds the outputs at the boundary-scan register, or acts as BYPASS; the bypass register is selected. -/
def execClamp (s : State) : Res :=
  .next (s.jtagSelect 0x05 (fun s =>
    (if s.scanAllowed then { s with pins := { s.pins with driven := some s.pins.scan } } else s).jtagBypass))

/-- The 64 bits that a memory holds at an address. -/
def EccMem.word (m : EccMem) (a : Nat) : Word := BitVec.ofNat 64 (m.num a 8)

/-- R549: what DEBUG reads; the fuses' layout and the data of a failing read are free values. -/
def State.debugRead (s : State) (space : DebugSpace) (off : Nat) : Word × State :=
  match space with
  | .bar0 => (s.readReg off, s)
  | .coreStore c => (if s.fuses.debugLock then 0 else (s.core c.val).cs.word off, s)
  | .stepTable c => (if s.fuses.debugLock then 0 else (s.core c.val).table.word off, s)
  | .moduleMemory =>
    if s.fuses.debugLock then (0, s)
    else
      let m := s.memRead { cls := 4, unit := 13 } off 8
      match m.bytes with
      | some bs => (BitVec.ofNat 64 (leNat bs), m.st)
      | none => (BitVec.ofNat 64 m.st.free.1, m.st.free.2)
  | .fuses => if s.fuses.debugLock then (0, s) else (BitVec.ofNat 64 s.free.1, s.free.2)

/-- DEBUG (R549): reads BAR0 registers and, unless debug-locked, memory and fuses. -/
def execJtagDebug (space : DebugSpace) (off : Nat) (s : State) : Res :=
  .next (s.jtagSelect 0x80 (fun s =>
    let r := s.debugRead space off
    r.2.emit (.jtagData 64 r.1.toNat)))

/-- BYPASS, and any code that Table 18-8 does not list (R547). -/
def execBypass (code : Nat) (s : State) : Res :=
  .next (if [0x01, 0x02, 0x03, 0x04, 0x05, 0x80].contains code then s else s.jtagSelect code State.jtagBypass)

/-- TRST_ASSERT (R547): the test access port is reset, which selects IDCODE. -/
def execTrstAssert (s : State) : Res := .next (s.jtagSelect 0x01 (fun s => s))

end Sys2Proof.Machine
end

