-- ==== Sys2Proof/Machine/MatrixArray.lean ====
section
/-! DEFINITION. The matrix arrays' operations (Matrix arrays): PASS, CLEAR, DRAIN and the drain of a tile into the tile
queue. -/

namespace Sys2Proof.Machine

open Sys2Proof

/-- The tile an MA entry names (Tables 3-1, 3-2). -/
def maTile (e : Entry) : Nat := if e.op ≥ 0x40 then bits e.oper 44 42 else bits e.oper 2 0

/-- MAn_STATUS. -/
def maStatusReg (c a : Nat) : Nat := coreReg c (0x2A0 + 8 * a)

/-- An array's counter. -/
def maReg (c a off : Nat) : Nat := coreReg c (off + 8 * a)

/-- R86: a tile's poison flag. -/
def State.poisoned (s : State) (c a t : Nat) : Bool := decide (s.rfld (maStatusReg c a) (16 + t) (16 + t) = 1)

/-- R86, R93, R96: the feeders take another entry while earlier ones run; a stream fault stops the feeding of its pass only, so a
pass into another tile starts after it (DESIGN CHOICE, log entry 141). -/
def maFree (_ : UnitState) (_ : QEntry) : Bool := true

/-- R55: the array's entry that completes next is held by a full counter, which holds the start of the next one too. -/
def State.maTokenFull (s : State) (c a : Nat) : Bool :=
  match ((s.core c).unit (a + 1)).completing with
  | some r => !((s.core c).slot r.slot).signalsFit (tokenList r.q.entry.sigA r.q.entry.sigB)
  | none => false

/-- R93: a drain of the tile is pending or in progress, or, for CLEAR and DRAIN, an earlier pass into it runs. -/
def State.tileBusy (s : State) (c a : Nat) (e : Entry) : Bool :=
  let t := maTile e
  ((s.core c).array a).drains.contains t ||
  (decide (e.op < 0x40) && ((s.core c).unit (a + 1)).running.any (fun r => decide (r.q.entry.op ≥ 0x40) && decide (maTile r.q.entry = t)))

/-- R55, R86, R93, R97: what holds an MA entry: a full counter of the one before it, its tile, the array's mode, or the poison of
a tile it does not replace. A pass that drains holds its mode until its tile is in the TQ or a full TQ holds its drain, since its
result is final by then (log entry 24). -/
def maHold (c a : Nat) (q : QEntry) (s : State) : Option State :=
  let e := q.entry
  if s.maTokenFull c a then some s
  else if s.tileBusy c a e then some (s.inc (maReg c a 0x230) 1)
  else if e.op ≥ 0x40 && ((s.core c).unit (a + 1)).running.any (fun r =>
      decide (r.q.entry.op ≥ 0x40) && !r.final && decide (bits r.q.entry.oper 48 48 ≠ bits e.oper 48 48)) then
    some (s.inc (maReg c a 0x240) 1)
  else if s.poisoned c a (maTile e) && (e.op = 2 || (e.op ≥ 0x40 && bits e.oper 46 45 = 0)) then some s
  else none

/-- Requests the drain of a tile (R92, R93). -/
def State.requestDrain (s : State) (c a t : Nat) : State :=
  s.updCore c (fun k => k.updArray a (fun x => { x with drains := x.drains ++ [t] }))

/-- Sets or clears a tile's poison flag. -/
def State.setPoison (s : State) (c a t v : Nat) : State := s.setFld (maStatusReg c a) (16 + t) (16 + t) v

/-- R85: the first scale word of a pass that fails a check: its address, expected and found word. -/
def Feed.firstBad (cs : EccMem) (f : Feed) (k : Nat) : Option (Nat × Nat × Nat) :=
  if f.fmt.isSB then
    ((List.range (k / 32)).flatMap (fun b => (List.range 32).filterMap (fun l =>
      let x := f.scaleAddr b l
      if f.scaleGood cs b l then none else some (x, f.expect x, cs.num x 4)))).head?
  else none

/-- Table 16-3: words 5 to 7 of a stream fault. -/
def streamDetail (expect word : Nat) : Nat :=
  let found := bits word 13 8
  expect % 64 + found * 256 + (if found = expect % 64 then 2 ^ 14 else 0)

/-- R86: the pass stops, its tile is poisoned and the fault is recorded. -/
def maStreamFault (c a slot : Nat) (q : QEntry) (t : Nat) (x : Nat × Nat × Nat) (s : State) : State :=
  let s := ((s.setPoison c a t 1).setBit (maStatusReg c a) 3).inc (maReg c a 0x290) 1
  s.entryError 0x0201 c slot q true (streamDetail x.2.1 x.2.2) x.1 x.2.2

/-- R76 to R98: a pass whose operands are sound. -/
def maPassRun (c a : Nat) (p : PassIn) (s : State) : Work :=
  let k := s.core c
  let o := passRun k.cs p (k.array a).tiles
  let s := s.updCore c (fun k => k.updArray a (fun x => { x with
    tiles := o.tiles, parity := if p.init = 0 then x.parity else x.parity.filter (fun e => e / 1024 != p.acc) }))
  let s := if p.init = 0 then s else s.setPoison c a p.acc 0
  let s := (((s.inc (maReg c a 0x220) (passVectors p)).inc (maReg c a 0x260) o.flags.invalid).inc
    (maReg c a 0x270) o.flags.overflow).inc (maReg c a 0x280) o.escapes
  let s := if p.drain then s.requestDrain c a p.acc else s
  { st := s, beats := passBeats p o.extra + (if p.drain then 32 else 0), drain := if p.drain then some p.acc else none, quad := p.quad }

/-- The work of a PASS: it is the pass started most recently (QUAD of Table 3-9); its reads are checked (Table 16-1), then its
tile (parity), then its scale words (R85, R86). Of two operands with a bad scale word the record names A's first one, and a pass
that a fault stops counts none of its vectors and escapes (DESIGN CHOICE, log entry 142). -/
def maPassWork (c a slot : Nat) (q : QEntry) (s : State) : Work :=
  let p := passIn q
  let s := s.setFld (maStatusReg c a) 7 7 (if p.quad then 1 else 0)
  let k := s.core c
  match (passReads p).find? (fun r => k.cs.bad r.1 r.2) with
  | some r => { st := s.entryError 0x0103 c slot q false (k.cs.badAt [r] r.1) 0 0, dead := true }
  | none =>
    if p.init = 0 && p.k ≠ 0 && (k.array a).parity.any (fun e => decide (e / 1024 = p.acc)) then
      { st := s.entryError 0x0104 c slot q false p.acc 0 0, dead := true }
    else
      let bad := if p.k = 0 then none else (p.feedA.firstBad k.cs p.k).orElse (fun _ => p.feedB.firstBad k.cs p.k)
      match bad with
      | some x => { st := maStreamFault c a slot q p.acc x s, dead := true, quad := p.quad }
      | none => maPassRun c a p s

/-- PASS (R76). -/
def execPass (c : CoreId) (a : ArrayId) (sl : SlotId) (s : State) : Res :=
  .next (s.startEntry c.val (a.val + 1) sl.val (fun e => decide (e.op ≥ 0x40)) maFree (maHold c.val a.val)
    (fun q => csRanges c.val false (passReads (passIn q))) (maPassWork c.val a.val sl.val))

/-- CLEAR (R93): +0 in every element of the tile; its poison flag is cleared; one beat. -/
def maClearWork (c a : Nat) (q : QEntry) (s : State) : Work :=
  let t := maTile q.entry
  let s := s.updCore c (fun k => k.updArray a (fun x => { x with tiles := tileClear x.tiles t, parity := x.parity.filter (fun e => e / 1024 != t) }))
  { st := s.setPoison c a t 0 }

/-- CLEAR. -/
def execClear (c : CoreId) (a : ArrayId) (sl : SlotId) (s : State) : Res :=
  .next (s.startEntry c.val (a.val + 1) sl.val (fun e => decide (e.op = 1)) maFree (maHold c.val a.val) (fun _ => [])
    (maClearWork c.val a.val))

/-- The work of a DRAIN: 32 beats and the tile's drain. -/
def maDrainWork (c a : Nat) (q : QEntry) (s : State) : Work :=
  { st := s.requestDrain c a (maTile q.entry), beats := 32, drain := some (maTile q.entry) }

/-- DRAIN (R92, R93): the drain of its tile begins; the entry completes when the tile is in the TQ. -/
def execDrain (c : CoreId) (a : ArrayId) (sl : SlotId) (s : State) : Res :=
  .next (s.startEntry c.val (a.val + 1) sl.val (fun e => decide (e.op = 2)) maFree (maHold c.val a.val) (fun _ => [])
    (maDrainWork c.val a.val))

/-- R70: a free TQ entry for a producer: four reserved to each, eight shared. -/
def tqRoom (tq : List TileEntry) (a : Nat) : Bool :=
  let n := fun (p : Nat) => (tq.filter (fun e => decide (e.producer = p))).length
  decide (n a < 4) || decide ((n 0 - 4) + (n 1 - 4) < 8)

/-- Marks the first entry of an array that waits for a drain. -/
def drainDone (f : RunEntry → RunEntry) : List RunEntry → List RunEntry
  | [] => []
  | r :: rs => if r.drain.isSome then f r :: rs else r :: drainDone f rs

/-- R97: the results of the array's passes that wait for a drain are final. -/
def UnitState.allFinal (un : UnitState) : UnitState :=
  { un with running := un.running.map (fun r => if r.drain.isSome then { r with final := true } else r) }

/-- TILE_DRAIN (R70, R92): the oldest requested drain copies its tile into a TQ entry, or is held by a full TQ. A
parity error stops it (Table 16-1). -/
def execTileDrain (c : CoreId) (a : ArrayId) (s : State) : Res :=
  .next (
    let k := s.core c.val
    let x := k.array a.val
    match x.drains with
    | [] => s
    | t :: rest =>
      match (k.unit (a.val + 1)).running.find? (fun r => r.drain.isSome) with
      | none => s
      | some r =>
        if !tqRoom k.tq a.val then
          (s.inc (coreReg c.val (0x58 + 8 * a.val)) 1).updCore c.val (fun k => k.updUnit (a.val + 1) UnitState.allFinal)
        else if x.parity.any (fun e => decide (e / 1024 = t)) then
          let s := s.updCore c.val (fun k => (k.updArray a.val (fun x => { x with drains := rest })).updUnit (a.val + 1)
            (fun un => { un with running := drainDone (fun r => { r with drain := none, dead := true }) un.running }))
          s.entryError 0x0104 c.val r.slot r.q false t 0 0
        else
          s.updCore c.val (fun k =>
            let te : TileEntry := { producer := a.val, slot := r.slot, phase := r.q.entry.phase, next := r.q.entry.next, step := r.q.step, data := tileList x.tiles t }
            ({ k with tq := k.tq ++ [te] }.updArray a.val (fun x => { x with drains := rest })).updUnit (a.val + 1)
              (fun un => { un with running := drainDone (fun r => { r with drain := none, final := true }) un.running })))

end Sys2Proof.Machine
end

