-- ==== Sys2Proof/Machine/HostRegs.lean ====
section
/-! DEFINITION. The host's accesses to BAR0 and BAR2 (R373 to R375, R447) and GROW (R363). -/

namespace Sys2Proof.Machine

open Sys2Proof

/-- R379, R382: a write to a register of an ingest ring. -/
def State.writeRing (s : State) (r off : Nat) (v : Word) : State :=
  if off = 0x10 then s.ringDoorbell r v
  else if off = 8 then s.ringConfig r v
  else if off = 0x28 then s.ringResume r v
  else s.writePlain (ringReg r off) v

/-- A 64-bit write to a BAR0 register: registers with a behaviour of their own show it, every other acts by its access codes
(R8), and a cleared JOB_HALTED may release MOD_FAULT#. -/
def State.writeReg (s : State) (off : Nat) (v : Word) : State :=
  if 0x1000 ≤ off && off < 0x1800 then s.writeRing ((off - 0x1000) / 0x100) (off % 0x100) v
  else if off = 0x1820 then s.replayAck v
  else if expReg 0x20 ≤ off && off < expReg 0x40 then s.ackStep ((off - expReg 0x20) / 8) v
  else if off = expReg 0x140 then s.restoreDone v
  else if off = liveReg 0x40 then s.writeHold v
  else if liveOffset off then s.stageLive off v
  else if off = liveReg 0x110 then (s.writePlain off v).mboxStart
  else (s.writePlain off v).refreshPins

/-- REGISTER_WRITE (R8, R375): one aligned 64-bit access; an unaligned one is ignored and counted. -/
def execRegisterWrite (off : Nat) (v : Word) (s : State) : Res :=
  .next (if !s.hostUp || 0x04000000 ≤ off then s
  else if off % 8 = 0 then s.writeReg off v
  else s.inc hlBadAccess 1)

/-- NARROWER_WRITE (R375): ignored and counted. -/
def execNarrowerWrite (off len : Nat) (_v : Word) (s : State) : Res :=
  .next (if s.hostUp && off < 0x04000000 && !(len = 8 && off % 8 = 0) then s.inc hlBadAccess 1 else s)

/-- BAR0_BAD_READ (R375): zeros, counted. -/
def execBar0BadRead (off len : Nat) (s : State) : Res :=
  .next (if s.hostUp && off < 0x04000000 && !(len = 8 && off % 8 = 0) && !(len = 4 && off % 4 = 0) then
    (s.inc hlBadAccess 1).emit (.completion (List.replicate len 0))
  else s)

/-- BAR2_WRITE (R373, R447): a write within BAR2 lands, or waits until the slate tier is initialised. -/
def execBar2Write (off : Nat) (bytes : List Byte) (s : State) : Res :=
  .next (if !s.hostUp || s.link.barGib * gib < off + bytes.length then s
  else if s.start.slateReady then s.putBar2 off bytes
  else { s with link := { s.link with earlyWrites := s.link.earlyWrites ++ [(off, bytes)] } })

/-- BAR2_EARLY_READ (R447): a BAR2 read outside the stages that allow it. -/
def execBar2EarlyRead (_off : Nat) (s : State) : Res :=
  .next (if s.hostUp && !([6, 7, 8, 9, 10] : List Nat).contains s.stage then (s.inc hlBadAccess 1).emit .completerAbort else s)

/-- RESIZABLE_BAR (R373): the host chooses a power of two of GiB up to `host.bar2_gib`. -/
def execResizableBar (gib : Nat) (s : State) : Res :=
  .next (if s.link.ready && [1, 2, 4, 8, 16, 32, 64, 128, 256].contains gib && gib ≤ s.modCfg 0x903 16 then
    ({ s with link := { s.link with barGib := gib } }).refreshWindow
  else s)

/-- GROW's argument: 1 to 4,095 serials. -/
def growArg (a : List Byte) : Option (List Nat) :=
  let n := a.length / 8
  if a.length % 8 = 0 && 1 ≤ n && n ≤ 4095 then some ((List.range n).map (fun i => fieldAt a (8 * i) 8)) else none

/-- GROW (R363, R460): the serials are announced, and re-sharding is requested at the next hard boundary; a module that is no
member refuses. -/
def execGrow (s : State) : Res :=
  .next (s.mboxRun 0x11 (fun a s =>
    match growArg a with
    | none => s.mboxDone 2 []
    | some l =>
      if !s.jobRunning then s.mboxDone 3 []
      else
        let s := { s with link := { s.link with grown := distinctUp (s.link.grown ++ l) } }
        (s.updJob 0 (fun j => { j with wantReshard := true })).mboxDone 0 []))

end Sys2Proof.Machine
end

