-- ==== Sys2Proof/Machine/Crossings.lean ====
section
/-! DEFINITION. Crossings that stall (R491, R492, R524). -/

namespace Sys2Proof.Machine

open Sys2Proof

/-- The partners of Table 16-7. -/
inductive Partner where
  | island
  | optical (ports : List Nat)
  | pcie
  | flash
  | smbus
  | jtag
  | service
  deriving DecidableEq, Repr

/-- R492, Table 17-7: the partner of a crossing. Class 5 has four receive lanes to a port, class 6 a transmit clock to an optical
engine; class 9 counts the two bridge islands, flash, SMBus and JTAG; class 10 has every domain as its partner. -/
def crossPartner (x : Crossing) : Partner :=
  let byDomain : Partner :=
    if x.domain.val = 48 then .service
    else if x.domain.val = 47 then .pcie
    else if 40 ≤ x.domain.val && x.domain.val < 44 then .optical ((List.range 4).map (fun i => 4 * (x.domain.val - 40) + i))
    else .island
  match x.cls.val with
  | 5 => .optical [x.index / 4 % 16]
  | 6 => .optical ((List.range 4).map (fun i => 4 * (x.index % 4) + i))
  | 7 | 8 => .pcie
  | 9 => if x.index = 2 then .flash else if x.index = 3 then .smbus else if x.index = 4 then .jtag else byDomain
  | 10 => byDomain
  | _ => .island

/-- Marks whether a crossing is stalled. -/
def State.setStalled (s : State) (x : Crossing) (on : Bool) : State :=
  let l := s.pace.stalled.filter (fun y => y != x)
  { s with pace := { s.pace with stalled := if on then l ++ [x] else l } }

/-- CROSSING_TIMEOUT (R491, R524): the stall is recorded and counted once; nothing crosses to a domain that is off. -/
def execCrossingTimeout (x : Crossing) (s : State) : Res :=
  .next (if s.pace.stalled.contains x || !s.domainUp x.domain.val || !s.domainUp 48 then s
  else
    let s := ((s.setStalled x true).inc (faultReg 0x48) 1).inc (pgReg (0x100 + 8 * x.cls.val)) 1
    s.raiseError { code := 0x0801, unit := 18, index := x.domain.val, d5 := x.cls.val, d6 := x.domain.val })

/-- R489, R492: the partner stays off until the next start; the module votes PARTNER_DEAD and quarantines itself. -/
def State.islandDead (s : State) (x : Crossing) : State :=
  let d := x.domain.val
  let s := s.raiseError { code := 0x0802, unit := 18, index := d, action := 5, d5 := x.cls.val, d6 := d }
  let s := { s with
    start := { s.start with domainsOn := s.start.domainsOn.filter (fun y => y != d), domainsUp := s.start.domainsUp.filter (fun y => y != d) }
    pace := { s.pace with deadDomains := s.pace.deadDomains ++ [d] } }
  let s := s.domainsOff [d]
  (if s.jobRunning then s.voteCause 0 0x3003 else s).quarantine 0x0802

/-- R492, Table 16-7: the response to a stall that persists. -/
def State.partnerDead (s : State) (x : Crossing) : State :=
  match crossPartner x with
  | .island => s.islandDead x
  | .optical ports => ports.foldl (fun s p => State.enterRetrain s p) (s.setStalled x false)
  | .pcie => let s := s.setStalled x false; { s with link := { s.link with l0 := false } }
  | .flash => [0, 1].foldl (fun s k => State.flashFault s k) (s.setStalled x false)
  | .smbus => let s := s.setStalled x false; { s with pins := { s.pins with smbStuck := false } }
  | .jtag => s.setStalled x false
  | .service => s.beginStart 5 [] []

/-- PARTNER_DEAD (R492): a recorded stall has persisted for `fault.partner_dead_ms`. -/
def execPartnerDead (x : Crossing) (s : State) : Res := .next (if s.pace.stalled.contains x then s.partnerDead x else s)

end Sys2Proof.Machine
end

