-- ==== Sys2Proof/Machine/Flint.lean ====
section
/-! DEFINITION. The Flint field test (R493 to R496). -/

namespace Sys2Proof.Machine

open Sys2Proof

/-- R494, R496: a failing test is recorded; which test and which core or address failed are free values. -/
def State.flintFail (s : State) (point : Nat) : State :=
  let f := s.free
  let g := f.2.free
  g.2.raiseError { code := 0x0C01, unit := 19, d5 := point, d6 := f.1, d7 := g.1 }

/-- The counters of a run that ends. -/
def State.flintRun (s : State) (passed : Bool) : State :=
  let s := s.inc (faultReg 0x58) 1
  let s := if passed then s else s.inc (faultReg 0x60) 1
  s.setReg (faultReg 0x68) (BitVec.ofNat 64 s.now)

/-- R495: enough consecutive runs have passed. -/
def State.flintClear (s : State) : State :=
  let n := s.faults.flintPasses
  if s.rfld faultStatus 4 4 = 1 && s.modCfg 0xB02 2 ≤ n then
    let s := { s with faults := { s.faults with flintPasses := 0 } }
    let s := (s.clearBit faultStatus 4).jqueue { kind := 6, body := [0, BitVec.ofNat 64 (s.job 0).committed] }
    (s.raiseError { code := 0x0C02, unit := 19, d5 := n }).refreshPins
  else s

/-- R493 to R495: a full run ends; it has overwritten module memory (log entry 44). -/
def State.flintEnd (s : State) : State :=
  let passed := !s.faults.flintFailed
  let s := { s with
    mem := [], memErr := []
    faults := { s.faults with flintPoint := none, flintPasses := if passed then s.faults.flintPasses + 1 else 0 } }
  ((s.clearBit faultStatus 6).flintRun passed).flintClear

/-- FLINT_POINT_END (R493): the run goes on to the next stress point, or ends. -/
def execFlintPointEnd (passed : Bool) (s : State) : Res :=
  .next (match s.faults.flintPoint with
  | none => s
  | some k =>
    let s := if passed then s
      else let t := s.flintFail (k + 1); { t with faults := { t.faults with flintFailed := true } }
    if k < 4 then { s with faults := { s.faults with flintPoint := some (k + 1) } } else s.flintEnd)

/-- FLINT_RETEST (R494): a quarantined module outside every job starts another full run. -/
def execFlintRetest (s : State) : Res :=
  .next (if s.rfld faultStatus 4 4 = 1 && s.stage = 9 && s.faults.flintPoint.isNone then s.startFlint else s)

/-- R496: filler Flint is enabled: `flint.interval_h` is non-zero and the image has no JOB section for slot 3. -/
def State.fillerFlint (s : State) : Bool := decide (s.modCfg 0xB01 0 ≠ 0) && !s.activeSlotsNow.contains 3

/-- FILLER_FLINT (R496): a member's run in job slot 3; a failing test also counts as a strike. -/
def execFillerFlint (passed : Bool) (s : State) : Res :=
  .next (if !s.fillerFlint || !s.jobRunning then s
  else
    let s := s.flintRun passed
    if passed then s else (s.flintFail 0).strike 0x0C01)

end Sys2Proof.Machine
end

