-- ==== Sys2Proof/Machine/Rounds.lean ====
section
/-! DEFINITION. Guidon rounds (R349, R350, R355 to R357, R485): the sections of a vote record, how they combine, and the way
of a round up and down the position tree. -/

namespace Sys2Proof.Machine

open Sys2Proof

/-! Sections (Table 12-5). -/

/-- Section 0: cause, first failing rank, not-ok count. -/
def statusWord (cause rank count : Nat) : Nat := cause % 2 ^ 16 + rank % 2 ^ 12 * 2 ^ 16 + count % 2 ^ 13 * 2 ^ 28

/-- Section 0 combined: worst cause, lowest failing rank, sum of the not-ok counts. -/
def combineStatus (a b : Nat) : Nat :=
  let ra := bits a 27 16
  let rb := bits b 27 16
  let rank := if bits a 15 0 = 0 then (if bits b 15 0 = 0 then min ra rb else rb) else if bits b 15 0 = 0 then ra else min ra rb
  statusWord (max (bits a 15 0) (bits b 15 0)) rank (bits a 40 28 + bits b 40 28)

/-- Combines two byte strings by fields of `w` bytes. -/
def zipFields (w : Nat) (f : Nat → Nat → Nat) (a b : List Byte) : List Byte :=
  (List.range (a.length / w)).flatMap (fun i => leBytes w (f (fieldAt a (w * i) w) (fieldAt b (w * i) w)))

/-- R355: a pair of fields of `w` bytes, the first as maximum, the second as minimum. -/
def zipMaxMin (w : Nat) (a b : List Byte) : List Byte :=
  leBytes w (max (fieldAt a 0 w) (fieldAt b 0 w)) ++ leBytes w (min (fieldAt a w w) (fieldAt b w w))

/-- Table 12-5: how a section combines. -/
def combineSection (k : Nat) (a b : List Byte) : List Byte :=
  match k with
  | 0 => zipFields 8 combineStatus a b
  | 1 => zipFields 8 min a b
  | 2 => zipFields 8 (fun x y => x ||| y) a b
  | 3 => zipMaxMin 4 a b
  | 5 => zipMaxMin 8 a b
  | 6 => zipFields 16 (fun x y => min (2 ^ 128 - 1) (x + y)) a b
  | 7 | 8 => zipFields 2 max a b
  | 9 => zipFields 4 (fun x y => min (2 ^ 32 - 1) (x + y)) a b
  | 11 => zipFields 8 add64f a b
  | 12 => zipFields 8 (fun x y => min (x % 2) (y % 2) + max (x / 2) (y / 2) * 2) a b
  | 13 => zipMaxMin 16 a b
  | _ => zipFields 8 (fun x y => (x + y) % 2 ^ 64) a b

/-- R350: a record combined with a child's, section by section. -/
def combineRecord (a b : SMap (List Byte)) : SMap (List Byte) :=
  a.map (fun x => (x.1, combineSection x.1 x.2 (SMap.getD b x.1 [])))

/-! Fragments (R355). -/

/-- The section and the offset in it of a byte of a record of sections (number, bytes). -/
def sectionOf : List (Nat × Nat) → Nat → Nat × Nat
  | [], _ => (0, 0)
  | (k, n) :: rest, a => if a < n then (k, a) else sectionOf rest (a - n)

/-- Where a section begins in a record. -/
def sectionBase : List (Nat × Nat) → Nat → Nat
  | [], _ => 0
  | (k, n) :: rest, x => if k = x then 0 else n + sectionBase rest x

/-- Bytes of a record. -/
def recordSize (lay : List (Nat × Nat)) : Nat := (lay.map (·.2)).foldl (· + ·) 0

/-- Cuts a record into its sections. -/
def cutRecord : List (Nat × Nat) → List Byte → SMap (List Byte)
  | [], _ => []
  | (k, n) :: rest, bs => (k, bs.take n) :: cutRecord rest (bs.drop n)

/-- A record's fragments of at most 4,096 bytes: section, offset, bytes. -/
def fragments (lay : List (Nat × Nat)) (r : SMap (List Byte)) : List (Nat × Nat × List Byte) :=
  let bs := r.flatMap (·.2)
  (List.range (cdiv bs.length 4096)).map (fun i =>
    ((sectionOf lay (4096 * i)).1, (sectionOf lay (4096 * i)).2, (bs.drop (4096 * i)).take 4096))

/-- Every fragment of a record has arrived. -/
def wholeRecord (lay : List (Nat × Nat)) (f : SMap (List Byte)) : Bool :=
  (List.range (cdiv (recordSize lay) 4096)).all (fun i => (SMap.find? f (4096 * i)).isSome)

/-- The fragments of a record joined, by section. -/
def joinRecord (lay : List (Nat × Nat)) (f : SMap (List Byte)) : SMap (List Byte) :=
  cutRecord lay ((List.range (cdiv (recordSize lay) 4096)).flatMap (fun i => SMap.getD f (4096 * i) []))

/-! Members of a round. -/

/-- The ranks that take part in a round: the job's, or those of the proposed members (R485). -/
def State.roundRanks (s : State) (slot : Nat) (rollback : Bool) : List Nat :=
  let j := s.job slot
  if rollback then j.proposal.filterMap s.rankOfSerial else j.ranks

/-- The parent of this module among ranks, in the tree rooted at position 0. -/
def State.treeUp (s : State) (l : List Nat) : Option Nat :=
  (parentPos l.length 0 (l.findIdx (· == s.ownRank))).map (fun p => atD l p 0)

/-- The children of this module among ranks, ascending. -/
def State.treeDown (s : State) (l : List Nat) : List Nat :=
  (childPos l.length 0 (l.findIdx (· == s.ownRank))).map (fun p => atD l p 0)

/-! The sections of a slot's rounds. -/

/-- The filler slots whose steps ride the primary's rounds: those admitted. -/
def State.fillers (s : State) : List Nat := [1, 2, 3].filter (fun i => (s.job i).admitted)

/-- R186: the format and kind pairs that a slot's conversions count under: those of its VE entries to a floating or SB format, those of
its CVT entries to an integer format, and those of its tables' rows and moments (KIND 4). -/
def State.countPairs (s : State) (slot : Nat) : List Nat :=
  let ve := (s.rawSteps slot).flatMap (fun x => x.entries.filterMap (fun w =>
    let e := decodeEntry w
    let d := atD x.descs e.desc []
    let f := bits (atD d 2 0) 43 40
    if e.unit = 3 && e.dv && ([1, 2, 3, 4, 11, 12].contains f || (e.op = 0x10 && [5, 6, 7, 8].contains f)) then some (f * 8 + bits (atD d 3 0) 58 56) else none))
  let rows := (s.tableNums slot).flatMap (fun t =>
    [(s.tabFmt slot t).code * 8 + 4, (s.momentFmt slot t).code * 8 + 4])
  distinctUp (ve ++ rows.filter (fun p => decide (p / 8 ≠ 0)))

/-- Table 12-5: the keys of section 10 in order: recipe-managed tensors, then format and kind pairs. -/
def State.countKeys (s : State) (slot : Nat) : List Nat := (s.recipeTensors slot).map tensorKey ++ s.countPairs slot

/-- Table 12-5: the sections of a step round of a slot. A filler's cause and readiness ride the primary's round in section 12; its own
job's sections 4 to 11 go in a round of its slot (R40, R355; log entry 58). -/
def State.stepSections (s : State) (slot : Nat) : List (Nat × Nat) :=
  let nt := s.tableCount slot
  let nd := (s.tensors slot).length
  [(0, 8), (1, 8), (2, 8), (3, 8), (4, 8), (5, 16), (6, 16), (7, roundUp (2 * nt) 8), (8, roundUp (2 * (s.maxTensors slot).length) 8),
   (9, 256 * (s.histTensors slot).length), (10, 16 * (s.recipeTensors slot).length + 24 * (s.countPairs slot).length),
   (11, if s.watchRatio slot then 16 * (nd + nt) else 0), (12, 8 * s.fillers.length)].filter (fun x =>
    decide (x.2 ≠ 0) && (decide (slot = 0) || (decide (4 ≤ x.1) && decide (x.1 ≤ 11))))

/-- Whether a closing round of a step is at a hard boundary: admission, rollback, or a step whose boundary is hard. -/
def State.hardRound (s : State) (slot step : Nat) : Bool :=
  s.stage = 7 || s.inRollback slot || decide ((s.job slot).hardStep = some step)

/-- The sections of a round. -/
def State.roundSections (s : State) (slot : Nat) (r : Round) : List (Nat × Nat) :=
  if r.closing then (0, 8) :: (if s.hardRound slot r.step then [(13, 32)] else []) else s.stepSections slot

/-! Rounds in progress. -/

/-- Whether two descriptions are of one round. -/
def Round.same (a b : Round) : Bool :=
  decide (a.closing = b.closing) && decide (a.rollback = b.rollback) && (a.rollback || decide (a.step % 2 ^ 32 = b.step % 2 ^ 32))

/-- The round in progress that a description names, or that description itself. -/
def State.roundOf (s : State) (slot : Nat) (k : Round) : Round := ((s.job slot).rounds.find? (fun r => r.same k)).getD k

/-- A round is no longer in progress. -/
def State.dropRound (s : State) (slot : Nat) (r : Round) : State :=
  s.updJob slot (fun j => { j with rounds := j.rounds.filter (fun x => !x.same r) })

/-- Keeps a round. -/
def State.putRound (s : State) (slot : Nat) (r : Round) : State :=
  s.updJob slot (fun j => { j with rounds := j.rounds.filter (fun x => !x.same r) ++ [r] })

/-- Where a child's fragments keep the step that they proposed in a rollback round (R485). -/
def stepMark : Nat := 2 ^ 40

/-- Sends a record of a round to a rank; rounds of a slot in rollback carry ATTEMPT 0 (R485). -/
def State.sendRecord (s : State) (slot kind dst : Nat) (r : Round) (rec_ : SMap (List Byte)) : State :=
  let att := if s.inRollback slot then 0 else (s.job slot).attempt
  (fragments (s.roundSections slot r) rec_).foldl (fun s f =>
    State.send s (mkMessage kind slot dst s.ownRank r.step att (if r.closing then 1 else 0) f.1 f.2.1 (bytesWords f.2.2))) s

/-- The record of this module combined with its children's, in ascending rank; a differing rollback proposal enters
CAUSE_SPLIT. -/
def Round.total (r : Round) (lay : List (Nat × Nat)) (own : SMap (List Byte)) (kids : List Nat) : SMap (List Byte) :=
  kids.foldl (fun acc k =>
    let f := SMap.getD r.kids k []
    let acc := combineRecord acc (joinRecord lay f)
    if r.rollback && decide (fieldAt (SMap.getD f stepMark []) 0 8 ≠ r.step % 2 ^ 32) then
      acc.map (fun x => if x.1 = 0 then (0, zipFields 8 combineStatus x.2 (leBytes 8 (statusWord 0x2002 k 0))) else x)
    else acc) own

/-- R350: a round whose own record and children's are all here goes up; at the root its result goes down and `apply` acts
on it. -/
def State.advanceRound (s : State) (slot : Nat) (r : Round) (apply : State → Round → SMap (List Byte) → State) : State :=
  match r.own with
  | none => s.putRound slot r
  | some own =>
    let ranks := s.roundRanks slot r.rollback
    let lay := s.roundSections slot r
    let kids := s.treeDown ranks
    if r.sent || !kids.all (fun k => wholeRecord lay (SMap.getD r.kids k [])) then s.putRound slot r
    else
      let t := r.total lay own kids
      match s.treeUp ranks with
      | some p => (s.putRound slot { r with sent := true }).sendRecord slot 0x18 p r t
      | none =>
        let s := s.dropRound slot r
        apply (kids.foldl (fun s k => State.sendRecord s slot 0x19 k r t) s) r t

/-- The round that a message names; in stages 1 to 3 of a rollback it is the rollback round. -/
def State.roundNamed (s : State) (m : Message) : Round :=
  let rb := s.inRollback m.slot && decide (s.rfld faultStatus 11 8 < 4)
  { closing := decide (m.tag = 1), rollback := rb, step := m.stepLo }

/-- The offset in the record of a fragment. -/
def State.fragmentAt (s : State) (m : Message) (r : Round) : Nat := sectionBase (s.roundSections m.slot r) m.object + m.offset

/-- R485: the step that a rollback fragment names when it is below the own proposal `p`. -/
def lowerProposal (p lo : Nat) : Option Nat :=
  let d := (p % 2 ^ 32 + (2 ^ 32 - lo % 2 ^ 32)) % 2 ^ 32
  if d = 0 || 2 ^ 31 ≤ d || p < d then none else some (p - d)

/-- R485: a member adopts a lower proposal and sends its fragment again. -/
def State.adoptLower (s : State) (slot : Nat) (r : Round) (lo : Nat) : State × Round :=
  match lowerProposal s.faults.propose lo with
  | some c =>
    let r := { r with step := c, sent := false }
    (({ s with faults := { s.faults with propose := c } }).putRound slot r, r)
  | none => (s, r)

/-- VOTE_UP's fragment joins its round; a second copy is discarded and counted, but a rollback fragment sent again replaces the
first. -/
def State.takeVote (s : State) (m : Message) (apply : State → Round → SMap (List Byte) → State) : State :=
  let r := s.roundOf m.slot (s.roundNamed m)
  let a := s.fragmentAt m r
  if r.rollback then
    let f := SMap.put (SMap.put (SMap.getD r.kids m.src []) a m.bytes) stepMark (leBytes 8 m.stepLo)
    let r := { r with kids := SMap.put r.kids m.src f }
    let x := if r.own.isSome then s.adoptLower m.slot r m.stepLo else (s, r)
    x.1.advanceRound m.slot x.2 apply
  else if (SMap.find? (SMap.getD r.kids m.src []) a).isSome then s.inc (xuReg 0x28) 1
  else s.advanceRound m.slot { r with kids := SMap.upd r.kids m.src [] (fun f => SMap.put f a m.bytes) } apply

/-- RESULT_DOWN's fragment is forwarded to the children and joins its round's result; a whole result is applied. A fragment of
a round that this module has not joined is ignored. -/
def State.takeRoundResult (s : State) (m : Message) (apply : State → Round → SMap (List Byte) → State) : State :=
  let r := s.roundOf m.slot (s.roundNamed m)
  let a := s.fragmentAt m r
  if r.own.isNone then s
  else if (SMap.find? r.result a).isSome then s.inc (xuReg 0x28) 1
  else
    let kids := s.treeDown (s.roundRanks m.slot r.rollback)
    let s := kids.foldl (fun s k =>
      State.send s (mkMessage 0x19 m.slot k s.ownRank m.stepLo m.attempt m.tag m.object m.offset m.body)) s
    let r := { r with result := SMap.put r.result a m.bytes }
    let x := if r.rollback then s.adoptLower m.slot r m.stepLo else (s, r)
    if wholeRecord (s.roundSections m.slot r) r.result then
      apply (x.1.dropRound m.slot x.2) x.2 (joinRecord (s.roundSections m.slot r) r.result)
    else x.1.putRound m.slot x.2

/-! Results (R356). -/

/-- A field of a section of a result. -/
def resultField (t : SMap (List Byte)) (k off n : Nat) : Nat := fieldAt (SMap.getD t k []) off n

/-- The two halves of a section that is combined by maximum and minimum differ. -/
def splitSection (t : SMap (List Byte)) (k w : Nat) : Bool :=
  match SMap.find? t k with
  | some bs => decide (fieldAt bs 0 w ≠ fieldAt bs w w)
  | none => false

/-- R356: the worst cause of a result, 0 when it is all-ok. -/
def worstCause (t : SMap (List Byte)) : Nat :=
  let c := resultField t 0 0 2
  let c := if splitSection t 3 4 || splitSection t 13 16 then max c 0x2002 else c
  if splitSection t 5 8 then max c 0x1001 else c

/-- The first failing rank of a result. -/
def failingRank (t : SMap (List Byte)) : Nat := bits (resultField t 0 0 8) 27 16

end Sys2Proof.Machine
end

