-- ==== Sys2Proof/Machine/StepStats.lean ====
section
/-! DEFINITION. What a step's vote carries and what its agreed record gives: the squared norm and clip factor (R178, R261, R267,
R268), row-gradient exponents (R176, R224), reference histories and the scale table (R182 to R184), and the watch (R186). -/

namespace Sys2Proof.Machine

open Sys2Proof

/-! The squared norm (R178, R261). -/

/-- The clip group: tensors with `tensor.clip`. -/
def State.clipGroup (s : State) (slot : Nat) : List Nat :=
  ((s.tensors slot).map (·.1)).filter (fun t => decide (s.cfgV (slot + 1) 0x502 t 1 = 1))

/-- The agreed exponents of the clip group's blocks. -/
def State.clipExps (s : State) (slot : Nat) : List Int :=
  (s.clipGroup slot).flatMap (fun t => SMap.getD (s.job slot).num.agreed t [])

/-- ceil(log2 n). -/
def ceilLog2 (n : Nat) : Nat := if n ≤ 1 then 0 else Nat.log2 (n - 1) + 1

/-- R178: the anchor A; a fast-float job has no agreed exponents, and its anchor is a free value. -/
def State.anchor (s : State) (slot n : Nat) : Int :=
  if s.fastFloat slot then Config.fastAnchor n
  else
    let emax := ((s.clipExps slot).filter (fun e => decide (e ≠ 0x7FFF))).foldl max (-150)
    2 * (emax + (ceilLog2 (s.mbTotal slot) : Int)) + 3

/-- R178: q of a reduced value; a NaN adds nothing, since its block makes the norm NaN. -/
def squareQ (a : Int) (g : W32) : Nat :=
  if isInf32 g then 2 ^ 127
  else
    match dec32 g with
    | .fin _ m e => (roundInt .nearest false (m * m) (2 * e + 88 - a)).toNat
    | _ => 0

/-- The reduced values of the owned slices of the clip group. -/
def State.clipValues (s : State) (slot : Nat) : List W32 :=
  ((s.job slot).slices.filter (fun x => !x.2.mirror && (s.clipGroup slot).contains x.2.tensor)).flatMap (fun x => x.2.grad.flatMap (·.2))

/-- R261: the module's saturating sum. -/
def State.sumSquares (s : State) (slot n : Nat) : Nat :=
  min (2 ^ 128 - 1) ((s.clipValues slot).foldl (fun a g => a + squareQ (s.anchor slot n) g) 0)

/-! The own record. -/

/-- R271, R246: the update-to-weight pairs: dense tensors, then tables, whose row engines add in ascending number. -/
def State.ratioPairs (s : State) (slot : Nat) : List (Nat × Nat) :=
  (s.tensors slot).map (fun t => SMap.getD (s.job slot).num.ratios t.1 (0, 0)) ++
  (s.tableNums slot).map (fun t =>
    ((s.job slot).owner.ratios.filter (fun x => decide (x.1 % 1024 = t))).foldl (fun (a : Nat × Nat) x =>
      (add64f a.1 x.2.1, add64f a.2 x.2.2)) (0, 0))

/-- The counts of a key in a step, those of the phase 9 before it included. -/
def State.voteCounts (s : State) (slot k : Nat) : Nat × Nat × Nat :=
  let a := SMap.getD (s.job slot).num.counts k (0, 0, 0)
  let b := SMap.getD (s.job slot).num.late k (0, 0, 0)
  (a.1 + b.1, a.2.1 + b.2.1, a.2.2 + b.2.2)

/-- R36: the hard-boundary requests pending: re-sharding, restore, admission of a filler. -/
def State.requests (s : State) : Nat :=
  (if (s.job 0).wantReshard then 1 else 0) + (if s.faults.named.isSome then 2 else 0) +
  (if [1, 2, 3].any (fun i => (s.job i).wantAdmit && !(s.job i).admitted) then 4 else 0)

/-- A filler slot has voted a step whose result it awaits. -/
def JobSlot.ready (j : JobSlot) : Bool := decide (j.okStep < j.voted)

/-- Section 12: the entry of a filler slot. -/
def State.fillerEntry (s : State) (f : Nat) : Nat := (if (s.job f).ready then 1 else 0) + (s.job f).cause % 2 ^ 15 * 2

/-- The bytes of a section of the own record, the sum of squares apart. -/
def State.voteSection (s : State) (slot q k : Nat) : List Byte :=
  let j := s.job slot
  match k with
  | 0 => leBytes 8 (statusWord j.cause s.ownRank (if j.cause = 0 then 0 else 1))
  | 1 => leBytes 8 (min s.sustainablePace s.paceCeiling)
  | 2 => leBytes 8 s.requests
  | 3 => leBytes 4 (s.rfld (numReg 0x28) 31 0) ++ leBytes 4 (s.rfld (numReg 0x28) 31 0)
  | 4 => leBytes 8 j.num.guardOvf
  | 5 => leBytes 8 j.num.gatherVoted ++ leBytes 8 j.num.gatherVoted
  | 6 => leBytes 16 q
  | 7 => (s.tableNums slot).flatMap (fun t => leBytes 2 (SMap.getD j.num.gCodes t 0))
  | 8 => (s.maxTensors slot).flatMap (fun t => leBytes 2 (SMap.getD j.num.refCodes t 0))
  | 9 => (s.histTensors slot).flatMap (fun t => (List.range 64).flatMap (fun i => leBytes 4 (atD (SMap.getD j.num.bins t []) i 0)))
  | 10 => (s.countKeys slot).flatMap (fun k =>
      let c := s.voteCounts slot k
      leBytes 8 c.1 ++ leBytes 8 c.2.1 ++ (if k < 0x100000 then leBytes 8 c.2.2 else []))
  | 11 => (s.ratioPairs slot).flatMap (fun x => leBytes 8 x.1 ++ leBytes 8 x.2)
  | 12 => s.fillers.flatMap (fun f => leBytes 8 (s.fillerEntry f))
  | _ => []

/-- The step record of a slot. -/
def State.voteRecord (s : State) (slot q : Nat) : SMap (List Byte) :=
  (s.stepSections slot).map (fun x => (x.1, padTo 8 (s.voteSection slot q x.1)))

/-! Histories (R183, R184). -/

/-- R183: the reference of history mode; none where the history holds no finite one. -/
def TensorHist.rho (x : TensorHist) : Option Int :=
  if x.refs.contains 0xFFFF || x.refs.all (· = 0) then none
  else some ((x.refs.filter (· ≠ 0)).foldl (fun a c => max a (decodeMaxCode c)) (-150))

/-- R183: H_base. -/
def TensorHist.base (x : TensorHist) : Int :=
  match x.rho with
  | some r => clampInt (-149) 127 (r - 40)
  | none => -40

/-- R184: fall-back mode for the next step. -/
def TensorHist.fallBack (x : TensorHist) : Bool := x.refs.isEmpty || decide (x.fallback ≠ 0)

/-- R183: the code of a histogram's reference, 0 where no element was counted. -/
def binRef (base : Int) (ppm : Nat) (bins : List Nat) : Nat :=
  let total := bins.foldl (· + ·) 0
  if total = 0 then 0
  else
    let b := ((List.range 64).find? (fun b => decide (((bins.drop (b + 1)).foldl (· + ·) 0) * 1000000 ≤ ppm * total))).getD 63
    (base + b - 1 + 151).toNat

/-- The place of a tensor in a list. -/
def placeOf (l : List Nat) (t : Nat) : Nat := l.findIdx (· == t)

/-- R183, R184: a tensor's history with the agreed record of a step. -/
def State.nextHist (s : State) (slot : Nat) (t : SMap (List Byte)) (tid : Nat) : TensorHist :=
  let old := SMap.getD (s.job slot).num.hist tid {}
  let h := s.jobCfg slot 0x204 16
  let code := if (s.histTensors slot).contains tid then
      let o := 256 * placeOf (s.histTensors slot) tid
      binRef old.base (s.jobCfg slot 0x8205 1) ((List.range 64).map (fun i => resultField t 9 (o + 4 * i) 4))
    else resultField t 8 (2 * placeOf (s.maxTensors slot) tid) 2
  let o := 16 * placeOf (s.recipeTensors slot) tid
  let above := decide (resultField t 3 0 4 * resultField t 10 o 8 < resultField t 10 (o + 8) 8 * 1000000)
  let refs := old.refs ++ [code]
  { refs := refs.drop (refs.length - h), fallback := if above then h else old.fallback - 1 }

/-! The scale table (R182). -/

/-- R182: emax of a tensor: by the format that its conversions take, else by its kind. -/
def State.tensorEmax (s : State) (slot tid : Nat) : Int :=
  let ds := (s.rawSteps slot).flatMap (fun x => x.entries.filterMap (fun w =>
    let e := decodeEntry w
    let d := atD x.descs e.desc []
    if e.unit = 3 && e.dv && bits (atD d 3 0) 55 40 = tid then some d else none))
  match ds.find? (fun d => [3, 4].contains (bits (atD d 2 0) 43 40)) with
  | some d => if bits (atD d 2 0) 43 40 = 3 then 8 else 15
  | none => if ds.any (fun d => bits (atD d 3 0) 58 56 = 2) then 15 else 8

/-- R182: s of a tensor. -/
def scaleExp (emax : Int) (rho : Option Int) : Int :=
  match rho with
  | some r => clampInt (-126) 127 (r - (emax - 1))
  | none => 0

/-- R182: a tensor's entry of the scale table. -/
def State.scaleEntry (s : State) (slot tid : Nat) : List Byte :=
  let x := SMap.getD (s.job slot).num.hist tid {}
  let e := scaleExp (s.tensorEmax slot tid) x.rho
  w32Bytes [(rn32 (.fin false 1 (-e))).1, (rn32 (.fin false 1 e)).1] ++ leBytes 4 (if x.fallBack then 2 ^ 32 - 1 else 0) ++
  leBytes 4 (if (s.histTensors slot).contains tid then ofInt 16 x.base else 0)

/-- R182: the firmware writes the scale table of the next step. -/
def State.writeScales (s : State) (slot : Nat) : State :=
  let bs := (s.recipeTensors slot).flatMap (s.scaleEntry slot)
  if bs.isEmpty then s
  else (s.memWrite { cls := 4, unit := 13, slot := slot } (s.objectBase slot 0x80040003 (s.memberCount slot)) bs).2

/-! The clip factor (R267) and the scalar block (R268). -/

/-- R178: the squared norm from the fabric total. -/
def State.normFrom (s : State) (slot n q : Nat) : W32 :=
  let es := s.clipExps slot
  let fast := s.fastFloat slot
  if !fast && es.contains 0x7FFF then qnan
  else if !fast && es.all (· = -150) then 0
  else if 2 ^ 127 ≤ q then inf32 false
  else (rn32 (.fin false q (s.anchor slot n - 88))).1

/-- R267. -/
def State.kappaOf (s : State) (slot : Nat) (sq : W32) : W32 :=
  let c : W32 := BitVec.ofNat 32 (s.jobCfg slot 0x507 0)
  if (dec32 c).isZero || (s.clipGroup slot).isEmpty then one32
  else if isNan32 sq then qnan
  else
    let nrm := sqrtF sq
    if cmpFV (dec32 nrm) (dec32 c) == .gt then divF c nrm else one32

/-- Table 9-2: the values of the scalar block. -/
def State.scalars (s : State) (slot n : Nat) (kappa : W32) : List W32 :=
  let adam := s.jobCfg slot 0x504 3 = 3
  let beta := fun (id d : Nat) => if adam then cr32OneMinusPow (BitVec.ofNat 32 (s.jobCfg slot id d)) (min n (2 ^ 24)) else one32
  [kappa, one32, beta 0x850B 0x3F666666, beta 0x850C 0x3F7FBE77]

/-- R268: the block goes into every core that owns or mirrors a slice. -/
def State.writeScalars (s : State) (slot n : Nat) (kappa : W32) : State :=
  let bs := (s.scalars slot n kappa).flatMap (fun w => w32Bytes (List.replicate 64 w))
  let a := s.jobCfg slot 0x8510 0x1FFC00
  (distinctUp ((s.job slot).slices.map (fun x => s.sliceCore slot x.1))).foldl (fun s c =>
    State.updCore s c (fun k => { k with cs := (k.cs.write a bs).1 })) s

/-! The agreed record of a step. -/

/-- R176: G_T with the codes of a record. -/
def State.nextG (s : State) (slot : Nat) (t : SMap (List Byte)) : SMap Int :=
  (s.tableNums slot).foldl (fun g k =>
    let c := resultField t 7 (2 * k) 2
    if c = 0 then g else SMap.put g k ((c : Int) - 151)) (s.job slot).num.gT

/-- The numerics state after the all-ok result of step `n`: exponents, histories, the lapse flag, clip factor and norm; the
step's own statistics are spent. -/
def State.takeStats (s : State) (slot n : Nat) (t : SMap (List Byte)) : State :=
  let num := (s.job slot).num
  let sq := s.normFrom slot n (resultField t 6 0 16)
  let kappa := s.kappaOf slot sq
  let hist := (s.recipeTensors slot).foldl (fun h tid => SMap.put h tid (s.nextHist slot t tid)) num.hist
  let num : NumericsState := { num with
    gPrev := num.gT, gT := s.nextG slot t, hist := hist, lapsed := num.lapsed || decide (resultField t 4 0 8 ≠ 0) || s.fastFloat slot
    gCodes := [], refCodes := [], bins := [], counts := [], late := [], guardOvf := 0, agreed := [], ratios := []
    vote := t, kappa := kappa, normSq := sq }
  let s := s.updJob slot (fun j => { j with num := num, owner := { j.owner with ratios := [] } })
  (s.writeScales slot).writeScalars slot n kappa

/-! The watch (R186). -/

/-- A numerics event: a record, counted. -/
def State.watchEvent (s : State) (code slot n d5 d6 d7 : Nat) : State :=
  ((s.inc (numReg 0x20) 1).setBit (numReg 0) 2).raiseError { code := code, slot := slot, step := n, d5 := d5, d6 := d6, d7 := d7 }

/-- The overflow and vanish shares of one format and kind against their thresholds; 0 disables. -/
def State.watchPair (s : State) (slot n : Nat) (t : SMap (List Byte)) (p i : Nat) : State :=
  let o := 16 * (s.recipeTensors slot).length + 24 * i
  let total := resultField t 10 o 8
  let above := resultField t 10 (o + 8) 8
  let vanish := resultField t 10 (o + 16) 8
  let a := s.jobCfg slot 0x207 1000
  let b := s.jobCfg slot 0x208 10000
  let s := if a ≠ 0 && a * total < above * 1000000 then s.watchEvent 0x0601 slot n (p / 8) (p % 8) (above * 1000000 / total) else s
  if b ≠ 0 && b * total < vanish * 1000000 then s.watchEvent 0x0602 slot n (p / 8) (p % 8) (vanish * 1000000 / total) else s

/-- The ratio of a pair as FP32: the root of the first sum over the root of the second. -/
def ratioOf (a b : Nat) : W32 :=
  let root := fun (x : Nat) => match dec64 x with
    | .fin _ m e => let r := sqrtSticky m e; (rn32 (.fin false r.1 r.2)).1
    | _ => qnan
  divF (root a) (root b)

/-- R186: the ratio of a tensor or table of the step before against its limits; 0 disables each. -/
def State.watchRatioOf (s : State) (slot n : Nat) (t : SMap (List Byte)) (name i : Nat) : State :=
  let den := resultField t 11 (16 * i + 8) 8
  let r := ratioOf (resultField t 11 (16 * i) 8) den
  let lo : W32 := BitVec.ofNat 32 (s.jobCfg slot 0x209 0)
  let hi : W32 := BitVec.ofNat 32 (s.jobCfg slot 0x20A 0)
  let low := !(dec32 lo).isZero && (cmpFV (dec32 r) (dec32 lo) == .lt)
  let high := !(dec32 hi).isZero && (cmpFV (dec32 r) (dec32 hi) == .gt)
  if (low || high) && !(dec64 den).isZero && !isNan32 r then s.watchEvent 0x0603 slot (n - 1) name r.toNat 0 else s

/-- R186: the watch of a commit point. -/
def State.watch (s : State) (slot n : Nat) : State :=
  let t := (s.job slot).num.vote
  let ps := s.countPairs slot
  let s := (ps.zip (List.range ps.length)).foldl (fun s x => State.watchPair s slot n t x.1 x.2) s
  if (SMap.find? t 11).isNone then s
  else
    let names := (s.tensors slot).map (·.1) ++ s.tableNums slot
    (names.zip (List.range names.length)).foldl (fun s x => State.watchRatioOf s slot n t x.1 x.2) s

end Sys2Proof.Machine
end

