-- ==== Sys2Proof/Machine/Phase9.lean ====
section
/-! DEFINITION. The end of phase 9 (R262, R271): what phase 10 then owes (R390 to R394), and the slice digests of mirror mode
(R272, R274). -/

namespace Sys2Proof.Machine

open Sys2Proof

/-! Slice digests (R272). -/

/-- The hashes of the lines of a slice in buffer n mod 2. -/
def State.sliceHash (s : State) (slot n g : Nat) (x : SliceState) : Nat :=
  ((s.slicePartList slot).flatMap (fun part =>
    (List.range (cdiv (s.partBytes slot x part) 64)).map (fun l =>
      crc32c (leBytes 2 x.tensor ++ leBytes 4 x.index ++ leBytes 1 part ++ leBytes 1 0 ++ leBytes 2 l ++
        Mem.bytes s.mem (s.densePage slot g (n % 2) part + 64 * l) 64)))).foldl (· + ·) 0

/-- R272: the slice digest of the owned or of the mirrored slices. -/
def State.sliceDigest (s : State) (slot n : Nat) (mirror : Bool) : Nat :=
  ((((s.job slot).slices.filter (fun x => x.2.mirror == mirror)).map (fun x => s.sliceHash slot n x.1 x.2)).foldl (· + ·) 0) % 2 ^ 64

/-- The position that mirrors this module's slices. -/
def State.mirrorPos (s : State) (slot : Nat) : Nat :=
  let n := s.memberCount slot
  ((s.job slot).position + cdiv n 2) % n

/-- The position whose slices this module mirrors. -/
def State.mirroredPos (s : State) (slot : Nat) : Nat :=
  let n := s.memberCount slot
  ((s.job slot).position + n - cdiv n 2) % n

/-- R274: a mismatch is voted, counted and recorded. -/
def State.mirrorMismatch (s : State) (slot n a b : Nat) : State :=
  let s := (((s.updJob slot (fun j => { j with mirrorBad := true })).inc (denseReg 0x48) 1).setBit (denseReg 0) 2)
  s.raiseError { code := 0x0A02, slot := slot, action := 3, step := n, phase := 9, d5 := s.rankOf slot (s.mirroredPos slot), d6 := a, d7 := b }

/-- R274: compares the digests once both are here. -/
def State.compareMirror (s : State) (slot n : Nat) : State :=
  match (s.job slot).num.ownDigest, (s.job slot).num.partnerDigest with
  | some a, some b => if a = b then s else s.mirrorMismatch slot n a b
  | _, _ => s

/-- R274: sends the digest of the owned slices, and keeps that of the mirrored ones. -/
def State.mirrorExchange (s : State) (slot n : Nat) : State :=
  if !s.mirrorActive slot then s
  else
    let d := s.sliceDigest slot n true
    let s := s.sendTo 0x1A slot (s.rankOf slot (s.mirrorPos slot)) n 0 0 0 [BitVec.ofNat 64 (s.sliceDigest slot n false)]
    (s.updJob slot (fun j => { j with num := { j.num with ownDigest := some d } })).compareMirror slot n

/-- MIRROR_DIGEST (R274): the partner's digest of the slices mirrored for it. -/
def execMirrorDigest (m : Message) (s : State) : Res :=
  .next (s.sink 0x1A m (fun s =>
    (s.updJob m.slot (fun j => { j with num := { j.num with partnerDigest := some (atD m.body 0 0).toNat } })).compareMirror m.slot (s.fullStep m)))

/-- MIRROR_DIGEST_TIMEOUT (R274): no digest has arrived before the watchdog interval; the missing one's place in the record is
a free value. -/
def execMirrorDigestTimeout (sl : SlotId) (s : State) : Res :=
  .next (match (s.job sl.val).num.ownDigest, (s.job sl.val).num.partnerDigest with
  | some a, none =>
    let f := s.free
    f.2.mirrorMismatch sl.val (s.job sl.val).phase9 a f.1
  | _, _ => s)

/-! The end of phase 9. -/

/-- R262, R28: every owned and mirrored slice carries stamp `n` in buffer n mod 2, and every row update is accepted. -/
def State.phase9Done (s : State) (slot n : Nat) : Bool :=
  (s.job slot).slices.all (fun x => decide (x.2.gatherStamp (n + 1) = n % 2 ^ 32)) &&
  (s.job slot).owner.updates.all (fun u => decide (u.step ≠ n) || u.accepted)

/-- The FP32 values of a slice's master page. -/
def State.masterValues (s : State) (slot g n : Nat) (x : SliceState) : List W32 :=
  let k := s.sliceElems slot x.tensor x.index
  bytesW32 k (Mem.bytes s.mem (s.densePage slot g (n % 2) 0) (4 * k))

/-- R271: a die's sums for a tensor, in ascending slice and element order. -/
def State.dieRatio (s : State) (slot n tid die : Nat) : Nat × Nat :=
  ((s.job slot).slices.filter (fun x => !x.2.mirror && decide (x.2.tensor = tid) && decide (s.sliceCore slot x.1 / 128 = die))).foldl
    (fun acc x => ratioAdd acc (s.masterValues slot x.1 (n + 1) x.2) (s.masterValues slot x.1 n x.2)) (0, 0)

/-- R271: the dies' sums, die 0 first, kept for the next vote. -/
def State.denseRatios (s : State) (slot n : Nat) : State :=
  if !s.watchRatio slot then s
  else
    let l : SMap (Nat × Nat) := (s.tensors slot).foldl (fun m t =>
      let a := s.dieRatio slot n t.1 0
      let b := s.dieRatio slot n t.1 1
      SMap.put m t.1 (add64f a.1 b.1, add64f a.2 b.2)) []
    s.updJob slot (fun j => { j with num := { j.num with ratios := l } })

/-- R390 to R394: what phase 10 of a step owes beside its rows and slices: the sweep, NUMERICS, MAP and the manifest. -/
def State.oweRecords (s : State) (slot n : Nat) : State :=
  let body := s.numericsBody slot n
  let keys := s.sweepKeys slot n
  let flags := s.manifestFlags slot
  let map := decide (n = 1) || (s.job slot).mapDue
  let s := s.updExp slot (fun e => { e with
    sweeps := e.sweeps ++ keys.map (fun k => (n, k)), numerics := e.numerics ++ [(n, body)]
    maps := if map then e.maps ++ [n] else e.maps, manifests := e.manifests ++ [(n, flags)] })
  s.updJob slot (fun j => { j with mapDue := false })

/-- PHASE9_COMPLETE (R262): phase 9 of the step after the committed one is complete on the module. -/
def execPhase9Complete (sl : SlotId) (s : State) : Res :=
  .next (
    let j := s.job sl.val
    let n := j.committed + 1
    if !j.member || j.stopped || j.halted || j.cause = 0x3001 || j.okStep < n || n ≤ j.phase9 || j.reexecPhase ≠ 0 || !s.phase9Done sl.val n then s
    else
      let s := s.updJob sl.val (fun j => { j with phase9 := n })
      ((s.denseRatios sl.val n).oweRecords sl.val n).mirrorExchange sl.val n)

end Sys2Proof.Machine
end

