-- ==== Sys2Proof/Machine/SkewMover.lean ====
section
/-! DEFINITION. The skew mover (R64 to R67): SK_MOVE copies a logical matrix between module memory and core stores. -/

namespace Sys2Proof.Machine

open Sys2Proof

/-- SRC_SPACE or DST_SPACE of a descriptor word (Table 2-6). -/
def skSpace (w : Nat) : Nat := bits w 51 48

/-- The core whose store a descriptor word names: the own one for space 1, SRC_CORE for space 2. -/
def skCore (c w : Nat) : Option Nat :=
  match skSpace w with
  | 1 => some c
  | 2 => some (bits w 59 52)
  | _ => none

/-- R44: the core-store ranges of a move. -/
def skRanges (c : Nat) (q : QEntry) : List CsRange :=
  (match skCore c (dword q 0) with | some d => csRanges d false (skReadRows q) | none => []) ++
  (match skCore c (dword q 1) with | some d => csRanges d true (skWriteRows q) | none => [])

/-- R256, R257: a move of an update reads buffer n - 1 and writes buffer n of its slices; other entries keep their addresses. -/
def State.denseMove (s : State) (slot : Nat) (q : QEntry) : QEntry :=
  match q.denseStep with
  | none => q
  | some n =>
    let w0 := if skSpace (dword q 0) = 0 then s.toBuffer slot ((n + 1) % 2) q 0 else dword q 0
    let w1 := if skSpace (dword q 1) = 0 then s.toBuffer slot (n % 2) q 1 else dword q 1
    { q with desc := w0 :: w1 :: q.desc.drop 2 }

/-- R265: the slice whose buffer a phase-9 move writes before the export of an earlier step has read it. -/
def skExportWait (slot : Nat) (q : QEntry) (s : State) : Option (Nat × Nat) :=
  let j := s.job slot
  if q.denseStep.isNone || skSpace (dword q 1) ≠ 0 then none
  else j.exp.dense.find? (fun x =>
    let g := SMap.getD j.slices x.2 {}
    decide (x.1 < q.step) && decide (x.1 % 2 = q.step % 2) && (s.slicePartList slot).any (fun part =>
      let a := s.densePage slot x.2 (x.1 % 2) part
      (skWriteRows q).any (fun r => decide (r.1 < a + s.partBytes slot g part) && decide (a < r.1 + r.2))))

/-- The first module address of a move whose slate line does not complete. -/
def skStalled (q : QEntry) (s : State) : Option Nat :=
  let rows := (if skSpace (dword q 0) = 0 then skReadRows q else []) ++ (if skSpace (dword q 1) = 0 then skWriteRows q else [])
  (rows.find? (fun r => s.slateStalled r.1 r.2)).map (·.1)

/-- R71, R265, R296, R298: a move whose slate lines do not complete waits by handshake, its request held by the controller, and so
does one into a page whose export is not complete, counted once. -/
def skHold (c slot : Nat) (q : QEntry) (s : State) : Option State :=
  let q := s.denseMove slot q
  match skStalled q s with
  | some a => some ((s.inc (coreReg c 0x70) 1).stallUnit 4 c slot a)
  | none =>
    match skExportWait slot q s with
    | none => none
    | some x =>
      if (s.job slot).exp.waited.contains x then some s
      else some ((s.updJob slot (fun j => { j with exp := { j.exp with waited := j.exp.waited ++ [x] } })).inc (denseReg 0x28) 1)

/-- The asker of a move's memory requests (R289). -/
def skAsker (c slot : Nat) (q : QEntry) : Asker :=
  { cls := bits (dword q 2) 9 8 + 1, unit := 4, core := c, slot := slot, step := q.step, phase := q.entry.phase }

/-- What the source rows read as, whether a read failed, and the state after it. -/
def skSource (c slot : Nat) (q : QEntry) (s : State) : EccMem × Bool × State :=
  match skCore c (dword q 0) with
  | some d =>
    let m := (s.core d).cs
    match (skReadRows q).find? (fun r => m.bad r.1 r.2) with
    | some r => (m, true, s.entryError 0x0103 c slot q false (m.badAt [r] r.1) 0 0)
    | none => (m, false, s)
  | none =>
    let r := (skReadRows q).foldl (fun acc x =>
      if acc.1 then acc else
        let y := acc.2.memRead (skAsker c slot q) x.1 x.2
        (y.bytes.isNone, y.st)) (false, s)
    ({ bytes := r.2.mem }, r.1, r.2)

/-- Writes the rows of a move: into a core store under R558, or line by line into module memory, where a half-byte
element keeps the other half of its byte. -/
def skSink (c slot : Nat) (q : QEntry) (ws : List (Nat × List Nat)) (s : State) : Bool × State :=
  let h := skHalf (bits (dword q 2) 2 0)
  match skCore c (dword q 1) with
  | some d =>
    let r := skStore h (s.core d).cs ws
    let s := s.updCore d (fun k => { k with cs := r.1 })
    if r.2 then (true, s.entryError 0x0103 c slot q false ((s.core d).cs.badAt (skWriteRows q) (bits (dword q 1) 20 0)) 0 0) else (false, s)
  | none =>
    ws.foldl (fun acc w =>
      if acc.1 then acc else
        let bs := packElems h w.2
        let bs := if h = 1 && w.2.length % 2 = 1 then
            let a := w.1 + bs.length - 1
            bs.dropLast ++ [BitVec.ofNat 8 ((Mem.get acc.2.mem a).toNat / 16 * 16 + (bs.getLastD 0).toNat % 16)]
          else bs
        acc.2.memWrite (skAsker c slot q) w.1 bs) (false, s)

/-- R65 to R67: the move, one line to the core store per beat. -/
def skWork (c slot : Nat) (q : QEntry) (s : State) : Work :=
  let q := s.denseMove slot q
  let src := skSource c slot q s
  if src.2.1 then { st := src.2.2, dead := true }
  else
    let ws := skWrites src.1 q
    let r := skSink c slot q ws src.2.2
    let n := ws.foldl (fun n w => n + (lines w.1 ((w.2.length * skHalf (bits (dword q 2) 2 0) + 1) / 2)).length) 0
    { st := r.2, beats := n, dead := r.1 }

/-- SK_MOVE (R65, R66). -/
def execSkMove (c : CoreId) (sl : SlotId) (s : State) : Res :=
  .next (s.startEntry c.val 4 sl.val (fun e => decide (e.op = 1)) freeWhenIdle (skHold c.val sl.val) (skRanges c.val)
    (skWork c.val sl.val))

end Sys2Proof.Machine
end

