-- ==== Sys2Proof/Machine/Sequencer.lean ====
section
/-! DEFINITION. The sequencer of a core (Cores and step tables): dispatch, the control operations of Table 2-5,
completion with its tokens (R54, R55), the watchdog (R72) and filler chunks (R74, R75). -/

namespace Sys2Proof.Machine

open Sys2Proof

/-- The entry at a slot's dispatch position, if the core dispatches for it. -/
def State.nextEntry (s : State) (c slot : Nat) : Option Entry :=
  if s.dispatching c slot then some ((s.core c).entryAt slot ((s.core c).slot slot).pc) else none

/-- Changes the dispatch state of a slot. -/
def State.updCs (s : State) (c slot : Nat) (f : CoreSlot → CoreSlot) : State := s.updCore c (fun k => k.updSlot slot f)

/-- R47: the dispatched entry with its indices, its microbatch (R59), its descriptor and its step (R46, R51). -/
def State.queued (s : State) (c slot : Nat) (e : Entry) : QEntry :=
  let k := s.core c
  let cs := k.slot slot
  { num := cs.pc, entry := e, idx := cs.idx, flat := cs.flat, mb := cs.mb (s.job slot).position (s.memberCount slot),
    desc := if e.dv then k.descAt slot e.desc else [], step := cs.iter + (if e.next then 1 else 0), seq := cs.dispatched }

/-- SQ_DISPATCH (R47, R51): the next unit entry goes to its queue; a full queue stops the slot and is counted. The
prologue passes over entries with NEXT = 0. -/
def execSqDispatch (c : CoreId) (sl : SlotId) (s : State) : Res :=
  .next (match s.nextEntry c.val sl.val with
  | none => s
  | some e =>
    let cs := (s.core c.val).slot sl.val
    if e.unit = 0 || 6 < e.unit then s
    else if cs.prologue && !e.next then s.updCs c.val sl.val CoreSlot.next
    else if (cs.queue e.unit).length ≥ 8 then s.inc (unitReg (coreReg c.val 0x10) e.unit) 1
    else
      let q := s.queued c.val sl.val e
      s.updCs c.val sl.val (fun cs =>
        { cs with queues := SMap.put cs.queues e.unit (cs.queue e.unit ++ [q]), dispatched := cs.dispatched + 1 }.next))

/-- NOP (Table 2-5): takes its dispatch beat. -/
def execNop (c : CoreId) (sl : SlotId) (s : State) : Res :=
  .next (match s.nextEntry c.val sl.val with
  | some e => if e.unit = 0 && e.op = 0 then s.updCs c.val sl.val CoreSlot.next else s
  | none => s)

/-- R58, R59: enters a loop, or passes over the body of one whose count is 0. -/
def CoreSlot.enterLoop (k : CoreSlot) (count body : Nat) (mb : Bool) : CoreSlot :=
  if count = 0 then k.goTo (k.pc + 1 + body)
  else
    let f : LoopFrame := { start := k.pc + 1, stop := k.pc + 1 + body, count := count, mb := mb }
    { k with pc := k.pc + 1, loops := f :: k.loops }

/-- LOOP (R58, R59): repeats the following body; the microbatch loop takes its count from the job layout. -/
def execLoop (c : CoreId) (sl : SlotId) (s : State) : Res :=
  .next (match s.nextEntry c.val sl.val with
  | some e =>
    if e.unit = 0 && e.op = 1 then
      let mb := decide (bits e.oper 12 12 = 1)
      let count := if mb then (s.job sl.val).mbCount else e.imm + 1
      s.updCs c.val sl.val (fun cs => cs.enterLoop count (bits e.oper 11 0) mb)
    else s
  | none => s)

/-- Table 2-5, FENCE: every earlier entry of the slot on this core has completed. -/
def CoreState.drained (k : CoreState) (slot : Nat) : Bool :=
  (k.slot slot).queues.all (fun q => q.2.isEmpty) && k.units.all (fun u => u.2.running.all (fun r => r.slot != slot))

/-- FENCE: dispatch passes it once every earlier entry of the slot on this core has completed. -/
def execFence (c : CoreId) (sl : SlotId) (s : State) : Res :=
  .next (match s.nextEntry c.val sl.val with
  | some e =>
    if e.unit = 0 && e.op = 2 then
      if ((s.core c.val).slot sl.val).prologue || (s.core c.val).drained sl.val then s.updCs c.val sl.val CoreSlot.next else s
    else s
  | none => s)

/-- RSIG: acts as FENCE, then increments a token of the same slot on the target core; R55 holds it at 255. -/
def execRsig (c : CoreId) (sl : SlotId) (s : State) : Res :=
  .next (match s.nextEntry c.val sl.val with
  | some e =>
    if e.unit = 0 && e.op = 3 then
      if ((s.core c.val).slot sl.val).prologue then s.updCs c.val sl.val CoreSlot.next
      else if !(s.core c.val).drained sl.val then s
      else
        let d := bits e.oper 7 0
        let t := bits e.oper 12 8
        if !((s.core d).slot sl.val).signalsFit [t] then s.inc (coreReg c.val 0x40) 1
        else (s.updCs d sl.val (fun cs => cs.signal [t])).updCs c.val sl.val CoreSlot.next
    else s
  | none => s)

/-- STEP_END (R50, R51): ends the table iteration, or the prologue; dispatch of the next iteration begins. -/
def execStepEnd (c : CoreId) (sl : SlotId) (s : State) : Res :=
  .next (match s.nextEntry c.val sl.val with
  | some e =>
    if e.unit = 0 && e.op = 4 then
      s.updCs c.val sl.val (fun cs => { cs with pc := 0, loops := [], prologue := false, iter := cs.iter + 1 })
    else s
  | none => s)

/-- The counters of a completed entry: array passes (Table 3-8), VE entries (Table 4-9), busy beats (Table 2-8). -/
def State.countEntry (s : State) (c u : Nat) (r : RunEntry) : State :=
  let s := s.countBusy c u r.slot r.beats
  if u = 1 || u = 2 then
    if r.q.entry.op ≥ 0x40 then
      let s := s.inc (coreReg c (0x200 + 8 * (u - 1))) 1
      if r.q.entry.imm = 0 then s.inc (coreReg c (0x210 + 8 * (u - 1))) 1 else s
    else s
  else if u = 3 then (s.inc (coreReg c 0x300) 1).inc (coreReg c 0x308) r.beats
  else s

/-- R255: the slice with stamp `n` in buffer `n` mod 2. -/
def SliceState.stamp (x : SliceState) (n : Nat) : SliceState :=
  if n % 2 = 0 then { x with stamp0 := n % 2 ^ 32 } else { x with stamp1 := n % 2 ^ 32 }

/-- The lines of a slice's page part, as `written` names them. -/
def State.partLines (s : State) (slot : Nat) (x : SliceState) (part : Nat) : List Nat :=
  (List.range (cdiv (s.partBytes slot x part) 64)).map (fun l => part * 1024 + l)

/-- R262: the update of step `n` has written lines of a slice; with its master, moments and working copy whole the slice takes its
stamp. -/
def State.writeSlice (s : State) (slot n g : Nat) (new : List Nat) : State :=
  let x := SMap.getD (s.job slot).slices g {}
  let old := if x.writeStep = n then x.written else []
  let done := old ++ new.filter (fun l => !old.contains l)
  let whole := fun (l : List Nat) => (s.slicePartList slot).all (fun p => (s.partLines slot x p).all l.contains)
  let x := { x with writeStep := n, written := done }
  if whole done && !whole old then
    (s.inc (denseReg 0x18) 1).updJob slot (fun j => { j with slices := SMap.put j.slices g (x.stamp n) })
  else s.updJob slot (fun j => { j with slices := SMap.put j.slices g x })

/-- R255, R262: a completed move of an update has written its lines of the slice's buffer; the last of them stamps the slice (log
entry 15). -/
def State.stampSlice (s : State) (u : Nat) (r : RunEntry) : State :=
  match r.q.denseStep with
  | none => s
  | some n =>
    let q := s.denseMove r.slot r.q
    if u ≠ 4 || skSpace (dword q 1) ≠ 0 then s
    else
      match s.pageAt r.slot (operAddr q 1 (bits (dword q 1) 47 0)) with
      | none => s
      | some (g, _, part, p) =>
        s.writeSlice r.slot n g ((skWriteRows q).flatMap (fun w => (lines w.1 w.2).map (fun l => part * 1024 + (l - p) / 64)))

/-- ENTRY_COMPLETE (R54, R55, R348): the unit completes its entry and signals its tokens; a full counter holds it, and an
XU entry's result must be in place. A filler entry's chunk ends with it, so the next one takes the test of R74 again. -/
def execEntryComplete (c : CoreId) (u : UnitId) (s : State) : Res :=
  .next (match ((s.core c.val).unit u.val).completing with
  | none => s
  | some r =>
    let ts := tokenList r.q.entry.sigA r.q.entry.sigB
    if u.val = 6 && !s.xuInPlace c.val r.slot r.q then s
    else if !((s.core c.val).slot r.slot).signalsFit ts then s.inc (coreReg c.val 0x40) 1
    else
      let s := s.updCore c.val (fun k =>
        let un := k.unit u.val
        let un := { un with running := un.running.erase r,
                            chunk := if r.slot = 0 then un.chunk else none,
                            fillerBeats := if r.slot = 0 then un.fillerBeats else un.fillerBeats + r.beats }
        (k.updSlot r.slot (fun cs => cs.signal ts)).updUnit u.val (fun _ => un))
      let s := (s.countEntry c.val u.val r).stampSlice u.val r
      if (tokenList r.q.entry.waitA r.q.entry.waitB).contains 24 then s.signalIngest r.slot else s)

/-- R72: the core has incomplete primary entries and none of them is held by a gate or by a wait on T24 or T25. -/
def State.watchdogDue (s : State) (c : Nat) : Bool :=
  let k := s.core c
  k.oldestPrimary.isSome &&
  (k.slot 0).queues.all (fun q => match q.2.head? with | some e => !s.heldQuietly c 0 e | none => true)

/-- R298: what the record of a watchdog says of a stalled service request: package, retries and time waited, and the address. -/
def State.slateCause (s : State) : Nat × Nat :=
  match s.slate.requests.find? (fun r => !r.req.test && !r.req.service) with
  | some r => (slatePackage r.req.addr * 2 ^ 8 + r.retries % 2 ^ 16 * 2 ^ 16 + (s.now - r.since) % 2 ^ 32 * 2 ^ 32, r.req.addr)
  | none => (0, 0)

/-- WATCHDOG_EXPIRY (R72, R298): sets WATCHDOG, writes a record with the oldest entry, its unit and the cause of a slate stall (the
places within the DETAIL words are log entry 129's), and aborts the step. -/
def execWatchdogExpiry (c : CoreId) (s : State) : Res :=
  .next (if !s.watchdogDue c.val then s
  else
    match (s.core c.val).oldestPrimary with
    | none => s
    | some q =>
      let s := s.setBit (coreReg c.val 0) 3
      let r := s.stopEffect 0 q.entry.phase q.entry.next false
      r.2.raiseError { code := 0x0102, unit := 0, index := c.val, action := r.1, step := q.recordStep, phase := q.entry.phase,
                       q := some q, d5 := q.num, d6 := q.entry.unit + s.slateCause.1, d7 := s.slateCause.2 })

/-- R74: the filler share in force, in per cent. -/
def State.fillerShare (s : State) : Nat := s.rfld (liveReg 0x18) 4 0

/-- R74: no primary entry is ready to start on the unit. -/
def State.primaryReady (s : State) (c u : Nat) : Bool :=
  match s.head c u 0 with
  | some q => s.mayStart c u 0 q
  | none => false

/-- R74: the beat budget admits one more chunk. -/
def State.fillerBudget (s : State) (c u : Nat) : Bool :=
  let un := (s.core c).unit u
  decide ((un.fillerBeats + 256) * 100 ≤ s.fillerShare * un.primaryBeats)

/-- A filler slot with an entry suspended on the unit, or one ready to start there. -/
def State.fillerReady (s : State) (c u f : Nat) : Bool :=
  let k := s.core c
  let j := s.job f
  j.member && !j.stopped && !j.halted &&
  ((k.unit u).suspended.contains f ||
   (match s.head c u f with
    | some q => (k.slot f).loaded && (k.slot f).waitsMet q.entry && s.gatesOpen f q
    | none => false))

/-- R74: the filler slots in rotation, starting after the slot served last. -/
def fillerOrder (last : Nat) : List Nat := (List.range 3).map (fun i => (last + i) % 3 + 1)

/-- FILLER_CHUNK_START (R74): the next ready filler slot in rotation takes the unit for a chunk, or is deferred. -/
def execFillerChunkStart (c : CoreId) (u : UnitId) (s : State) : Res :=
  .next (
    let un := (s.core c.val).unit u.val
    if un.chunk.isSome || s.primaryReady c.val u.val then s
    else
      match (fillerOrder un.lastSlot).find? (fun f => s.fillerReady c.val u.val f) with
      | none => s
      | some f =>
        if !s.fillerBudget c.val u.val then s.inc (coreReg c.val 0x160) 1
        else s.updCore c.val (fun k => k.updUnit u.val (fun un =>
          { un with chunk := some f, lastSlot := f, suspended := un.suspended.filter (fun x => x != f) })))

/-- FILLER_CHUNK_END (R75): a chunk of 256 beats ends and counts; the entry goes on if R74 still holds, else it is suspended. The
last chunk of an entry, and a matrix-array pass, end with ENTRY_COMPLETE. -/
def execFillerChunkEnd (c : CoreId) (u : UnitId) (s : State) : Res :=
  .next (
    let un := (s.core c.val).unit u.val
    match un.chunk with
    | none => s
    | some f =>
      match un.running.find? (fun r => r.slot == f) with
      | none => s.updCore c.val (fun k => k.updUnit u.val (fun un => { un with chunk := none }))
      | some r =>
        if !r.chunked then s
        else
        let s := s.countBusy c.val u.val f 256
        let s := s.updCore c.val (fun k => k.updUnit u.val (fun un =>
          { un with fillerBeats := un.fillerBeats + 256,
                    running := un.running.map (fun x => if x.slot == f then { x with beats := x.beats - 256 } else x) }))
        if !s.primaryReady c.val u.val && s.fillerBudget c.val u.val then s
        else s.updCore c.val (fun k => k.updUnit u.val (fun un => { un with chunk := none, suspended := un.suspended ++ [f] })))

end Sys2Proof.Machine
end

