-- ==== Sys2Proof/Machine/Reexec.lean ====
section
/-! DEFINITION. Local re-execution (R73, R473, R474, R482): a phase's entries run again, one at a time, in table order. -/

namespace Sys2Proof.Machine

open Sys2Proof

/-- The commands of a unit's entries; each acts on the entry at the head of the queue when it has its operation. -/
def unitCommands (u : Nat) : List (CoreId → SlotId → State → Res) :=
  match u with
  | 1 => [fun c => execClear c 0, fun c => execDrain c 0, fun c => execPass c 0]
  | 2 => [fun c => execClear c 1, fun c => execDrain c 1, fun c => execPass c 1]
  | 3 => [execVeAdd, execVeSub, execVeMul, execAxpy, execVeDiv, execVeMin, execVeMax, execVeAbs, execVeNeg, execSqrt, execRsqrt, execVeExp,
      execVeLog, execSigmoid, execTanh, execCvt, execCmpLt, execCmpLe, execCmpEq, execCmpUn, execVeSelect, execIadd, execIsub, execIaddSat,
      execIsubSat, execUaddSat, execVeAnd, execVeOr, execVeXor, execVeNot, execShl, execShr, execSar, execImin, execImax, execUmin, execUmax,
      execAdd64, execRsumRow, execRmaxRow, execRminRow, execRmaxabsRow, execRsumCol, execRmaxCol, execRmaxabsCol, execHistLog2, execSoftmax,
      execCvtToSb, execCvtFromSb, execCvtBi32, execVload, execVstore]
  | 4 => [execSkMove]
  | 5 => [execKeyMerge, execRespExpand, execGradScan, execGradFlush, execGradMerge]
  | 6 => [execExchClose, execAgreeMax, execReduceScatter, execAllGather]
  | _ => []

/-- The state that a command leaves. -/
def stateAfter (s : State) (r : Res) : State :=
  match r with
  | .next t => t
  | _ => s

/-- Runs the entry at the head of a unit's queue. -/
def State.runHead (s : State) (c : CoreId) (sl : SlotId) (u : Nat) : State :=
  (unitCommands u).foldl (fun s f => stateAfter s (f c sl s)) s

/-- The entries of a phase with NEXT = 0 in dispatch order, loops unrolled, up to a dispatch position. -/
def State.phaseEntries (s : State) (c slot phase step : Nat) (stop : Option (Nat × List LoopFrame)) : Nat → CoreSlot → List QEntry
  | 0, _ => []
  | n + 1, cs =>
    let k := s.core c
    if cs.entries ≤ cs.pc || stop = some (cs.pc, cs.loops) then []
    else
      let e := k.entryAt slot cs.pc
      if e.unit = 0 then
        if e.op = 4 then []
        else if e.op = 1 then
          let mb := decide (bits e.oper 12 12 = 1)
          s.phaseEntries c slot phase step stop n (cs.enterLoop (if mb then (s.job slot).mbCount else e.imm + 1) (bits e.oper 11 0) mb)
        else s.phaseEntries c slot phase step stop n cs.next
      else if e.phase = phase && !e.next then
        let q : QEntry := { num := cs.pc, entry := { e with waitA := 0, waitB := 0, sigA := 0, sigB := 0 }, idx := cs.idx, flat := cs.flat
                            mb := cs.mb (s.job slot).position (s.memberCount slot)
                            desc := if e.dv then k.descAt slot e.desc else [], step := step }
        q :: s.phaseEntries c slot phase step stop n cs.next
      else s.phaseEntries c slot phase step stop n cs.next

/-- The entries that a core replays: those of the phase that have started; the others run when their turn comes (log entry 116). -/
def State.replayList (s : State) (c slot phase step : Nat) : List QEntry :=
  let cs := (s.core c).slot slot
  if cs.prologue || cs.iter < step then []
  else
    let stop := if cs.iter = step then some (cs.pc, cs.loops) else none
    let waits := fun (q : QEntry) => (cs.queue q.entry.unit).any (fun w => decide (w.num = q.num) && decide (w.flat = q.flat) && decide (w.step = q.step))
    (s.phaseEntries c slot phase step stop (2 ^ 48) { cs with pc := 0, loops := [], prologue := false }).filter (fun q => !waits q)

/-- Starts a replayed entry on its unit, which holds nothing else: the entry as it runs, if it started. -/
def State.replayStart (s : State) (c : CoreId) (sl : SlotId) (q : QEntry) : Option RunEntry × State :=
  let u := q.entry.unit
  let s := s.updCore c.val (fun k => (k.updSlot sl.val (fun cs => { cs with queues := [(u, [q])] })).updUnit u (fun un =>
    { un with running := [], suspended := [], chunk := some sl.val }))
  let s := s.runHead c sl u
  (((s.core c.val).unit u).running.head?, s)

/-- R92, R93: the tile that a replayed entry drains goes into the TQ if that has room. -/
def State.replayDrain (s : State) (c : CoreId) (u : Nat) (r : RunEntry) : RunEntry × State :=
  match r.drain with
  | none => (r, s)
  | some t =>
    let a : ArrayId := if u = 1 then 0 else 1
    let s := s.updCore c.val (fun k => (k.updUnit u (fun un => { un with running := [r] })).updArray a.val (fun x => { x with drains := [t] }))
    let s := stateAfter s (execTileDrain c a s)
    (((s.core c.val).unit u).running.headD r, s)

/-- Changes a slot's replay. -/
def State.updReplay (s : State) (slot : Nat) (f : Replay → Replay) : State := s.updJob slot (fun j => { j with replay := j.replay.map f })

/-- R73: an entry that runs completes once its tile is in the TQ (R93) and an XU result in place (R348); until then the replay
keeps it, and one that faults again stays incomplete. -/
def State.replayFinish (s : State) (c : CoreId) (sl : SlotId) (r : RunEntry) : State :=
  let u := r.q.entry.unit
  if r.dead || r.drain.isSome || (u = 6 && !s.xuInPlace c.val sl.val r.q) then
    s.updReplay sl.val (fun p => { p with run := if r.dead then SMap.del p.run c.val else SMap.put p.run c.val r })
  else
    ((s.countEntry c.val u r).stampSlice u r).updReplay sl.val (fun p =>
      { done := SMap.upd p.done c.val 0 (· + 1), run := SMap.del p.run c.val })

/-- R73: runs one entry by itself, or goes on with it; nothing more runs once one has faulted. -/
def State.replayEntry (s : State) (c : CoreId) (sl : SlotId) (q : QEntry) : State :=
  let u := q.entry.unit
  match (s.job sl.val).replay with
  | none => s
  | some p =>
    let drains := ((s.core c.val).array (u - 1)).drains
    let x := match SMap.find? p.run c.val with
      | some r => (some r, s)
      | none => s.replayStart c sl q
    match x.1 with
    | none => x.2
    | some r =>
      let y := x.2.replayDrain c u r
      (y.2.replayFinish c sl y.1).updCore c.val (fun k =>
        let k := k.updUnit u (fun un => { un with running := [] })
        if u ≤ 2 then k.updArray (u - 1) (fun a => { a with drains := drains }) else k)

/-- Whether an entry in a unit or the TQ belongs to the phase that is re-executed. -/
def ofPhase (slot phase step : Nat) (sl ph : Nat) (next : Bool) (st : Nat) : Bool :=
  decide (sl = slot) && decide (ph = phase) && !next && decide (st = step)

/-- A core before the replay of a phase: the tiles that the phase has in the TQ or on their way there are dropped, and its running
entries do not complete before the replay. -/
def CoreState.beforeReplay (k : CoreState) (slot phase step : Nat) : CoreState :=
  let mine := fun (r : RunEntry) => ofPhase slot phase step r.slot r.q.entry.phase r.q.entry.next r.q.step
  let gone := fun (u : Nat) => (k.unit u).running.filterMap (fun r => if mine r then r.drain else none)
  { k with
    units := k.units.map (fun (u : Nat × UnitState) =>
      (u.1, { u.2 with running := u.2.running.map (fun r => if mine r then { r with drain := none, dead := true } else r) }))
    arrays := k.arrays.map (fun (a : Nat × ArrayState) => (a.1, { a.2 with drains := a.2.drains.filter (fun t => !(gone (a.1 + 1)).contains t) }))
    tq := k.tq.filter (fun e => !ofPhase slot phase step e.slot e.phase e.next e.step) }

/-- A core after a replay: its queues, tokens and running entries as they were, and once the replay is whole the entries of the phase
that had run complete. -/
def CoreState.afterReplay (k old : CoreState) (slot phase step : Nat) (whole : Bool) : CoreState :=
  let fix := fun (r : RunEntry) =>
    if whole && ofPhase slot phase step r.slot r.q.entry.phase r.q.entry.next r.q.step then { r with dead := false } else r
  let k := k.updSlot slot (fun cs => { cs with queues := (old.slot slot).queues, tokens := (old.slot slot).tokens })
  { k with units := k.units.map (fun (u : Nat × UnitState) =>
      (u.1, { u.2 with running := (old.unit u.1).running.map fix, suspended := (old.unit u.1).suspended, chunk := (old.unit u.1).chunk
                       lastSlot := (old.unit u.1).lastSlot })), lastPhase := old.lastPhase }

/-- The results of the phase that its re-execution forms anew: the gradient sums of phase 6, the expanded responses of phase 4, the
pages that phase 9 has written. -/
def State.clearPhase (s : State) (slot phase step : Nat) : State :=
  if phase = 9 then s.updJob slot (fun j => { j with slices := j.slices.map (fun (x : Nat × SliceState) => (x.1, { x.2 with written := [] })) })
  else if phase ≠ 4 && phase ≠ 6 then s
  else
    (s.loadedCores slot).foldl (fun s c => State.updGcSlot s c slot (fun g =>
      if phase = 6 then
        { g with resident := [], spill := [], flushed := []
                 batches := SMap.upd g.batches step [] (fun l => l.map (fun b => { b with gradSent := false })) }
      else { g with batches := SMap.upd g.batches step [] (fun l => l.map (fun b => { b with expanded := false })) })) s

/-- R73, R474: a replay begins, one more of its phase: what the phase had formed is dropped. -/
def State.beginReplay (s : State) (slot phase step : Nat) : State :=
  let s := s.updJob slot (fun j => { j with reexecs := SMap.upd j.reexecs phase 0 (· + 1), replay := some {} })
  let s := if phase = 9 && decide ((s.job slot).phase9 < step) then s.rewalk slot step else s
  (s.loadedCores slot).foldl (fun s c => State.updCore s c (fun k => k.beforeReplay slot phase step)) (s.clearPhase slot phase step)

/-- R73: every core that runs the slot replays its entries in turn as far as they complete; cores go in step with one another. -/
def State.replayRounds (s : State) (sl : SlotId) (lists : List (Nat × List QEntry)) : State :=
  let len := (lists.map (fun x => x.2.length)).foldl max 0
  (List.range len).foldl (fun s _ => lists.foldl (fun s x =>
    match x.2[SMap.getD ((s.job sl.val).replay.getD {}).done x.1 0]? with
    | some q => if h : x.1 < 256 then State.replayEntry s ⟨x.1, h⟩ sl q else s
    | none => s) s) s

/-- Every entry of a replay has completed. -/
def State.replayWhole (s : State) (slot : Nat) (lists : List (Nat × List QEntry)) : Bool :=
  match (s.job slot).replay with
  | some p => lists.all (fun x => decide (x.2.length ≤ SMap.getD p.done x.1 0))
  | none => false

/-- R73, R474: a replay goes on; the answer says whether it is whole, and then its phase has completed and its re-executions are
forgotten. A fault starts it over, and one that waits keeps its place. -/
def State.goReplay (s : State) (sl : SlotId) (phase step : Nat) : Bool × State :=
  let slot := sl.val
  let cores := s.loadedCores slot
  let old := s.cores
  let pace := s.pace
  let lists := cores.map (fun c => (c, s.replayList c slot phase step))
  let s := s.updJob slot (fun j => { j with reexecPhase := 0 })
  let s := { s with pace := { s.pace with ceilings := (List.range 32).map (fun d => (d, 2 ^ 16)) } }
  let s := cores.foldl (fun s c => State.updCore s c (fun k => { k with units := k.units.map (fun (u : Nat × UnitState) =>
    (u.1, { u.2 with running := [] })) })) s
  let s := s.replayRounds sl lists
  let whole := s.replayWhole slot lists
  let s := { s with pace := { s.pace with ceilings := pace.ceilings, waiting := pace.waiting } }
  let s := cores.foldl (fun s c => State.updCore s c (fun k => k.afterReplay (SMap.getD old c {}) slot phase step whole)) s
  (whole, s.updJob slot (fun j =>
    if whole then { j with replay := none, reexecs := SMap.del j.reexecs phase } else if j.replay.isSome then { j with reexecPhase := phase } else j))

/-- The step whose phase is re-executed: the open step, or, for phase 9, the one after the committed step. -/
def State.reexecStep (s : State) (slot : Nat) : Nat := (s.job slot).committed + 1

/-- LOCAL_REEXECUTION (R473, R474, R482): the phase that a fault or a mirror mismatch names runs again from its surviving inputs, or
goes on doing so; phase 9 also walks the row update lists again (R29), and a recompute exchanges its digests. -/
def execLocalReexecution (sl : SlotId) (phase : Nat) (s : State) : Res :=
  .next (
    let j := s.job sl.val
    if phase = 0 || j.reexecPhase ≠ phase || !j.member || j.stopped || j.halted then s
    else
      let n := s.reexecStep sl.val
      let s := if j.replay.isNone then (s.inc (faultReg 0x20) 1).beginReplay sl.val phase n else s
      let r := s.goReplay sl phase n
      if r.1 && phase = 9 && n ≤ j.phase9 then r.2.mirrorExchange sl.val n else r.2)

end Sys2Proof.Machine
end

