-- ==== Sys2Proof/Machine/Rollback.lean ====
section
/-! DEFINITION. What a step that does not commit leaves: retries (R477, R478, R481), rollback (R483, R487), halts (R364), and
members that leave a job (R458, R489). -/

namespace Sys2Proof.Machine

open Sys2Proof

/-! Discarded work. -/

/-- A slot without its records, waiting exports and requests of the steps from `n` on; statistics of the step before `n` stay. -/
def JobSlot.dropFrom (j : JobSlot) (n : Nat) : JobSlot :=
  { j with
    voted := min j.voted (n - 1), cause := 0, mirrorBad := false, reexecs := [], reexecPhase := 0, replay := none, xchStep := min j.xchStep (n - 1), rounds := [], spillWait := []
    fillRecord := none, fillPassed := false
    countsRx := j.countsRx.filter (fun (e : Nat × Nat) => decide (e.1 / 4096 < n))
    owner := { j.owner with
      batches := j.owner.batches.filter (fun b => decide (b.step < n))
      updates := j.owner.updates.filter (fun u => decide (u.step < n))
      grads := [], lost := false, order := 0
      diffs := j.owner.diffs.filter (fun d => decide (d.step < n)) }
    gathers := j.gathers.filter (fun g => decide (g.step < n)), bags := j.bags.filter (fun b => decide (b.step < n))
    signalled := 0, signalStep := n, slices := j.slices.map (fun (x : Nat × SliceState) => (x.1, { x.2 with grad := [], written := [] }))
    num := { j.num with
      gCodes := [], refCodes := [], bins := [], counts := [], guardOvf := 0, agreed := [], gatherDigest := 0
      ownDigest := none, partnerDigest := none }
    exp := { j.exp with
      sweeps := j.exp.sweeps.filter (fun x => decide (x.1 < n)), numerics := j.exp.numerics.filter (fun x => decide (x.1 < n))
      maps := j.exp.maps.filter (fun x => decide (x < n)), dense := j.exp.dense.filter (fun x => decide (x.1 < n))
      manifests := j.exp.manifests.filter (fun x => decide (x.1 < n)) } }

/-- Discards every result of a slot's steps from `n` on, on every unit. -/
def State.discardFrom (s : State) (slot n : Nat) : State :=
  let s := s.updJob slot (fun j => j.dropFrom n)
  { s with
    controllers := s.controllers.map (fun (m : Nat × MemController) =>
      (m.1, { m.2 with records := m.2.records.filter (fun r => decide (r.slot ≠ slot) || decide (r.step < n)) }))
    collectives := s.collectives.filter (fun k => decide (k.slot ≠ slot) || decide (k.step < n)) }

/-! Retries (R477, R478). -/

/-- `fault.step_retry_limit`. -/
def State.retryLimit (s : State) : Nat := s.cfgV 0 0x8B04 0 2

/-- R478, R479: STEP_RETRY is written and counted; RETRYING shows until the commit. -/
def State.countRetry (s : State) (slot n cause retry : Nat) : State :=
  let s := (s.inc (faultReg 0x28) 1).raiseError { code := 0x0B01, slot := slot, step := n, phase := 8, d5 := cause, d6 := retry }
  if slot = 0 then s.setBit faultStatus 3 else s

/-- R340: a new attempt. -/
def State.nextAttempt (s : State) (slot : Nat) : State :=
  (s.updJob slot (fun j => { j with attempt := (j.attempt + 1) % 256 })).refreshGuidon

/-- R477: the step runs again from its prologue on the same landed frames. -/
def State.rerunStep (s : State) (slot n : Nat) : State :=
  (((s.discardFrom slot n).restartCores slot (n - 1)).signalIngest slot)

/-- R481: the hash of the lines still placed in a step's gather areas. -/
def State.auditSum (s : State) (slot n : Nat) : Nat :=
  ((((s.job slot).gathers.filter (fun g => decide (g.step = n))).flatMap (fun g =>
    g.placed.map (fun l => gatherHash g.tensor l (Mem.bytes s.mem (g.dest + 64 * l) 64)))).foldl (· + ·) 0) % 2 ^ 64

/-- R481: a member whose gather areas have changed since the vote writes GATHER_AUDIT and takes a strike. -/
def State.audit (s : State) (slot n : Nat) : State :=
  let a := s.auditSum slot n
  let v := (s.job slot).num.gatherVoted
  if a = v then s else s.raiseError { code := 0x0A03, slot := slot, step := n, phase := 5, d5 := v, d6 := a }

/-! Rollback (R483). -/

/-- The slot stops and loses its uncommitted work, a boundary in progress included. -/
def State.stopSlot (s : State) (slot : Nat) : State :=
  let c := (s.job slot).committed
  let s := (s.discardFrom slot (c + 1)).updJob slot (fun j => { j with
    stopped := true, held := false, holdCause := 0, holdFwd := false, layoutPending := false, permuting := false, permuteSenders := 0
    permuteCounts := [], permuteStage := [], retries := 0, closingRepeats := 0, mirrorTries := 0 })
  s.restartCores slot c

/-- R487: the filler slots stop and are no longer admitted. -/
def State.stopFillers (s : State) : State :=
  s.fillers.foldl (fun s f => (State.stopSlot s f).updJob f (fun j => { j with admitted := false, wantAdmit := false })) s

/-- The primary and the fillers stop, and the rollback is at a stage. -/
def State.beginRollback (s : State) (stage : Nat) : State :=
  let s := ((s.stopSlot 0).stopFillers).updJob 0 (fun j => { j with proposal := [] })
  ((s.setBit faultStatus 2).clearBit faultStatus 3).setFld faultStatus 11 8 stage

/-- R485, R561: the first proposal: the step that RESTORE named, else the last acknowledged one. -/
def State.proposeStep (s : State) : State :=
  { s with faults := { s.faults with propose := s.faults.named.getD (s.regN (ackReg 0)) } }

/-- R483, stage 1: writes ROLLBACK, stops every slot, and waits in stage 2. -/
def State.enterRollback (s : State) (worst : Nat) : State :=
  if s.inRollback 0 then s
  else
    let c := (s.job 0).committed
    let s := (s.inc (faultReg 0x30) 1).raiseError { code := 0x0B02, action := 4, step := c + 1, d5 := worst, d6 := c }
    s.beginRollback 2

/-- R487: a filler slot stops alone and restores its own last acknowledged step. -/
def State.rollbackFiller (s : State) (f : Nat) : State :=
  let s := (s.stopSlot f).updJob f (fun j => { j with admitted := false, wantAdmit := false })
  if s.restoring.isSome then { s with link := { s.link with restoreQueue := s.link.restoreQueue ++ [f] } }
  else s.openRestore f false (s.regN (ackReg f))

/-- R364: the job halts: LAYOUT_REFUSED is written and JOB_HALTED set, until the host restores a checkpoint. -/
def State.halt (s : State) (code : Nat) : State :=
  let s := s.raiseError { code := 0x0B03, action := 6, step := (s.job 0).committed, d5 := code }
  let s := ((s.stopSlot 0).stopFillers).updJob 0 (fun j => { j with halted := true })
  let s := (s.clearBit faultStatus 2).setFld faultStatus 11 8 0
  ((s.setBit gdStatus 2).raiseInt 6).refreshPins

/-! Leaving a job (R458, R489). -/

/-- The module becomes NON_MEMBER, without an agreed pace (R504); a quarantined one starts Flint. It keeps its rank until ranks are re-formed without it (R329). -/
def State.leaveJob (s : State) : State :=
  let s := [0, 1, 2, 3].foldl (fun s i =>
    (State.unloadCores (State.stopSlot s i) i).updJob i (fun j => { j with
      member := false, admitted := false, stopped := false, layoutPending := false, wantReshard := false })) s
  let s := ({ s with pace := { s.pace with agreed := none } }).refreshPace
  let s := (s.clearBit faultStatus 2).setFld faultStatus 11 8 0
  let s := ((s.setStage 9).setBit startStatus 5).setFld gdStatus 3 3 0
  let s := s.clearBit (denseReg 0) 3
  let s := ((s.refreshGuidon).raiseInt 6).announce
  if s.rfld faultStatus 4 4 = 1 then s.startFlint else s

end Sys2Proof.Machine
end

