-- ==== Sys2Proof/Machine/Boundary.lean ====
section
/-! DEFINITION. Hard boundaries (R35, R36, R363 to R367): proposed members, the check of a new layout, the permute, admission
(R430, R432, R461), and the end of a restore (R483). -/

namespace Sys2Proof.Machine

open Sys2Proof

/-! Proposals (R363). -/

/-- A module is in the adopted map. -/
def State.inMap (s : State) (serial : Nat) : Bool := (SMap.find? s.fabric.map serial).isSome

/-- A member is quarantined: this module by its own flag, another as it is known. -/
def State.quarantinedMember (s : State) (serial : Nat) : Bool :=
  if serial = s.fuses.serial then decide (s.rfld faultStatus 4 4 = 1) else Config.quarantined serial (s.job 0).committed

/-- R363: the members that stay. -/
def State.keptMembers (s : State) : List Nat := (s.job 0).members.filter (fun x => s.inMap x && !s.quarantinedMember x)

/-- R363: the modules of the map that the host has announced for growth and that are of the same build. -/
def State.newcomers (s : State) : List Nat :=
  s.link.grown.filter (fun x => s.inMap x && !(s.job 0).members.contains x &&
    decide (s.buildOf x = s.buildOf s.fuses.serial))

/-- R164, R363, R461, R485: the proposed member set, ascending: at admission every holder of a rank that is not refused for its build,
in a rollback no newcomer. -/
def State.proposal (s : State) : List Nat :=
  if s.stage = 7 then distinctUp (s.admitted.map (fun (e : Nat × Nat) => e.2))
  else if s.inRollback 0 then distinctUp s.keptMembers
  else distinctUp (s.keptMembers ++ s.newcomers)

/-- Table 12-5, section 13: the member-set digest. -/
def memberDigest (l : List Nat) : Nat := leNat ((sha512 (l.flatMap (leBytes 8))).take 16)

/-! The new layout (R364). -/

/-- The slots that have a job here. -/
def State.jobSlots (s : State) : List Nat := [0, 1, 2, 3].filter (fun i => (s.job i).member && !(s.job i).rejected)

/-- R364: the owner of each shard as a position among serials, none for a departing member. -/
def State.ownersIn (s : State) (slot : Nat) (serials : List Nat) : List (Option Nat) :=
  let j := s.job slot
  j.map.map (fun r =>
    let i := serials.findIdx (· == atD j.members (j.ranks.findIdx (· == r)) (2 ^ 64))
    if i < serials.length then some i else none)

/-- R362: the rebalanced map, by new position, which is the new rank. -/
def State.newMap (s : State) (slot : Nat) (serials : List Nat) : List Nat := rebalance serials.length (s.ownersIn slot serials)

/-- The state with the new layout in every slot, for its check. -/
def State.withLayout (s : State) (serials : List Nat) : State :=
  s.jobSlots.foldl (fun t i => State.updJob t i (fun j => { j with
    map := s.newMap i serials, ranks := List.range serials.length, members := serials
    position := serials.findIdx (· == s.fuses.serial) })) s

/-- R364, R369: the code of a change to new members, 0 where every slot passes; a permute also needs room to stage. -/
def State.changeCode (s : State) (serials : List Nat) (permute : Bool) : Nat :=
  let t := s.withLayout serials
  let n := serials.length
  let own := serials.findIdx (· == s.fuses.serial)
  firstCode (s.jobSlots.map (fun i => firstCode [
    s.membersCode i (s.job i).ranks.length n,
    if own < n then t.stepCode i n (mbShare (s.mbTotal i) n own) else 0,
    t.layoutCode (t.planOf i),
    if permute then t.stagingCode { slot := i, n := n, map := (s.ownersIn i serials).map (fun o => o.getD n) } (t.planOf i) else 0]))

/-! Running a slot from its prologue. -/

/-- R282, R284: the places and sizes of a slot's `auto` objects in the present layout: the declared ones with that hint, and the
firmware's spill pool and gradient spill areas, which carry no hint (R424). -/
def State.placeAuto (s : State) (slot : Nat) : State :=
  let l := (s.imageSections 0x25 slot).flatMap (fun x => (List.range (x.2.length / 16)).filterMap (fun i =>
    let id := fieldAt x.2 (16 * i) 4
    if s.hint slot id = 2 then some (s.objectBase slot id (s.memberCount slot), fieldAt x.2 (16 * i + 8) 6) else none))
  let base := fun (id : Nat) => s.objectBase slot id (s.memberCount slot)
  let own := (base 0x80020000, s.jobCfg slot 0x830F 0) :: (List.range 256).map (fun c => (base (0x80030000 + c), s.jobCfg slot 0x8409 0))
  { s with slate := { s.slate with auto := SMap.put s.slate.auto slot (l ++ own) } }

/-- R51: the slot's tables are loaded, and its cores begin with the prologue of the step after `c`. -/
def State.runSlot (s : State) (slot c : Nat) : State :=
  let s := s.placeAuto slot
  ((((s.loadTables slot).restartCores slot c).writeScales slot).signalIngest slot)

/-! Admission (R430, R432). -/

/-- R430: the job-scope check of a slot. -/
def State.scopeReject (s : State) (slot : Nat) : Option Reject :=
  match s.image with
  | none => none
  | some b =>
    let img := s.imageBytes b.slot 0 (fieldAt b.header 0x10 8)
    match moduleScope img b.sections with
    | .error e => some e
    | .ok c => match jobScope img b.sections slot c with | .error e => some e | .ok _ => none

/-- R430: why a slot is not admitted, if it is not. -/
def State.admissionReject (s : State) (slot : Nat) : Option Reject :=
  match s.scopeReject slot with
  | some e => some e
  | none =>
    let j := s.job slot
    let n := j.ranks.length
    let code := firstCode [
      s.stepCode slot n j.mbCount,
      need (decide (j.committed ≠ 0) || s.imageMapOk slot j.ranks) 0x040B,
      need (decide (s.jobCfg slot 0x801 1 ≤ n) && decide (n ≤ s.shards slot)) 0x0504,
      need (decide ((s.recipeTensors slot).length ≤ 1024) && decide ((s.histTensors slot).length ≤ 64)) 0x0308,
      s.layoutCode (s.planOf slot)]
    if code = 0 then none else some { code := code, slot := slot }

/-- R269: 1 − β1 and 1 − β2 of `dense.beta1` and `dense.beta2`, rounded once, as admission computes them. -/
def State.denseOmb (s : State) (slot : Nat) : W32 × W32 :=
  (oneMinus (BitVec.ofNat 32 (s.jobCfg slot 0x850B 0x3F666666)), oneMinus (BitVec.ofNat 32 (s.jobCfg slot 0x850C 0x3F7FBE77)))

/-- R269, R430 to R432: admits a slot at its restored step, with ATTEMPT 0 (R340), or rejects it. -/
def State.admitSlot (s : State) (slot : Nat) : State :=
  let s := s.updJob slot (fun j => { j with wantAdmit := false })
  match s.admissionReject slot with
  | some e =>
    let s := (s.reject e ((s.image.map (·.slot)).getD 0)).setBit (imgReg 0) (20 + slot)
    s.updJob slot (fun j => { j with rejected := true, member := false })
  | none =>
    let s := (s.updJob slot (fun j => { j with
      admitted := true, stopped := false, attempt := 0, omb1 := (s.denseOmb slot).1, omb2 := (s.denseOmb slot).2 })).setBit (imgReg 0) (16 + slot)
    s.runSlot slot (s.job slot).committed

/-- R432: admits the filler slots whose restore is checked. -/
def State.admitFillers (s : State) : State :=
  if !(s.job 0).admitted then s
  else ([1, 2, 3].filter (fun i => (s.job i).wantAdmit)).foldl State.admitSlot s

/-- R188: LAPSED shows the lapse flag of the committed job state, and LAPSE_STEP is 0 while it is clear. -/
def State.refreshLapse (s : State) : State :=
  let l := (s.job 0).member && (s.job 0).num.lapsed
  let s := s.setFld (numReg 0) 0 0 (if l then 1 else 0)
  if l then s else s.setReg (numReg 0x10) 0

/-- The host's registers after the primary's layout or steps change. -/
def State.refreshJob (s : State) : State :=
  let s := s.refreshLapse
  let s := s.setFld (denseReg 0) 3 3 (if s.mirrorActive 0 then 1 else 0)
  ((s.refreshGuidon.refreshExport).refreshIngest).announce

/-- R432, R461: the admission round is all-ok: the primary runs, or the module is a member of no job. -/
def State.admitJob (s : State) : State :=
  let s := s.admitSlot 0
  if (s.job 0).rejected then s.leaveJob
  else (((s.setStage 8).clearBit startStatus 5).admitFillers.refreshJob).raiseInt 6

/-! Rollback: layout and resumption (R483, stages 4 and 6). -/

/-- Stage 4: ranks, members, maps and slices over the agreed set; the outcome of the check enters the vote (R364). -/
def State.formLayout (s : State) : State :=
  let serials := (s.job 0).proposal
  let code := s.changeCode serials false
  let slots := s.jobSlots
  let same := decide (distinctUp (s.job 0).members = serials)
  let maps := slots.map (fun i => s.newMap i serials)
  let s := ((s.reformRanks serials).computeRoutes).announce
  let s := (slots.zip maps).foldl (fun s x =>
    let s := State.formJob s x.1 (List.range serials.length)
    let s := s.updJob x.1 (fun j => { j with map := x.2, layoutStep := if same then j.layoutStep else j.committed + 1 })
    s.formSlices x.1) s
  let s := s.setFld faultStatus 11 8 4
  if code = 0 then s else s.voteCause 0 0x4001

/-- Stage 5: the agreed step is restored, the fillers their own acknowledged steps after it (R487). -/
def State.restoreAgreed (s : State) : State :=
  let s := { s with faults := { s.faults with named := none }
                    link := { s.link with restoreQueue := s.jobSlots.filter (· ≠ 0) } }
  (s.setFld faultStatus 11 8 5).openRestore 0 false s.faults.propose

/-- Stage 6: the attempt becomes 0 and the step after the restored one runs. -/
def State.resume (s : State) : State :=
  let c := (s.job 0).committed
  let s := (s.clearBit faultStatus 2).setFld faultStatus 11 8 0
  let s := s.updJob 0 (fun j => { j with
    attempt := 0, stopped := false, halted := false, rounds := [], proposal := [], layoutStep := min j.layoutStep c })
  ((s.runSlot 0 c).admitFillers).refreshJob

/-! The permute (R365). -/

/-- An item of a permute: its kind, two key words as in Table 13-9, its bytes and the serials of its new holders. -/
structure PermuteItem where
  obj : Nat := 1
  a : Nat := 0
  b : Nat := 0
  bytes : List Byte := []
  dests : List Nat := []
  deriving DecidableEq, Repr

/-- Reads the bytes of an item; what cannot be read is lost (R559). -/
def State.readItem (s : State) (slot addr n : Nat) (x : PermuteItem) : List PermuteItem × State :=
  let m := s.memRead { cls := 4, unit := 13, slot := slot } addr n
  match m.bytes with
  | some bs => ([{ x with bytes := bs }], m.st)
  | none => ([], m.st.inputsLost 0x0301 13 0 slot (s.job slot).committed 0 0 0 addr)

/-- Reads items one after another. -/
def State.readItems (s : State) (slot : Nat) (l : List (Nat × Nat × PermuteItem)) : List PermuteItem × State :=
  l.foldl (fun acc x =>
    let r := State.readItem acc.2 slot x.1 x.2.1 x.2.2
    (acc.1 ++ r.1, r.2)) ([], s)

/-- The row and default-row records of the own shards with their new owners. -/
def State.rowItems (s : State) (slot : Nat) (serials : List Nat) : List (Nat × Nat × PermuteItem) :=
  let map := s.newMap slot serials
  (s.ownShards slot).flatMap (fun x => (s.shardKeys slot x).map (fun k =>
    (s.recordAddr slot k, (s.recLayout slot k.table).size,
     { obj := if k.row = defaultRow then 2 else 1, a := rowNeed k, b := rowWord k, dests := [atD serials (atD map x 0) 0] })))

/-- R252, R253: the serials that hold a slice among members. -/
def State.sliceHolders (s : State) (slot g : Nat) (serials : List Nat) : List Nat :=
  let n := serials.length
  atD serials (g % n) 0 :: (if s.mirrorAt slot n then [atD serials ((g + cdiv n 2) % n) 0] else [])

/-- The parts of the owned slices that change owner or mirror, from buffer c mod 2. -/
def State.sliceItems (s : State) (slot : Nat) (serials : List Nat) : List (Nat × Nat × PermuteItem) :=
  let j := s.job slot
  (j.slices.filter (fun (x : Nat × SliceState) => !x.2.mirror)).flatMap (fun x =>
    let dests := (s.sliceHolders slot x.1 serials).filter (fun d => !(s.sliceHolders slot x.1 j.members).contains d)
    if dests.isEmpty then []
    else (List.range (1 + s.denseMoments slot)).map (fun p =>
      (s.densePage slot x.1 (j.committed % 2) p, 4 * s.sliceElems slot x.2.tensor x.2.index,
       { obj := 3, a := x.2.tensor + p * 2 ^ 16, b := x.2.index, dests := dests })))

/-- R365: the pieces of an item as PERMUTE messages: offset and body. -/
def PermuteItem.pieces (x : PermuteItem) : List (Nat × List Word) :=
  (List.range (cdiv x.bytes.length 2048)).map (fun i =>
    (2048 * i, [BitVec.ofNat 64 x.a, BitVec.ofNat 64 x.b] ++ bytesWords ((x.bytes.drop (2048 * i)).take 2048)))

/-- Sends one module its items and their COUNT; the own ones are staged. -/
def State.sendItems (s : State) (slot : Nat) (items : List PermuteItem) (serial : Nat) : State :=
  let ps := (items.filter (fun x => x.dests.contains serial)).flatMap (fun x => x.pieces.map (fun p => (x.obj, p.1, p.2)))
  if serial = s.fuses.serial then
    s.updJob slot (fun j => { j with permuteStage := j.permuteStage ++ ps, permuteCounts := j.permuteCounts ++ [ps.length] })
  else
    let c := (s.job slot).committed
    let r := (s.rankOfSerial serial).getD 0
    let s := ps.foldl (fun s p =>
      (State.sendTo s 0x20 slot r c 0 p.1 p.2.1 p.2.2).inc (xuReg 0x78) (8 * p.2.2.length)) s
    s.sendTo 2 slot r c 0 0 0 [BitVec.ofNat 64 ps.length]

/-- R365: every slot's items leave under the old layout, over the ranks of the new one. -/
def State.startPermute (s : State) : State :=
  let serials := (s.job 0).proposal
  let slots := s.jobSlots
  let stay := serials.contains s.fuses.serial
  let got := slots.foldl (fun (acc : List (Nat × List PermuteItem) × State) i =>
    let r := acc.2.readItems i (acc.2.rowItems i serials ++ acc.2.sliceItems i serials)
    (acc.1 ++ [(i, r.1)], r.2)) ([], s)
  let s := ((got.2.reformRanks serials).computeRoutes).announce
  let s := got.1.foldl (fun s x =>
    let s := State.updJob s x.1 (fun j => { j with
      permuting := true, layoutPending := false, proposal := serials, permuteSenders := if stay then j.ranks.length else 0 })
    serials.foldl (fun s d => State.sendItems s x.1 x.2 d) s) s
  s.setBit gdStatus 3

/-- PERMUTE (R365): an item's piece arrives and is staged by its key. -/
def execPermute (m : Message) (s : State) : Res :=
  .next (s.sink 0x20 m (fun s =>
    s.updJob m.slot (fun j => { j with permuteStage := j.permuteStage ++ [(m.object, m.offset, m.body)] })))

/-- Writes a staged piece at its address of the new layout. -/
def State.placePiece (s : State) (slot : Nat) (x : Nat × Nat × List Word) : State :=
  let a := (atD x.2.2 0 0).toNat
  let b := (atD x.2.2 1 0).toNat
  let bs := wordsBytes (x.2.2.drop 2)
  let who : Asker := { cls := 4, unit := 13, slot := slot }
  if x.1 = 3 then
    match List.find? (fun (y : Nat × SliceState) => decide (y.2.tensor = a % 2 ^ 16) && decide (y.2.index = b)) (s.job slot).slices with
    | none => s
    | some y => (s.memWrite who (s.densePage slot y.1 ((s.job slot).committed % 2) (a / 2 ^ 16) + x.2.1) bs).2
  else
    let k := s.keyOf slot (a % 1024) (if x.1 = 2 then defaultRow else b)
    (s.memWrite who (s.recordAddr slot k + x.2.1) bs).2

/-- R256, R365: a slice that came has its working copy formed and its stamp set. -/
def State.loadSlice (s : State) (slot c : Nat) (g : Nat) (x : SliceState) : State :=
  let n := s.sliceElems slot x.tensor x.index
  let bs := Mem.bytes s.mem (s.densePage slot g (c % 2) 0) (4 * n)
  let s := (s.memWrite { cls := 4, unit := 13, slot := slot } (s.densePage slot g (c % 2) 3)
    (workImage (s.workFmt slot x.tensor) (s.e5m2Inf slot) (bytesW32 n bs))).2
  s.updJob slot (fun j => { j with slices := SMap.upd j.slices g {} (fun y =>
    if c % 2 = 0 then { y with stamp0 := c % 2 ^ 32 } else { y with stamp1 := c % 2 ^ 32 }) })

/-- The slices that came in a stage. -/
def State.loadSlices (s : State) (slot c : Nat) (stage : List (Nat × Nat × List Word)) : State :=
  let came := fun (x : SliceState) => stage.any (fun p =>
    decide (p.1 = 3) && decide ((atD p.2.2 0 0).toNat = x.tensor) && decide ((atD p.2.2 1 0).toNat = x.index))
  ((s.job slot).slices.filter (fun (x : Nat × SliceState) => came x.2)).foldl (fun s x => State.loadSlice s slot c x.1 x.2) s

/-- Landed frames of microbatches that are still the module's own move to their landing places; the others are dropped. -/
def State.landAgain (s : State) (slot : Nat) : State :=
  let j := s.job slot
  let own := j.landed.filter (fun (x : Nat × List Byte) => match s.framePlace slot x.1 with
    | some p => decide (p.mb % j.ranks.length = j.position)
    | none => false)
  let s := own.foldl (fun s x => match State.framePlace s slot x.1 with
    | some p => (State.memWrite s (hlAsker slot) (State.landingAddr s slot p) x.2).2
    | none => s) s
  s.updJob slot (fun j => { j with landed := own })

/-- R365, R367: every item of a slot is sent and received. -/
def JobSlot.permuted (j : JobSlot) : Bool :=
  j.permuting && decide (j.permuteCounts.length = j.permuteSenders) && decide (j.permuteStage.length = j.permuteCounts.foldl (· + ·) 0)

/-- R365, R367: the slot takes up its new layout. Its uncommitted work and its tokens are cleared, and its cores run the prologue of
the next step again, as R51 has them do after an admission or a rollback (DESIGN CHOICE, log entry 147: no rule names a permute). -/
def State.finishPermute (s : State) (slot : Nat) : State :=
  let j := s.job slot
  let c := j.committed
  let map := s.newMap slot j.proposal
  let s := (s.discardFrom slot (c + 1)).formJob slot (List.range j.proposal.length)
  let s := s.updJob slot (fun j => { j with
    map := map, permuting := false, permuteCounts := [], permuteStage := [], proposal := [], layoutStep := c, mapDue := true })
  let s := s.formSlices slot
  let s := j.permuteStage.foldl (fun s p => State.placePiece s slot p) s
  let s := ((s.loadSlices slot c j.permuteStage).landAgain slot).runSlot slot c
  if (List.range 4).any (fun i => (s.job i).permuting) then s else s.clearBit gdStatus 3

/-- R35: the boundary after the committed step of the primary is over. -/
def State.closeBoundary (s : State) (n : Nat) : State :=
  let bits_ := (s.job 0).hardBits
  let s := s.updJob 0 (fun j => { j with closedStep := n, hardBits := 0, closingRepeats := 0 })
  let s := if bits bits_ 2 2 = 1 then s.admitFillers else s
  s.releaseRequests 0

/-- PERMUTE_COMPLETE (R365, R367): with all items sent and received, kept and staged items go to their places and the next step
begins in the new layout; a module that departs leaves the job. -/
def execPermuteComplete (sl : SlotId) (s : State) : Res :=
  .next (
    let j := s.job sl.val
    if !j.permuted then s
    else if !j.proposal.contains s.fuses.serial then s.leaveJob
    else
      let s := s.finishPermute sl.val
      if sl.val ≠ 0 then s
      else
        let s := ({ s with link := { s.link with grown := [] } }).updJob 0 (fun j => { j with wantReshard := false })
        (s.closeBoundary j.committed).refreshJob)

end Sys2Proof.Machine
end

