-- ==== Sys2Proof/Machine/Results.lean ====
section
/-! DEFINITION. What the result of a Guidon round does (R26, R27, R36, R37, R356, R358, R477 to R487): step rounds, closing rounds,
rollback rounds, and rounds without a result (R359). -/

namespace Sys2Proof.Machine

open Sys2Proof

/-! The result registers. -/

/-- GD_ROUNDS, GD_NOT_OK and LAST_NOT_OK follow a result. -/
def State.countRound (s : State) (ok : Bool) : State :=
  let s := s.inc (xuReg 0x58) 1
  if ok then s.clearBit gdStatus 1 else (s.inc (xuReg 0x60) 1).setBit gdStatus 1

/-- R358: the agreed pace of a step round is adopted. -/
def State.adoptPace (s : State) (t : SMap (List Byte)) : State :=
  let p := resultField t 1 0 8
  (({ s with pace := { s.pace with agreed := some p } }).setReg (xuReg 0x70) (BitVec.ofNat 64 p)).refreshPace

/-! Step rounds. -/

/-- The slices that a slot exports: those it owns (R253). -/
def State.ownedSlices (s : State) (slot : Nat) : List Nat :=
  ((s.job slot).slices.filter (fun (x : Nat × SliceState) => !x.2.mirror)).map (fun (x : Nat × SliceState) => x.1)

/-- R26, R31: the all-ok result of step `n` of a slot with its agreed record: phase 9 may begin, the next step's requests
leave, and the statistics are in force. -/
def State.stepOk (s : State) (slot n : Nat) (t : SMap (List Byte)) : State :=
  let owned := s.ownedSlices slot
  let due := (s.job slot).exp.sweeps.any (fun x => decide (x.1 < n))
  let s := s.updJob slot (fun j => { j with
    okStep := n, reexecs := [], retries := 0, exp := { j.exp with dense := j.exp.dense ++ owned.map (fun g => (n, g)) } })
  let s := if due then s.inc (expReg 0x58) 1 else s
  (s.takeStats slot n t).releaseRequests slot

/-- R36, R490: the request bits of an all-ok result make the boundary hard; a refused shrink is asked for again. -/
def State.takeRequests (s : State) (n bits_ : Nat) : State :=
  if bits_ = 0 then s
  else
    let again := decide (s.rfld faultStatus 5 5 = 1)
    s.updJob 0 (fun j => { j with hardStep := some n, hardBits := bits_, wantReshard := j.wantReshard || again })

/-- R340, R477: a filler slot retries its step in a new attempt. -/
def State.fillerRetry (s : State) (f cause : Nat) : State :=
  let n := (s.job f).committed + 1
  let r := (s.job f).retries + 1
  (((s.nextAttempt f).countRetry f n cause r).updJob f (fun j => { j with retries := r })).rerunStep f n

/-- R40: a filler step that was ready on every member commits with its agreed record, once both are known; members whose gathered
copies differ retry it. -/
def State.fillerDone (s : State) (f : Nat) : State :=
  let j := s.job f
  match j.fillRecord with
  | none => s
  | some t =>
    if !j.fillPassed then s
    else
      let s := s.updJob f (fun j => { j with fillRecord := none, fillPassed := false })
      if splitSection t 5 8 then s.fillerRetry f 0x1001 else s.stepOk f j.voted t

/-- R40, R356, R487: the entry of a filler slot in a result: it commits, retries or restores; one that is not ready on every
member votes again. -/
def State.fillerResult (s : State) (f e : Nat) : State :=
  let cause := e / 2 % 2 ^ 15
  if 0x3000 ≤ cause then s.rollbackFiller f
  else if cause ≠ 0 then s.fillerRetry f cause
  else if e % 2 = 1 && (s.job f).ready then (s.updJob f (fun j => { j with fillPassed := true })).fillerDone f
  else s

/-- The agreed record of a filler's step is here. -/
def State.takeFillerRecord (s : State) (f : Nat) (t : SMap (List Byte)) : State :=
  (s.updJob f (fun j => { j with fillRecord := some t })).fillerDone f

/-- The entries of the filler slots in a result. -/
def State.fillerResults (s : State) (t : SMap (List Byte)) : State :=
  let fs := s.fillers
  (fs.zip (List.range fs.length)).foldl (fun s x => State.fillerResult s x.1 (resultField t 12 (8 * x.2) 8)) s

/-- R273: a disagreement of the gathered-copy digests is recorded. -/
def State.gatherMismatch (s : State) (n : Nat) (t : SMap (List Byte)) : State :=
  if splitSection t 5 8 then
    (s.setBit (denseReg 0) 2).raiseError { code := 0x0A01, action := 3, step := n, phase := 8, d5 := (s.job 0).num.gatherVoted,
                                           d6 := resultField t 5 0 8, d7 := resultField t 5 8 8 }
  else s

/-- R477, R478, R481, R483: a step result that is not all-ok: a retry, audited after DENSE_DIGEST, or a rollback. -/
def State.stepNotOk (s : State) (n w : Nat) (t : SMap (List Byte)) : State :=
  let s := (s.gatherMismatch n t).nextAttempt 0
  let r := (s.job 0).retries
  if 0x3000 ≤ w || s.retryLimit ≤ r then s.enterRollback w
  else
    let s := (s.updJob 0 (fun j => { j with retries := r + 1 })).countRetry 0 n w (r + 1)
    (if w = 0x1001 then s.audit 0 n else s).rerunStep 0 n

/-- R356: the result of the primary's step round. -/
def State.applyStep (s : State) (t : SMap (List Byte)) : State :=
  let n := (s.job 0).voted
  let w := worstCause t
  let s := (s.countRound (decide (w = 0))).adoptPace t
  let s := s.fillerResults t
  if w = 0 then (s.stepOk 0 n t).takeRequests n (resultField t 2 0 8 % 8) else s.stepNotOk n w t

/-! Closing rounds. -/

/-- R35: an all-ok closing round of a running slot at step `n`. -/
def State.closingOk (s : State) (slot n : Nat) : State :=
  let s := s.updJob slot (fun j => { j with
    mirrorTries := 0, num := { j.num with ownDigest := none, partnerDigest := none } })
  let j := s.job slot
  if slot ≠ 0 || j.hardStep ≠ some n then s.updJob slot (fun j => { j with closedStep := n })
  else if j.layoutPending then s.startPermute
  else if bits j.hardBits 1 1 = 1 then (s.beginRollback 3).proposeStep
  else if bits j.hardBits 0 0 = 1 then
    let code := s.changeCode j.proposal true
    s.updJob 0 (fun j => { j with layoutPending := true, cause := if code = 0 then j.cause else max j.cause 0x4001 })
  else (s.closeBoundary n).refreshJob

/-- R364, R490: the new layout is refused: the job keeps its old one, or halts where an old member has gone. -/
def State.refuseLayout (s : State) (n : Nat) : State :=
  let code := s.changeCode (s.job 0).proposal true
  if (s.job 0).members.any (fun x => !s.inMap x) then s.halt code
  else
    let s := s.updJob 0 (fun j => { j with layoutPending := false, proposal := [], cause := if j.cause = 0x4001 then 0 else j.cause, wantReshard := false })
    let s := if s.rfld faultStatus 4 4 = 1 then
        (s.raiseError { code := 0x0B06, action := 0, step := n, d5 := s.jobCfg 0 0x800 3, d6 := s.jobCfg 0 0x801 1 }).setBit faultStatus 5
      else s
    s.closeBoundary n

/-- R482: on MIRROR_DIGEST each voter, and each module whose partner is the first failing rank, takes a strike; phase 9's dense
kernels run again, and a second mismatch rolls back. -/
def State.mirrorRetry (s : State) (slot n : Nat) (t : SMap (List Byte)) : State :=
  let j := s.job slot
  let s := if j.mirrorBad || s.rankOf slot (s.mirrorPos slot) = failingRank t then s.strike 0x0A02 else s
  if 1 ≤ j.mirrorTries then (if slot = 0 then s.enterRollback 0x1002 else s.rollbackFiller slot)
  else
    (s.countRetry slot n 0x1002 (j.mirrorTries + 1)).updJob slot (fun j => { j with
      mirrorTries := j.mirrorTries + 1, reexecPhase := 9, replay := none, mirrorBad := false
      num := { j.num with ownDigest := none, partnerDigest := none } })

/-- R479: the closing round runs again, up to the limit. -/
def State.closingAgain (s : State) (slot n w : Nat) : State :=
  let r := (s.job slot).closingRepeats
  if s.retryLimit ≤ r then (if slot = 0 then s.enterRollback w else s.rollbackFiller slot)
  else (s.countRetry slot n w (r + 1)).updJob slot (fun j => { j with closingRepeats := r + 1 })

/-- R479: a closing round of step `n` that is not all-ok; what step `n` computed stays. -/
def State.closingNotOk (s : State) (slot n w : Nat) (t : SMap (List Byte)) : State :=
  let s := s.nextAttempt slot
  let j := s.job slot
  if w = 0x4001 && slot = 0 then s.refuseLayout n
  else if 0x3000 ≤ w then (if slot = 0 then s.enterRollback w else s.rollbackFiller slot)
  else if w = 0x1002 then s.mirrorRetry slot n t
  else if w = 0x2002 && slot = 0 && j.hardStep = some n && bits j.hardBits 0 0 = 1 then
    (s.updJob 0 (fun j => { j with layoutPending := false, proposal := [] })).closeBoundary n
  else s.closingAgain slot n w

/-- R461: the result of the admission round; a split runs again over the present map. -/
def State.admissionResult (s : State) (w : Nat) : State :=
  if w = 0 then s.admitJob
  else (s.nextAttempt 0).countRetry 0 (s.job 0).committed w 1

/-- R364, R483, R485, R486: the result of a round in stages 3 to 6 of a rollback. -/
def State.rollbackResult (s : State) (w : Nat) : State :=
  match s.rfld faultStatus 11 8 with
  | 3 => if w = 0 then s.formLayout else s
  | 4 =>
    if w = 0 then s.restoreAgreed
    else if w = 0x4001 then s.halt (s.changeCode (s.job 0).proposal false)
    else s
  | 6 => if w = 0 then s.resume else s
  | _ => s

/-- R354, R356: the result of a closing round. -/
def State.applyClosing (s : State) (slot : Nat) (t : SMap (List Byte)) : State :=
  let w := worstCause t
  let s := s.countRound (decide (w = 0))
  let n := (s.job slot).okStep
  if slot = 0 && s.stage = 7 then s.admissionResult w
  else if slot = 0 && s.inRollback 0 then s.rollbackResult w
  else if w = 0 then s.closingOk slot n
  else s.closingNotOk slot n w t

/-- R356: the result of a round. -/
def State.applyResult (slot : Nat) (s : State) (r : Round) (t : SMap (List Byte)) : State :=
  if r.closing then s.applyClosing slot t else if slot = 0 then s.applyStep t else s.takeFillerRecord slot t

/-- VOTE_UP (R350, R355, R485): a child's fragment joins its round. -/
def execVoteUp (m : Message) (s : State) : Res :=
  .next (s.sink 0x18 m (fun s => s.takeVote m (State.applyResult m.slot)))

/-- RESULT_DOWN (R350, R356): a result's fragment is forwarded, and the whole result takes effect. -/
def execResultDown (m : Message) (s : State) : Res :=
  .next (s.sink 0x19 m (fun s => s.takeRoundResult m (State.applyResult m.slot)))

/-! Rounds without a result. -/

/-- A round of a slot that this module has joined and that R359 times; a filler's record waits until its step is ready everywhere. -/
def State.timedRound (s : State) (slot : Nat) : Option Round :=
  if s.stage = 7 || s.inRollback slot then none else (s.job slot).rounds.find? (fun r => r.own.isSome && (decide (slot = 0) || r.closing))

/-- VOTE_TIMEOUT (R359): a joined round has had no result in time: it is not all-ok with VOTE_TIMEOUT, a new attempt begins
(R340) and the member rolls back. The admission round and rollback rounds wait without limit. -/
def execVoteTimeout (sl : SlotId) (s : State) : Res :=
  .next (match s.timedRound sl.val with
  | none => s
  | some r =>
    let n := if r.closing then (s.job sl.val).okStep else (s.job sl.val).voted
    let s := (((s.dropRound sl.val r).inc (xuReg 0x68) 1).inc (xuReg 0x60) 1).setBit gdStatus 1
    let s := s.raiseError { code := 0x0409, slot := sl.val, action := 4, step := n, phase := 8, d5 := if r.closing then 1 else 0, d6 := n }
    let s := s.nextAttempt sl.val
    if sl.val = 0 then s.enterRollback 0x3002 else s.rollbackFiller sl.val)

end Sys2Proof.Machine
end

