-- ==== Sys2Proof/Machine/Votes.lean ====
section
/-! DEFINITION. Votes cast (R25, R30, R35, R354, R461, R475, R485, R559), hold notices (R360), and the stages of a rollback that
time ends (R483, R486). -/

namespace Sys2Proof.Machine

open Sys2Proof

/-! Hold notices (R360). -/

/-- The body of a notice: cause and lowest rank. -/
def holdBody (cause low : Nat) : List Word := [BitVec.ofNat 64 (cause % 16 + low % 4096 * 2 ^ 16)]

/-- The TAG and step of the round that a hold of a cause holds back. -/
def State.heldRound (s : State) (slot cause : Nat) : Nat × Nat :=
  if cause = 2 then (1, (s.job slot).okStep) else (0, (s.job slot).voted + 1)

/-- Sends HOLD_DOWN to the children. -/
def State.holdToKids (s : State) (slot tag step cause low : Nat) : State :=
  (s.treeDown (s.job slot).ranks).foldl (fun s k => State.sendTo s 0x1C slot k step tag 0 0 (holdBody cause low)) s

/-- R360, steps 1 to 3: one notice goes to the parent, or at position 0 one answer goes down. -/
def State.tellHold (s : State) (slot tag step cause low : Nat) : State :=
  let s := s.updJob slot (fun j => { j with holdFwd := true })
  match s.treeUp (s.job slot).ranks with
  | some p => (s.sendTo 0x1B slot p step tag 0 0 (holdBody cause low)).inc (xuReg 0x80) 1
  | none => s.holdToKids slot tag step cause low

/-- The own hold of a slot with its notice. -/
def State.tellOwn (s : State) (slot cause : Nat) : State :=
  let j := s.job slot
  let r := s.heldRound slot cause
  s.tellHold slot r.1 r.2 (max cause j.holdCause) (min s.ownRank j.holdLow)

/-- A hold begins. -/
def State.beginHold (s : State) (slot cause : Nat) : State :=
  if (s.job slot).held then s
  else (s.updJob slot (fun j => { j with held := true, holdCause := cause, holdLow := s.ownRank })).tellOwn slot cause

/-- A hold is over. -/
def State.endHold (s : State) (slot : Nat) : State := s.updJob slot (fun j => { j with held := false, holdCause := 0, holdLow := 0 })

/-- R360: a core holds a primary entry that waits on T24. -/
def State.ingestHeld (s : State) (c slot : Nat) : Bool :=
  ((s.core c).slot slot).queues.any (fun q => match q.2.head? with
    | some e => (tokenList e.entry.waitA e.entry.waitB).contains 24 && decide (((s.core c).slot slot).token 24 = 0)
    | none => false)

/-! Step votes (R25, R30). -/

/-- An entry of phase 6 or 7 of a step. -/
def exchangeEntry (step : Nat) (q : QEntry) : Bool :=
  decide (q.step = step) && !q.entry.next && (decide (q.entry.phase = 6) || decide (q.entry.phase = 7))

/-- R25: a core has nothing of phases 6 and 7 of a step left to dispatch, to start or to complete. -/
def State.coreExchanged (s : State) (c slot step : Nat) : Bool :=
  let cs := (s.core c).slot slot
  let left := fun (p : Nat) => s.phaseEntries c slot p step none (2 ^ 48) cs
  (decide (step < cs.iter) || (decide (cs.iter = step) && (left 6).isEmpty && (left 7).isEmpty)) &&
  cs.queues.all (fun q => !q.2.any (exchangeEntry step)) &&
  (s.core c).units.all (fun u => !u.2.running.any (fun r => decide (r.slot = slot) && exchangeEntry step r.q))

/-- R25: phases 6 and 7 of a step are complete on the module. -/
def State.exchanged (s : State) (slot step : Nat) : Bool :=
  (s.loadedCores slot).all (fun c => s.coreExchanged c slot step) && s.round6Done slot step &&
  s.collectives.all (fun k => decide (k.slot ≠ slot) || decide (k.step ≠ step) || k.done)

/-- The slot may join a step round: its job runs, its last vote has had its result, and no phase is being re-executed. -/
def State.mayVote (s : State) (slot : Nat) : Bool :=
  let j := s.job slot
  let n := j.voted + 1
  j.member && j.admitted && !j.stopped && !j.halted && !j.permuting && decide (j.reexecPhase = 0) && decide (j.okStep = j.voted) &&
  (s.stage = 8 || (s.stage = 11 && decide (n ≤ s.start.shutdown))) &&
  (match j.hardStep with | some h => decide (h ≤ j.closedStep) || decide (n ≤ h) | none => true)

/-- R25, R475: the vote of the next step could be cast but for the export window. -/
def State.voteReady (s : State) (slot : Nat) : Bool :=
  let j := s.job slot
  decide (j.committed = j.voted) && (decide (j.cause ≠ 0) || s.exchanged slot (j.voted + 1))

/-- R30: the export window holds a vote. -/
def State.windowHolds (s : State) (slot : Nat) : Bool := decide (s.exportWindow ≤ s.unacked slot)

/-- A slot casts its step vote: the gathered-copy digest is closed (R273), PG_SUSTAINABLE_PACE shows the pace of section 1 (R358,
Table 17-9), and the record goes up, a filler's in a round of its slot. -/
def State.castStep (s : State) (slot : Nat) : State :=
  let n := (s.job slot).voted + 1
  let s := s.endHold slot
  let s := s.updJob slot (fun j => { j with
    voted := n, num := { j.num with gatherVoted := j.num.gatherDigest, gatherDigest := 0 } })
  let s := if slot = 0 then
      (s.setReg (denseReg 0x50) (BitVec.ofNat 64 (s.job 0).num.gatherVoted)).setReg (pgReg 0x10) (BitVec.ofNat 64 (min s.sustainablePace s.paceCeiling))
    else s
  let nan := (s.clipValues slot).any isNan32 && s.fastFloat slot
  let f := s.free
  let s := if nan then f.2 else s
  let q := if nan then f.1 % 2 ^ 128 else s.sumSquares slot n
  let r := { s.roundOf slot { step := n } with step := n, own := some (s.voteRecord slot q) }
  s.advanceRound slot r (State.applyResult slot)

/-- GUIDON_VOTE (R25, R30, R40, R475, R559): the slot votes its next step; a filler slot's vote rides the primary's rounds. -/
def execGuidonVote (sl : SlotId) (s : State) : Res :=
  .next (
    let j := s.job sl.val
    if !s.mayVote sl.val then s
    else if 0x3000 ≤ j.cause || (s.voteReady sl.val && !s.windowHolds sl.val) then
      s.castStep sl.val
    else if sl.val = 0 && s.voteReady 0 then s.beginHold 0 1
    else s)

/-! Closing votes (R35, R354). -/

/-- The record of a closing round: the cause, and at a hard boundary the member-set digest. -/
def State.closingRecord (s : State) (slot cause : Nat) (r : Round) : SMap (List Byte) :=
  let d := leBytes 16 (memberDigest (s.job slot).proposal)
  [(0, leBytes 8 (statusWord cause s.ownRank (if cause = 0 then 0 else 1)))] ++
  (if (s.roundSections slot r).length = 2 then [(13, d ++ d)] else [])

/-- Casts a closing vote of a step. -/
def State.castClosing (s : State) (slot step cause : Nat) : State :=
  let r := s.roundOf slot { closing := true, step := step }
  if r.own.isSome then s
  else
    let s := s.endHold slot
    let r := { r with step := step }
    s.advanceRound slot { r with own := some (s.closingRecord slot cause r) } (State.applyResult slot)

/-- R485: joins a rollback round with the own proposal; a child's lower proposal is adopted. -/
def State.castRollback (s : State) : State :=
  let r := s.roundOf 0 { closing := true, rollback := true, step := s.faults.propose }
  if r.own.isSome then s
  else
    let s := s.updJob 0 (fun j => { j with proposal := s.proposal })
    if !(s.job 0).proposal.contains s.fuses.serial then ((s.reformRanks (s.job 0).proposal).computeRoutes).leaveJob
    else
      let r := { r with step := s.faults.propose }
      let r := { r with own := some (s.closingRecord 0 0 r) }
      let x := r.kids.foldl (fun (acc : State × Round) k =>
        acc.1.adoptLower 0 acc.2 (fieldAt (SMap.getD k.2 stepMark []) 0 8)) (s, r)
      x.1.advanceRound 0 x.2 (State.applyResult 0)

/-- The cause of a closing vote: a mirror mismatch (R274) or what else the slot has; an abort of the step after it is no matter of
this round. -/
def JobSlot.closingCause (j : JobSlot) : Nat :=
  max (if j.mirrorBad then 0x1002 else 0) (if j.cause = 0x2001 then 0 else j.cause)

/-- R354: a running slot owes the closing round of its last all-ok step. -/
def State.closingDue (s : State) (slot : Nat) : Bool :=
  let j := s.job slot
  j.member && j.admitted && !j.stopped && !j.halted && !j.permuting && decide (j.reexecPhase = 0) && decide (j.closedStep < j.okStep) &&
  (decide (j.hardStep = some j.okStep) || s.mirrorActive slot)

/-- R354: in mirror mode phase 9 is complete and both digests are compared. -/
def State.mirrorMet (s : State) (slot : Nat) : Bool :=
  let j := s.job slot
  !s.mirrorActive slot || j.layoutPending || (j.num.ownDigest.isSome && j.num.partnerDigest.isSome) || j.mirrorBad

/-- R35: at a hard boundary every record and the manifest of the step are written. -/
def State.exportMet (s : State) (slot n : Nat) : Bool :=
  decide ((s.job slot).hardStep ≠ some n) || (s.recordsDone slot n && (s.job slot).exp.manifests.all (fun x => decide (n < x.1)))

/-- R364: the check round of a new layout is cast once the step has committed and every slot is at rest. -/
def State.layoutMet (s : State) (n : Nat) : Bool :=
  !(s.job 0).layoutPending || (decide ((s.job 0).committed = n) && s.jobSlots.all (fun i => decide ((s.job i).okStep = (s.job i).committed)))

/-- The closing vote of a running slot: with a rollback-class cause at once (R559), else when the conditions of R35 and R354 hold. -/
def State.runningClosing (s : State) (slot : Nat) : State :=
  let j := s.job slot
  let n := j.okStep
  if !s.closingDue slot then s
  else
    let t := if slot = 0 && decide (j.hardStep = some n) && !j.layoutPending then s.updJob 0 (fun j => { j with proposal := s.proposal }) else s
    if 0x3000 ≤ j.cause && j.cause < 0x4000 then t.castClosing slot n j.cause
    else if j.phase9 < n || !s.mirrorMet slot || !s.layoutMet n then s
    else if !s.exportMet slot n then s.beginHold slot 2
    else t.castClosing slot n j.closingCause

/-- CLOSING_VOTE (R35, R354, R461, R485): the closing round of an admission, of a rollback's stage, or of the last all-ok step. -/
def execClosingVote (sl : SlotId) (s : State) : Res :=
  .next (
    let c := (s.job 0).committed
    if sl.val = 0 && s.stage = 7 then
      if (s.roundOf 0 { closing := true, step := c }).own.isSome then s
      else (s.updJob 0 (fun j => { j with proposal := s.proposal })).castClosing 0 c 0
    else if sl.val = 0 && s.rfld faultStatus 2 2 = 1 then
      match s.rfld faultStatus 11 8 with
      | 3 => s.castRollback
      | 4 => s.castClosing 0 c (s.job 0).closingCause
      | 6 => s.castClosing 0 c (s.job 0).closingCause
      | _ => s
    else s.runningClosing sl.val)

/-! Hold notices as they come and go. -/

/-- HOLD_UP (R360): the first notice of an interval is forwarded with the lowest rank and the highest cause, or answered at
position 0. -/
def execHoldUp (m : Message) (s : State) : Res :=
  .next (s.sink 0x1B m (fun s =>
    let j := s.job m.slot
    let w := atD m.body 0 0
    let cause := max (Word.fld w 3 0) (if j.held then j.holdCause else 0)
    let low := if j.held then min (Word.fld w 27 16) j.holdLow else Word.fld w 27 16
    if j.holdFwd then s else s.tellHold m.slot m.tag (s.fullStep m) cause low))

/-- HOLD_DOWN (R360): the notice goes on to the children; the round's timeout starts again. -/
def execHoldDown (m : Message) (s : State) : Res :=
  .next (s.sink 0x1C m (fun s =>
    let w := atD m.body 0 0
    s.holdToKids m.slot m.tag (s.fullStep m) (Word.fld w 3 0) (Word.fld w 27 16)))

/-- The hold of a slot still lasts. -/
def State.stillHeld (s : State) (slot : Nat) : Bool :=
  let j := s.job slot
  match j.holdCause with
  | 1 => s.mayVote slot && s.voteReady slot && s.windowHolds slot
  | 2 => s.closingDue slot && !s.exportMet slot j.okStep
  | 3 => (s.loadedCores slot).any (fun c => s.ingestHeld c slot)
  | _ => false

/-- HOLD_NOTICE_TIMER (R360): a notice interval ends; a hold that lasts gives another notice. -/
def execHoldNoticeTimer (sl : SlotId) (s : State) : Res :=
  .next (
    let s := s.updJob sl.val (fun j => { j with holdFwd := false })
    if !(s.job sl.val).held then s
    else if s.stillHeld sl.val then s.tellOwn sl.val (s.job sl.val).holdCause
    else s.endHold sl.val)

/-- INGEST_HOLD_TIMEOUT (R360): a core has held a primary entry on T24 for 1 ms, and the member begins its notices. -/
def execIngestHoldTimeout (c : CoreId) (s : State) : Res :=
  .next (if (s.job 0).member && (s.job 0).admitted && !s.inRollback 0 && s.ingestHeld c.val 0 then s.beginHold 0 3 else s)

/-! Rollback in time (R483, R486). -/

/-- ROLLBACK_DRAIN_END (R483): the wait of stage 2 is over, and the member joins rollback rounds. -/
def execRollbackDrainEnd (s : State) : Res :=
  .next (if s.rfld faultStatus 2 2 = 1 && s.rfld faultStatus 11 8 = 2 then ((s.setFld faultStatus 11 8 3).proposeStep).castRollback else s)

/-- ROLLBACK_WAIT (R486): the rollback round has not completed in time: the record names the own proposal and the members heard. -/
def execRollbackWait (s : State) : Res :=
  .next (if s.rfld faultStatus 2 2 = 1 && s.rfld faultStatus 11 8 = 3 then
    let heard := (s.roundOf 0 { closing := true, rollback := true }).kids.length
    s.raiseError { code := 0x0B05, step := (s.job 0).committed, d5 := s.faults.propose, d6 := heard }
  else s)

/-- RESTORE (R561): the host asks for step `c`: refused above the last committed step; a halted member goes to stage 3; a running
one raises the restore request of R36. -/
def execMboxRestore (s : State) : Res :=
  .next (s.mboxRun 0x10 (fun a s =>
    let c := leNat (a.take 8)
    let named := { s with faults := { s.faults with named := some c } }
    if a.length ≠ 8 || (s.job 0).committed < c then s.mboxDone 2 []
    else if (s.job 0).halted && (s.job 0).member then
      let s := named.updJob 0 (fun j => { j with halted := false })
      (((s.inc (faultReg 0x30) 1).beginRollback 3).proposeStep).mboxDone 0 []
    else if (s.job 0).member && (s.job 0).admitted && s.stage = 8 && !s.inRollback 0 then named.mboxDone 0 []
    else s.mboxDone 3 []))

end Sys2Proof.Machine
end

