-- ==== Sys2Proof/Machine/Commit.lean ====
section
/-! DEFINITION. The commit point (R28, R52, R74, R182 to R186, R209, R244, R403, R439, R454, R488). -/

namespace Sys2Proof.Machine

open Sys2Proof

/-- R28, R354: the result of step `n` is all-ok, phase 9 is complete here, and in mirror mode the closing round is all-ok. -/
def State.commitReady (s : State) (slot n : Nat) : Bool :=
  let j := s.job slot
  j.member && j.admitted && !j.stopped && !j.halted && decide (n ≤ j.okStep) && decide (n ≤ j.phase9) &&
  (!s.mirrorActive slot || decide (n ≤ j.closedStep) || j.layoutPending)

/-- R28, R209, R244: what was held for step `n` is released: row updates and combined gradients, request maps, bags, landed
frames, spill chunks. -/
def State.release (s : State) (slot n : Nat) : State :=
  let next := s.seqOf slot (n + 1) 0 0
  let s := s.updJob slot (fun j => { j with
    owner := { j.owner with
      batches := j.owner.batches.filter (fun b => decide (n < b.step)), updates := j.owner.updates.filter (fun u => decide (n < u.step))
      grads := j.owner.grads.filter (fun (x : Nat × GradSlot) => decide (x.1 % 2 ≠ n % 2)) }
    countsRx := j.countsRx.filter (fun (e : Nat × Nat) => decide (n < e.1 / 4096))
    bags := j.bags.filter (fun b => decide (n < b.step)), gathers := j.gathers.filter (fun g => decide (n < g.step))
    landed := j.landed.filter (fun (x : Nat × List Byte) => decide (next ≤ x.1)) })
  let s := (s.loadedCores slot).foldl (fun s c => State.updGcSlot s c slot (fun g => { g with
    groups := g.groups.filter (fun x => decide (n < x.step))
    batches := g.batches.filter (fun (x : Nat × List ReqBatch) => decide (n < x.1)), chunks := g.chunks.filter (fun x => decide (n < x.1)) })) s
  { s with collectives := s.collectives.filter (fun k => decide (k.slot ≠ slot) || decide (n < k.step)) }

/-- R52, R55: the commit token of every core of the slot. What the token's number holds above 255 is the increments that its
signal holds until decrements make room; no entry signals T25, and a wait asks for at most 2 (log entry 139). -/
def State.signalCommit (s : State) (slot : Nat) : State :=
  (s.loadedCores slot).foldl (fun s c => State.updCs s c slot (fun cs => cs.signal [25])) s

/-- R74: the beat counts of a primary step start again. -/
def State.clearBeats (s : State) : State :=
  { s with cores := s.cores.map (fun (k : Nat × CoreState) =>
      (k.1, { k.2 with units := k.2.units.map (fun (u : Nat × UnitState) => (u.1, { u.2 with primaryBeats := 0, fillerBeats := 0 })) })) }

/-- Tables 6-5 and 6-6: guard overflows, the lapse flag and the tensors in fall-back mode at the commit of step `n`. -/
def State.commitNumerics (s : State) (n : Nat) : State :=
  let num := (s.job 0).num
  let g := resultField num.vote 4 0 8
  let s := s.inc (numReg 0x08) g
  let s := if g = 0 then s else s.setBit (numReg 0) 1
  let s := if !num.lapsed then s.setReg (numReg 0x10) 0
    else if s.regN (numReg 0x10) = 0 then s.setReg (numReg 0x10) (BitVec.ofNat 64 n) else s
  let s := s.setFld (numReg 0) 0 0 (if num.lapsed then 1 else 0)
  let fb := ((s.recipeTensors 0).filter (fun t => (SMap.getD num.hist t {}).fallBack)).length
  (s.setReg (numReg 0x18) (BitVec.ofNat 64 fb)).setFld (numReg 0) 3 3 (if fb = 0 then 0 else 1)

/-- R267: the clip factor and the norm of the committed step. -/
def State.commitDense (s : State) : State :=
  let num := (s.job 0).num
  let clipped := cmpFV (dec32 num.kappa) (dec32 one32) == .lt
  let s := (s.setReg (denseReg 0x38) (BitVec.ofNat 64 num.kappa.toNat)).setReg (denseReg 0x40) (BitVec.ofNat 64 num.normSq.toNat)
  let s := if clipped then s.inc (denseReg 0x30) 1 else s
  (s.setFld (denseReg 0) 1 1 (if clipped then 1 else 0)).setFld (denseReg 0) 3 3 (if s.mirrorActive 0 then 1 else 0)

/-- R439: a booted image in TRIAL is confirmed at the first commit point of its primary job. -/
def State.confirmTrial (s : State) : State := if s.rfld (imgReg 0) 1 1 = 1 then (s.confirmSlot).getD s else s

/-- What the primary's commit point of step `n` does beside its release. -/
def State.commitPrimary (s : State) (n : Nat) : State :=
  let s := (s.commitNumerics n).commitDense
  let s := (s.expireStrikes.confirmTrial).clearBit faultStatus 3
  s.clearBeats

/-- COMMIT_POINT (R28): the epoch flips, staged live values take effect, held gradients are released; then the commit token,
the counters and the watch. -/
def execCommitPoint (sl : SlotId) (s : State) : Res :=
  .next (
    let slot := sl.val
    let n := (s.job slot).committed + 1
    if !s.commitReady slot n then s
    else
      let s := s.updJob slot (fun j => { j with committed := n, mirrorTries := 0 })
      let s := if slot = 0 then (s.setFld (denseReg 0) 0 0 (n % 2)).liveCommit (some n) else s
      let s := (s.release slot n).signalCommit slot
      let s := if slot = 0 then s.commitPrimary n else s
      (((((s.watch slot n).queueCounters slot).refreshExport).refreshIngest).signalIngest slot))

end Sys2Proof.Machine
end

