-- ==== Sys2Proof/Machine/Dispatch.lean ====
section
/-! DEFINITION. The dispatch of a command to its meaning: one arm per constructor, each a direct call. -/

namespace Sys2Proof.Machine

open Sys2Proof

def exec (i : Instr) (s : State) : Host.Outcome State Fault Refusal :=
  match i with
  | .sqDispatch x0 x1 => Sys2Proof.Machine.execSqDispatch x0 x1 s
  | .entryComplete x0 x1 => Sys2Proof.Machine.execEntryComplete x0 x1 s
  | .nop x0 x1 => Sys2Proof.Machine.execNop x0 x1 s
  | .loop x0 x1 => Sys2Proof.Machine.execLoop x0 x1 s
  | .fence x0 x1 => Sys2Proof.Machine.execFence x0 x1 s
  | .rsig x0 x1 => Sys2Proof.Machine.execRsig x0 x1 s
  | .stepEnd x0 x1 => Sys2Proof.Machine.execStepEnd x0 x1 s
  | .watchdogExpiry x0 => Sys2Proof.Machine.execWatchdogExpiry x0 s
  | .localReexecution x0 x1 => Sys2Proof.Machine.execLocalReexecution x0 x1 s
  | .fillerChunkStart x0 x1 => Sys2Proof.Machine.execFillerChunkStart x0 x1 s
  | .fillerChunkEnd x0 x1 => Sys2Proof.Machine.execFillerChunkEnd x0 x1 s
  | .skMove x0 x1 => Sys2Proof.Machine.execSkMove x0 x1 s
  | .clear x0 x1 x2 => Sys2Proof.Machine.execClear x0 x1 x2 s
  | .drain x0 x1 x2 => Sys2Proof.Machine.execDrain x0 x1 x2 s
  | .pass x0 x1 x2 => Sys2Proof.Machine.execPass x0 x1 x2 s
  | .tileDrain x0 x1 => Sys2Proof.Machine.execTileDrain x0 x1 s
  | .veAdd x0 x1 => Sys2Proof.Machine.execVeAdd x0 x1 s
  | .veSub x0 x1 => Sys2Proof.Machine.execVeSub x0 x1 s
  | .veMul x0 x1 => Sys2Proof.Machine.execVeMul x0 x1 s
  | .axpy x0 x1 => Sys2Proof.Machine.execAxpy x0 x1 s
  | .veDiv x0 x1 => Sys2Proof.Machine.execVeDiv x0 x1 s
  | .veMin x0 x1 => Sys2Proof.Machine.execVeMin x0 x1 s
  | .veMax x0 x1 => Sys2Proof.Machine.execVeMax x0 x1 s
  | .veAbs x0 x1 => Sys2Proof.Machine.execVeAbs x0 x1 s
  | .veNeg x0 x1 => Sys2Proof.Machine.execVeNeg x0 x1 s
  | .sqrt x0 x1 => Sys2Proof.Machine.execSqrt x0 x1 s
  | .rsqrt x0 x1 => Sys2Proof.Machine.execRsqrt x0 x1 s
  | .veExp x0 x1 => Sys2Proof.Machine.execVeExp x0 x1 s
  | .veLog x0 x1 => Sys2Proof.Machine.execVeLog x0 x1 s
  | .sigmoid x0 x1 => Sys2Proof.Machine.execSigmoid x0 x1 s
  | .tanh x0 x1 => Sys2Proof.Machine.execTanh x0 x1 s
  | .cvt x0 x1 => Sys2Proof.Machine.execCvt x0 x1 s
  | .cmpLt x0 x1 => Sys2Proof.Machine.execCmpLt x0 x1 s
  | .cmpLe x0 x1 => Sys2Proof.Machine.execCmpLe x0 x1 s
  | .cmpEq x0 x1 => Sys2Proof.Machine.execCmpEq x0 x1 s
  | .cmpUn x0 x1 => Sys2Proof.Machine.execCmpUn x0 x1 s
  | .veSelect x0 x1 => Sys2Proof.Machine.execVeSelect x0 x1 s
  | .iadd x0 x1 => Sys2Proof.Machine.execIadd x0 x1 s
  | .isub x0 x1 => Sys2Proof.Machine.execIsub x0 x1 s
  | .iaddSat x0 x1 => Sys2Proof.Machine.execIaddSat x0 x1 s
  | .isubSat x0 x1 => Sys2Proof.Machine.execIsubSat x0 x1 s
  | .uaddSat x0 x1 => Sys2Proof.Machine.execUaddSat x0 x1 s
  | .veAnd x0 x1 => Sys2Proof.Machine.execVeAnd x0 x1 s
  | .veOr x0 x1 => Sys2Proof.Machine.execVeOr x0 x1 s
  | .veXor x0 x1 => Sys2Proof.Machine.execVeXor x0 x1 s
  | .veNot x0 x1 => Sys2Proof.Machine.execVeNot x0 x1 s
  | .shl x0 x1 => Sys2Proof.Machine.execShl x0 x1 s
  | .shr x0 x1 => Sys2Proof.Machine.execShr x0 x1 s
  | .sar x0 x1 => Sys2Proof.Machine.execSar x0 x1 s
  | .imin x0 x1 => Sys2Proof.Machine.execImin x0 x1 s
  | .imax x0 x1 => Sys2Proof.Machine.execImax x0 x1 s
  | .umin x0 x1 => Sys2Proof.Machine.execUmin x0 x1 s
  | .umax x0 x1 => Sys2Proof.Machine.execUmax x0 x1 s
  | .add64 x0 x1 => Sys2Proof.Machine.execAdd64 x0 x1 s
  | .rsumRow x0 x1 => Sys2Proof.Machine.execRsumRow x0 x1 s
  | .rmaxRow x0 x1 => Sys2Proof.Machine.execRmaxRow x0 x1 s
  | .rminRow x0 x1 => Sys2Proof.Machine.execRminRow x0 x1 s
  | .rmaxabsRow x0 x1 => Sys2Proof.Machine.execRmaxabsRow x0 x1 s
  | .rsumCol x0 x1 => Sys2Proof.Machine.execRsumCol x0 x1 s
  | .rmaxCol x0 x1 => Sys2Proof.Machine.execRmaxCol x0 x1 s
  | .rmaxabsCol x0 x1 => Sys2Proof.Machine.execRmaxabsCol x0 x1 s
  | .histLog2 x0 x1 => Sys2Proof.Machine.execHistLog2 x0 x1 s
  | .softmax x0 x1 => Sys2Proof.Machine.execSoftmax x0 x1 s
  | .cvtToSb x0 x1 => Sys2Proof.Machine.execCvtToSb x0 x1 s
  | .cvtFromSb x0 x1 => Sys2Proof.Machine.execCvtFromSb x0 x1 s
  | .cvtBi32 x0 x1 => Sys2Proof.Machine.execCvtBi32 x0 x1 s
  | .vload x0 x1 => Sys2Proof.Machine.execVload x0 x1 s
  | .vstore x0 x1 => Sys2Proof.Machine.execVstore x0 x1 s
  | .bagScan x0 x1 x2 => Sys2Proof.Machine.execBagScan x0 x1 x2 s
  | .keyMerge x0 x1 => Sys2Proof.Machine.execKeyMerge x0 x1 s
  | .spillChunkGrant x0 => Sys2Proof.Machine.execSpillChunkGrant x0 s
  | .respExpand x0 x1 => Sys2Proof.Machine.execRespExpand x0 x1 s
  | .gradScan x0 x1 => Sys2Proof.Machine.execGradScan x0 x1 s
  | .gradFlush x0 x1 => Sys2Proof.Machine.execGradFlush x0 x1 s
  | .gradMerge x0 x1 => Sys2Proof.Machine.execGradMerge x0 x1 s
  | .exchClose x0 x1 => Sys2Proof.Machine.execExchClose x0 x1 s
  | .agreeMax x0 x1 => Sys2Proof.Machine.execAgreeMax x0 x1 s
  | .reduceScatter x0 x1 => Sys2Proof.Machine.execReduceScatter x0 x1 s
  | .allGather x0 x1 => Sys2Proof.Machine.execAllGather x0 x1 s
  | .denseGatherServe x0 x1 => Sys2Proof.Machine.execDenseGatherServe x0 x1 s
  | .messageForward x0 => Sys2Proof.Machine.execMessageForward x0 s
  | .messageHoldDrop x0 => Sys2Proof.Machine.execMessageHoldDrop x0 s
  | .countMsg x0 => Sys2Proof.Machine.execCountMsg x0 s
  | .rowRequest x0 => Sys2Proof.Machine.execRowRequest x0 s
  | .rowResponse x0 => Sys2Proof.Machine.execRowResponse x0 s
  | .gradBatch x0 => Sys2Proof.Machine.execGradBatch x0 s
  | .reduceUp x0 => Sys2Proof.Machine.execReduceUp x0 s
  | .bcastDown x0 => Sys2Proof.Machine.execBcastDown x0 s
  | .voteUp x0 => Sys2Proof.Machine.execVoteUp x0 s
  | .resultDown x0 => Sys2Proof.Machine.execResultDown x0 s
  | .mirrorDigest x0 => Sys2Proof.Machine.execMirrorDigest x0 s
  | .mirrorDigestTimeout x0 => Sys2Proof.Machine.execMirrorDigestTimeout x0 s
  | .holdUp x0 => Sys2Proof.Machine.execHoldUp x0 s
  | .holdDown x0 => Sys2Proof.Machine.execHoldDown x0 s
  | .holdNoticeTimer x0 => Sys2Proof.Machine.execHoldNoticeTimer x0 s
  | .ingestHoldTimeout x0 => Sys2Proof.Machine.execIngestHoldTimeout x0 s
  | .permute x0 => Sys2Proof.Machine.execPermute x0 s
  | .permuteComplete x0 => Sys2Proof.Machine.execPermuteComplete x0 s
  | .guidonVote x0 => Sys2Proof.Machine.execGuidonVote x0 s
  | .closingVote x0 => Sys2Proof.Machine.execClosingVote x0 s
  | .voteTimeout x0 => Sys2Proof.Machine.execVoteTimeout x0 s
  | .rowUpdate x0 => Sys2Proof.Machine.execRowUpdate x0 s
  | .recordWriteAccept x0 => Sys2Proof.Machine.execRecordWriteAccept x0 s
  | .phase9Complete x0 => Sys2Proof.Machine.execPhase9Complete x0 s
  | .commitPoint x0 => Sys2Proof.Machine.execCommitPoint x0 s
  | .idleCommitPoint => Sys2Proof.Machine.execIdleCommitPoint s
  | .rollbackDrainEnd => Sys2Proof.Machine.execRollbackDrainEnd s
  | .rollbackWait => Sys2Proof.Machine.execRollbackWait s
  | .flintPointEnd x0 => Sys2Proof.Machine.execFlintPointEnd x0 s
  | .flintRetest => Sys2Proof.Machine.execFlintRetest s
  | .fillerFlint x0 => Sys2Proof.Machine.execFillerFlint x0 s
  | .ringDoorbell x0 x1 => Sys2Proof.Machine.execRingDoorbell x0 x1 s
  | .ringConfig x0 x1 => Sys2Proof.Machine.execRingConfig x0 x1 s
  | .descriptorRead x0 x1 => Sys2Proof.Machine.execDescriptorRead x0 x1 s
  | .frameRead x0 x1 => Sys2Proof.Machine.execFrameRead x0 x1 s
  | .ringResume x0 x1 => Sys2Proof.Machine.execRingResume x0 x1 s
  | .frameLanding x0 => Sys2Proof.Machine.execFrameLanding x0 s
  | .ingestFence => Sys2Proof.Machine.execIngestFence s
  | .bar2Write x0 x1 => Sys2Proof.Machine.execBar2Write x0 x1 s
  | .bar2EarlyRead x0 => Sys2Proof.Machine.execBar2EarlyRead x0 s
  | .bar0BadRead x0 x1 => Sys2Proof.Machine.execBar0BadRead x0 x1 s
  | .registerWrite x0 x1 => Sys2Proof.Machine.execRegisterWrite x0 x1 s
  | .liveSettingWrite x0 x1 => Sys2Proof.Machine.execLiveSettingWrite x0 x1 s
  | .hlLiveHold x0 => Sys2Proof.Machine.execHlLiveHold x0 s
  | .exportRow x0 => Sys2Proof.Machine.execExportRow x0 s
  | .exportSweep x0 => Sys2Proof.Machine.execExportSweep x0 s
  | .exportDense x0 x1 => Sys2Proof.Machine.execExportDense x0 x1 s
  | .exportNumerics x0 => Sys2Proof.Machine.execExportNumerics x0 s
  | .exportMap x0 => Sys2Proof.Machine.execExportMap x0 s
  | .exportManifest x0 => Sys2Proof.Machine.execExportManifest x0 s
  | .exportRelease x0 => Sys2Proof.Machine.execExportRelease x0 s
  | .exportFence => Sys2Proof.Machine.execExportFence s
  | .ackStep x0 x1 => Sys2Proof.Machine.execAckStep x0 x1 s
  | .needEntryWrite => Sys2Proof.Machine.execNeedEntryWrite s
  | .needListConfig x0 x1 => Sys2Proof.Machine.execNeedListConfig x0 x1 s
  | .needRelease x0 => Sys2Proof.Machine.execNeedRelease x0 s
  | .restoreDoorbell x0 => Sys2Proof.Machine.execRestoreDoorbell x0 s
  | .restoreRecord => Sys2Proof.Machine.execRestoreRecord s
  | .restoreDone x0 => Sys2Proof.Machine.execRestoreDone x0 s
  | .replayAck x0 => Sys2Proof.Machine.execReplayAck x0 s
  | .mailboxArgumentRead x0 => Sys2Proof.Machine.execMailboxArgumentRead x0 s
  | .attest => Sys2Proof.Machine.execAttest s
  | .imageWrite x0 => Sys2Proof.Machine.execImageWrite x0 s
  | .activate => Sys2Proof.Machine.execActivate s
  | .confirm => Sys2Proof.Machine.execConfirm s
  | .abandon => Sys2Proof.Machine.execAbandon s
  | .mboxRestore => Sys2Proof.Machine.execMboxRestore s
  | .grow => Sys2Proof.Machine.execGrow s
  | .shutdownDrain => Sys2Proof.Machine.execShutdownDrain s
  | .shutdownImmediate => Sys2Proof.Machine.execShutdownImmediate s
  | .shutdownTimeout => Sys2Proof.Machine.execShutdownTimeout s
  | .errlog => Sys2Proof.Machine.execErrlog s
  | .mailboxReservedCode => Sys2Proof.Machine.execMailboxReservedCode s
  | .perstAssert => Sys2Proof.Machine.execPerstAssert s
  | .perstDeassert => Sys2Proof.Machine.execPerstDeassert s
  | .functionLevelReset => Sys2Proof.Machine.execFunctionLevelReset s
  | .d3hotEntry => Sys2Proof.Machine.execD3hotEntry s
  | .linkLeavesL0 => Sys2Proof.Machine.execLinkLeavesL0 s
  | .linkReturn => Sys2Proof.Machine.execLinkReturn s
  | .linkLossTimeout => Sys2Proof.Machine.execLinkLossTimeout s
  | .functionReady x0 x1 => Sys2Proof.Machine.execFunctionReady x0 x1 s
  | .inputRise x0 => Sys2Proof.Machine.execInputRise x0 s
  | .underVoltage => Sys2Proof.Machine.execUnderVoltage s
  | .lossOfInput => Sys2Proof.Machine.execLossOfInput s
  | .overVoltage => Sys2Proof.Machine.execOverVoltage s
  | .overVoltageClear => Sys2Proof.Machine.execOverVoltageClear s
  | .pwrEnAssert => Sys2Proof.Machine.execPwrEnAssert s
  | .pwrEnDeassert => Sys2Proof.Machine.execPwrEnDeassert s
  | .softStartEnd x0 x1 => Sys2Proof.Machine.execSoftStartEnd x0 x1 s
  | .shortedOutput x0 => Sys2Proof.Machine.execShortedOutput x0 s
  | .imageSelection => Sys2Proof.Machine.execImageSelection s
  | .journalRestore => Sys2Proof.Machine.execJournalRestore s
  | .paceCalibration x0 => Sys2Proof.Machine.execPaceCalibration x0 s
  | .hbmInitialised => Sys2Proof.Machine.execHbmInitialised s
  | .slateInitialised => Sys2Proof.Machine.execSlateInitialised s
  | .journalFlush => Sys2Proof.Machine.execJournalFlush s
  | .laserFail x0 => Sys2Proof.Machine.execLaserFail x0 s
  | .lightCheck x0 x1 x2 => Sys2Proof.Machine.execLightCheck x0 x1 x2 s
  | .lightPartialTimeout x0 => Sys2Proof.Machine.execLightPartialTimeout x0 s
  | .lockComplete x0 x1 => Sys2Proof.Machine.execLockComplete x0 x1 s
  | .lockTimeout x0 => Sys2Proof.Machine.execLockTimeout x0 s
  | .alignComplete x0 x1 => Sys2Proof.Machine.execAlignComplete x0 x1 s
  | .alignTimeout x0 => Sys2Proof.Machine.execAlignTimeout x0 s
  | .identSend x0 => Sys2Proof.Machine.execIdentSend x0 s
  | .identFlit x0 x1 => Sys2Proof.Machine.execIdentFlit x0 x1 s
  | .identTimeout x0 => Sys2Proof.Machine.execIdentTimeout x0 s
  | .qualifyEnd x0 x1 x2 => Sys2Proof.Machine.execQualifyEnd x0 x1 x2 s
  | .retrainTimeout x0 => Sys2Proof.Machine.execRetrainTimeout x0 s
  | .excludedRetry x0 => Sys2Proof.Machine.execExcludedRetry x0 s
  | .flitReceive x0 x1 x2 => Sys2Proof.Machine.execFlitReceive x0 x1 x2 s
  | .nak x0 x1 => Sys2Proof.Machine.execNak x0 x1 s
  | .nakRepeat x0 => Sys2Proof.Machine.execNakRepeat x0 s
  | .ackTimer x0 => Sys2Proof.Machine.execAckTimer x0 s
  | .lossOfSignal x0 x1 => Sys2Proof.Machine.execLossOfSignal x0 x1 s
  | .lossOfAlignment x0 x1 => Sys2Proof.Machine.execLossOfAlignment x0 x1 s
  | .ackProgressTimeout x0 => Sys2Proof.Machine.execAckProgressTimeout x0 s
  | .beacon x0 x1 => Sys2Proof.Machine.execBeacon x0 x1 s
  | .databaseQuiet => Sys2Proof.Machine.execDatabaseQuiet s
  | .mapStall => Sys2Proof.Machine.execMapStall s
  | .memoryRead x0 => Sys2Proof.Machine.execMemoryRead x0 s
  | .memoryWrite x0 x1 => Sys2Proof.Machine.execMemoryWrite x0 x1 s
  | .class1ReadAge x0 x1 => Sys2Proof.Machine.execClass1ReadAge x0 x1 s
  | .scrub x0 => Sys2Proof.Machine.execScrub x0 s
  | .promoteWindow => Sys2Proof.Machine.execPromoteWindow s
  | .pagePromotion => Sys2Proof.Machine.execPagePromotion s
  | .slateLate x0 => Sys2Proof.Machine.execSlateLate x0 s
  | .slateRetry x0 x1 => Sys2Proof.Machine.execSlateRetry x0 x1 s
  | .slateTestTimeout x0 => Sys2Proof.Machine.execSlateTestTimeout x0 s
  | .paceWindow x0 => Sys2Proof.Machine.execPaceWindow x0 s
  | .governorTick => Sys2Proof.Machine.execGovernorTick s
  | .slopeCeilingTick => Sys2Proof.Machine.execSlopeCeilingTick s
  | .powerSample x0 x1 => Sys2Proof.Machine.execPowerSample x0 x1 s
  | .powerDecreaseTick => Sys2Proof.Machine.execPowerDecreaseTick s
  | .powerIncreaseTick => Sys2Proof.Machine.execPowerIncreaseTick s
  | .sensorRead x0 x1 => Sys2Proof.Machine.execSensorRead x0 x1 s
  | .thermalTrip x0 => Sys2Proof.Machine.execThermalTrip x0 s
  | .tripRecovery => Sys2Proof.Machine.execTripRecovery s
  | .crossingTimeout x0 => Sys2Proof.Machine.execCrossingTimeout x0 s
  | .partnerDead x0 => Sys2Proof.Machine.execPartnerDead x0 s
  | .smbCapability => Sys2Proof.Machine.execSmbCapability s
  | .smbFaultSummary => Sys2Proof.Machine.execSmbFaultSummary s
  | .smbIdent => Sys2Proof.Machine.execSmbIdent s
  | .smbStart => Sys2Proof.Machine.execSmbStart s
  | .smbTemperature => Sys2Proof.Machine.execSmbTemperature s
  | .smbPower => Sys2Proof.Machine.execSmbPower s
  | .smbPace => Sys2Proof.Machine.execSmbPace s
  | .smbRegRead x0 => Sys2Proof.Machine.execSmbRegRead x0 s
  | .sclLowTimeout => Sys2Proof.Machine.execSclLowTimeout s
  | .sdaLowTimeout => Sys2Proof.Machine.execSdaLowTimeout s
  | .busClear x0 => Sys2Proof.Machine.execBusClear x0 s
  | .idcode => Sys2Proof.Machine.execIdcode s
  | .samplePreload x0 => Sys2Proof.Machine.execSamplePreload x0 s
  | .extest => Sys2Proof.Machine.execExtest s
  | .highz => Sys2Proof.Machine.execHighz s
  | .clamp => Sys2Proof.Machine.execClamp s
  | .jtagDebug x0 x1 => Sys2Proof.Machine.execJtagDebug x0 x1 s
  | .bypass x0 => Sys2Proof.Machine.execBypass x0 s
  | .narrowerWrite x0 x1 x2 => Sys2Proof.Machine.execNarrowerWrite x0 x1 x2 s
  | .lowPowerWarning x0 x1 => Sys2Proof.Machine.execLowPowerWarning x0 x1 s
  | .resizableBar x0 => Sys2Proof.Machine.execResizableBar x0 s
  | .smbusOtherCode x0 => Sys2Proof.Machine.execSmbusOtherCode x0 s
  | .trstAssert => Sys2Proof.Machine.execTrstAssert s

end Sys2Proof.Machine
end

