-- ==== Sys2Proof/Safety.lean ====
section
/-! DEFINITION. What a run of the module keeps: its memories stay canonical, so that equal memories are equal data, its
dispatch queues and its tile queues keep their sizes, and a step answers a next state. -/

namespace Sys2Proof.Machine

open Sys2Proof

/-- R70: of a tile queue's 16 entries four are reserved to each array and eight are shared. -/
def tqWithin (tq : List TileEntry) : Prop :=
  (tq.countP (fun e => decide (e.producer = 0)) - 4) + (tq.countP (fun e => decide (e.producer = 1)) - 4) ≤ 8

/-- R47: no dispatch queue of a slot holds more than 8 entries. -/
def queuesWithin (slots : SMap CoreSlot) : Prop := ∀ i u, ((SMap.getD slots i {}).queue u).length ≤ 8

/-- What every step keeps of a core: its store and its step-table memory are canonical, its queues keep their sizes. -/
def CoreState.Inv (k : CoreState) : Prop :=
  Memory.wf k.cs.bytes = true ∧ Memory.wf k.table.bytes = true ∧ tqWithin k.tq ∧ queuesWithin k.slots

/-- What every step keeps of the module: module memory and both flash devices are canonical (an unlisted flash byte is erased,
0xFF), and every core keeps its part. -/
def State.Inv (s : State) : Prop :=
  Memory.wf s.mem = true ∧ Mem.wfF 0xFF s.flash0.bytes = true ∧ Mem.wfF 0xFF s.flash1.bytes = true ∧ ∀ c, (s.core c).Inv

/-- The fuses that nothing on the module writes: all but the owner enrolment and the security version (R421 to R423). -/
def Fuses.fixed (f : Fuses) : Fuses := { f with ownerHash := [], enrolled := false, svn := 0 }

/-- From `s` to `t` only core `c` changes. -/
def OnlyCore (s t : State) (c : Nat) : Prop := t = s.updCore c (fun _ => t.core c)

/-- From `s` to `t` only the dispatch state of slot `i` on core `c` changes. -/
def OnlySlot (s t : State) (c i : Nat) : Prop := t = s.updCs c i (fun _ => (t.core c).slot i)

/-- The start of an entry by a unit command: where the entry queues, which entries the command runs, and what it asks of the
unit, of its own holds and of the CS ranges that it takes (R44, R48 and the unit's chapter). -/
structure UnitStart where
  core : Nat
  unit : Nat
  slot : Nat
  ops : Entry → Bool
  free : UnitState → QEntry → Bool := freeWhenIdle
  hold : QEntry → State → Option State := noHold
  ranges : State → QEntry → List CsRange := fun _ _ => []

/-- A VE entry of OP `op` in the given forms (DV); the tensor form takes the ranges of `o` (R105, R114). -/
def veUnit (c : CoreId) (sl : SlotId) (op : Nat) (forms : List Bool) (o : VeOp) : UnitStart :=
  { core := c.val, unit := 3, slot := sl.val, ops := fun e => decide (e.op = op) && forms.contains e.dv, hold := veHold c.val,
    ranges := fun s q => if q.entry.dv then o.ranges c.val (s.veOperands c.val sl.val o.stream q) else [] }

/-- The start of each command that runs an entry of a unit (Tables 3-1, 4-3 to 4-8, 7-3, 8-1 and 12-4). -/
def startOf : Instr → Option UnitStart
  | .clear c a sl => some { core := c.val, unit := a.val + 1, slot := sl.val, ops := fun e => decide (e.op = 1), free := maFree, hold := maHold c.val a.val }
  | .drain c a sl => some { core := c.val, unit := a.val + 1, slot := sl.val, ops := fun e => decide (e.op = 2), free := maFree, hold := maHold c.val a.val }
  | .pass c a sl => some { core := c.val, unit := a.val + 1, slot := sl.val, ops := fun e => decide (e.op ≥ 0x40), free := maFree, hold := maHold c.val a.val,
                           ranges := fun _ q => csRanges c.val false (passReads (passIn q)) }
  | .veAdd c sl => some (veUnit c sl 0x01 [true, false] (laneVe .cvt true false 1))
  | .veSub c sl => some (veUnit c sl 0x02 [true, false] (laneVe .cvt true false 1))
  | .veMul c sl => some (veUnit c sl 0x03 [true, false] (laneVe .cvt true false 1))
  | .axpy c sl => some (veUnit c sl 0x04 [true, false] (laneVe .cvt true false 1))
  | .veDiv c sl => some (veUnit c sl 0x05 [true, false] (laneVe .cvt true false 1))
  | .veMin c sl => some (veUnit c sl 0x06 [true, false] (laneVe .cvt true false 1))
  | .veMax c sl => some (veUnit c sl 0x07 [true, false] (laneVe .cvt true false 1))
  | .veAbs c sl => some (veUnit c sl 0x08 [true, false] (laneVe .cvt false false 1))
  | .veNeg c sl => some (veUnit c sl 0x09 [true, false] (laneVe .cvt false false 1))
  | .sqrt c sl => some (veUnit c sl 0x0A [true, false] (laneVe .cvt false false 1))
  | .rsqrt c sl => some (veUnit c sl 0x0B [true, false] (laneVe .cvt false false 1))
  | .veExp c sl => some (veUnit c sl 0x0C [true, false] (laneVe .cvt false false 1))
  | .veLog c sl => some (veUnit c sl 0x0D [true, false] (laneVe .cvt false false 1))
  | .sigmoid c sl => some (veUnit c sl 0x0E [true, false] (laneVe .cvt false false 1))
  | .tanh c sl => some (veUnit c sl 0x0F [true, false] (laneVe .cvt false false 1))
  | .cvt c sl => some (veUnit c sl 0x10 [true] (laneVe .cvt false false 1))
  | .cmpLt c sl => some (veUnit c sl 0x18 [true] (laneVe .cvt true false 1))
  | .cmpLe c sl => some (veUnit c sl 0x19 [true] (laneVe .cvt true false 1))
  | .cmpEq c sl => some (veUnit c sl 0x1A [true] (laneVe .cvt true false 1))
  | .cmpUn c sl => some (veUnit c sl 0x1B [true] (laneVe .cvt true false 1))
  | .veSelect c sl => some (veUnit c sl 0x1C [true] (laneVe .cvt true false 1))
  | .iadd c sl => some (veUnit c sl 0x20 [true, false] (laneVe .cvt true false 1))
  | .isub c sl => some (veUnit c sl 0x21 [true, false] (laneVe .cvt true false 1))
  | .iaddSat c sl => some (veUnit c sl 0x22 [true, false] (laneVe .cvt true false 1))
  | .isubSat c sl => some (veUnit c sl 0x23 [true, false] (laneVe .cvt true false 1))
  | .uaddSat c sl => some (veUnit c sl 0x24 [true, false] (laneVe .cvt true false 1))
  | .veAnd c sl => some (veUnit c sl 0x25 [true, false] (laneVe .cvt true false 1))
  | .veOr c sl => some (veUnit c sl 0x26 [true, false] (laneVe .cvt true false 1))
  | .veXor c sl => some (veUnit c sl 0x27 [true, false] (laneVe .cvt true false 1))
  | .shl c sl => some (veUnit c sl 0x29 [true, false] (laneVe .cvt true false 1))
  | .shr c sl => some (veUnit c sl 0x2A [true, false] (laneVe .cvt true false 1))
  | .sar c sl => some (veUnit c sl 0x2B [true, false] (laneVe .cvt true false 1))
  | .imin c sl => some (veUnit c sl 0x2C [true, false] (laneVe .cvt true false 1))
  | .imax c sl => some (veUnit c sl 0x2D [true, false] (laneVe .cvt true false 1))
  | .umin c sl => some (veUnit c sl 0x2E [true, false] (laneVe .cvt true false 1))
  | .umax c sl => some (veUnit c sl 0x2F [true, false] (laneVe .cvt true false 1))
  | .veNot c sl => some (veUnit c sl 0x28 [true, false] (laneVe .cvt false false 1))
  | .add64 c sl => some (veUnit c sl 0x30 [true, false] add64Ve)
  | .rsumRow c sl => some (veUnit c sl 0x40 [true, false] { laneVe .cvt false false 1 with writes := rowWrites })
  | .rmaxRow c sl => some (veUnit c sl 0x41 [true, false] { laneVe .cvt false false 1 with writes := rowWrites })
  | .rminRow c sl => some (veUnit c sl 0x42 [true, false] { laneVe .cvt false false 1 with writes := rowWrites })
  | .rmaxabsRow c sl => some (veUnit c sl 0x43 [true, false] { laneVe .cvt false false 1 with writes := rowWrites })
  | .rsumCol c sl => some (veUnit c sl 0x48 [true] { laneVe .cvt false false 1 with writes := colWrites })
  | .rmaxCol c sl => some (veUnit c sl 0x49 [true] { laneVe .cvt false false 1 with writes := colWrites })
  | .rmaxabsCol c sl => some (veUnit c sl 0x4A [true] { laneVe .cvt false false 1 with writes := colWrites })
  | .histLog2 c sl => some (veUnit c sl 0x44 [true] histVe)
  | .softmax c sl => some (veUnit c sl 0x50 [true] softmaxVe)
  | .cvtToSb c sl => some (veUnit c sl 0x60 [true] toSbVe)
  | .cvtFromSb c sl => some (veUnit c sl 0x61 [true] fromSbVe)
  | .cvtBi32 c sl => some (veUnit c sl 0x62 [true] bi32Ve)
  | .vload c sl => some { veUnit c sl 0x70 [false] add64Ve with ranges := fun _ q => csRanges c.val false [(vAddr q, 256)] }
  | .vstore c sl => some { veUnit c sl 0x71 [false] add64Ve with ranges := fun _ q => csRanges c.val true [(vAddr q, 256)] }
  | .skMove c sl => some { core := c.val, unit := 4, slot := sl.val, ops := fun e => decide (e.op = 1), hold := skHold c.val sl.val,
                           ranges := fun _ q => skRanges c.val q }
  | .bagScan c sl l => some { core := c.val, unit := 5, slot := sl.val, ops := isGc 0x01,
                              hold := bagScanHold c.val sl.val l, ranges := fun _ q => gcLookRanges c.val q }
  | .keyMerge c sl => some { core := c.val, unit := 5, slot := sl.val, ops := isGc 0x02, hold := keyMergeHold c.val sl.val,
                             ranges := fun _ q => gcLookRanges c.val q }
  | .respExpand c sl => some { core := c.val, unit := 5, slot := sl.val, ops := isGc 0x03, hold := respExpandHold c.val sl.val,
                               ranges := fun _ q => gcLookRanges c.val q }
  | .gradScan c sl => some { core := c.val, unit := 5, slot := sl.val, ops := isGc 0x10, hold := gradScanHold c.val sl.val,
                             ranges := fun _ q => gcAccRanges c.val q }
  | .gradFlush c sl => some { core := c.val, unit := 5, slot := sl.val, ops := isGc 0x11, hold := gradFlushHold c.val sl.val,
                              ranges := fun _ q => gcAccRanges c.val q }
  | .gradMerge c sl => some { core := c.val, unit := 5, slot := sl.val, ops := isGc 0x12, hold := gradMergeHold c.val sl.val }
  | .exchClose c sl => some { core := c.val, unit := 6, slot := sl.val, ops := fun e => decide (e.op = 1),
                              hold := exchCloseHold c.val sl.val }
  | .agreeMax c sl => some { core := c.val, unit := 6, slot := sl.val, ops := fun e => decide (e.op = 2) && e.dv, hold := collHold c.val sl.val 2 }
  | .reduceScatter c sl => some { core := c.val, unit := 6, slot := sl.val, ops := fun e => decide (e.op = 3) && e.dv, hold := collHold c.val sl.val 3 }
  | .allGather c sl => some { core := c.val, unit := 6, slot := sl.val, ops := fun e => decide (e.op = 4) && e.dv, hold := gatherHold c.val sl.val }
  | _ => none

/-- R44, R48, R54, R74, R510: the head entry of its queue is `q`, is one that the command runs, and may start now: its tokens,
its gates and its slot let it, the unit is free, nothing holds it, its ranges meet no held one, and its levels fit. -/
def CanStart (x : UnitStart) (s : State) (q : QEntry) : Prop :=
  s.head x.core x.unit x.slot = some q ∧ x.ops q.entry = true ∧ s.mayStart x.core x.unit x.slot q = true ∧
  x.free ((s.core x.core).unit x.unit) q = true ∧ x.hold q s = none ∧
  s.conflict x.core x.unit x.slot (x.ranges s q) = none ∧ s.levelsFit x.core x.unit q = true

/-- What a start does to the dispatch state and the units: the entry leaves its queue, its waits are taken, and it runs last on
its unit; the other queues, slots, units and cores stay. -/
def Started (x : UnitStart) (s t : State) (q : QEntry) : Prop :=
  ((t.core x.core).slot x.slot).queue x.unit = (((s.core x.core).slot x.slot).queue x.unit).drop 1 ∧
  (∀ u, u ≠ x.unit → ((t.core x.core).slot x.slot).queue u = ((s.core x.core).slot x.slot).queue u) ∧
  (∀ k, ((t.core x.core).slot x.slot).token k =
    ((s.core x.core).slot x.slot).token k - (tokenList q.entry.waitA q.entry.waitB).count k) ∧
  (∀ i, i ≠ x.slot → (t.core x.core).slot i = (s.core x.core).slot i) ∧
  (∃ r : RunEntry, ((t.core x.core).unit x.unit).running = ((s.core x.core).unit x.unit).running ++ [r] ∧ r.slot = x.slot ∧ r.q = q ∧
    (r.dead = false → r.ranges = x.ranges s q)) ∧
  (∀ u, u ≠ x.unit → (t.core x.core).unit u = (s.core x.core).unit u) ∧
  (∀ d, d ≠ x.core → (t.core d).slots = (s.core d).slots ∧ (t.core d).units = (s.core d).units)

end Sys2Proof.Machine
end

