-- ==== Sys2Proof/Certificates/Slice0/Obligations.lean ====
section
/-! DEFINITION. The statements for the provers. -/

open Sys2Proof Sys2Proof.Machine

/-- Derived. For every state whose queue is a command c followed by rest, the step of that state is exec of c on the same
state with the queue rest. It formalises the block rule of the model (log entry 1), over every command and every state.
(00_scope.md) -/
def Obligations.StepRunsFrontCommand : Prop :=
  ∀ (s : State) (c : Instr) (rest : List Instr), s.pending = c :: rest → step s = exec c (s.withPending rest)

/-- Derived. On an empty queue the step answers the same state. That a block with no command idles is the model's design
choice (log entry 1). (00_scope.md) -/
def Obligations.IdleStepLeavesTheState : Prop :=
  ∀ s : State, s.pending = [] → step s = .next s

/-- Derived. For every command of the table with every operand and for every state, exec answers a next state. The
specification gives each command an effect, or leaves the state where its condition does not hold; no command stops the block.
(95_what_each_step_holds.md; 00_scope.md) -/
def Obligations.EveryCommandAnswersANextState : Prop :=
  ∀ (c : Instr) (s : State), ∃ t, exec c s = .next t

/-- Derived. After reset module memory and both flash devices are in their canonical form, every core's memories are, every
dispatch queue holds at most 8 entries and every tile queue keeps its reserves. (02_cores_and_sequencer.md R47, R70;
10_memory_tiers.md) -/
def Obligations.ResetMeetsTheInvariant : Prop := State.reset.Inv

/-- Derived. For every state that meets the invariant (module memory, both flash devices and every core's store and step-table
memory in canonical form; no dispatch queue of a slot above 8 entries; the shared entries of a tile queue within 8), a next
state of its step meets it too. Every command is covered. (02_cores_and_sequencer.md R47, R70) -/
def Obligations.StepKeepsTheInvariant : Prop :=
  ∀ s t : State, s.Inv → step s = .next t → t.Inv

/-- Derived. For every command and state, a next state has the same queue of waiting commands, and the same fuses but for the
owner hash, its ENROLLED bit and the security version, which alone a confirmation writes. (14_boot_image.md R421, R422, R423;
00_scope.md) -/
def Obligations.CommandsLeaveQueueAndFixedFuses : Prop :=
  ∀ (c : Instr) (s t : State), exec c s = .next t → t.pending = s.pending ∧ t.fuses.fixed = s.fuses.fixed

/-- Derived. Where the sequencer's next entry of a slot is a unit entry: with room it is appended to its unit's queue, the
position moves to the next entry, and the other queues, the tokens, the other slots, the other cores and everything outside
the core stay; with 8 entries queued the command counts one stall of the unit and changes nothing else; in the prologue an
entry with NEXT = 0 is passed over. (02_cores_and_sequencer.md R47, R51) -/
def Obligations.DispatchQueuesTheEntry : Prop :=
  ∀ (c : CoreId) (sl : SlotId) (s : State) (e : Entry), s.nextEntry c.val sl.val = some e → 1 ≤ e.unit → e.unit ≤ 6 →
    ((((s.core c.val).slot sl.val).prologue = true → e.next = true) →
      ((((s.core c.val).slot sl.val).queue e.unit).length < 8 → ∃ t, exec (.sqDispatch c sl) s = .next t ∧
        OnlySlot s t c.val sl.val ∧
        ((t.core c.val).slot sl.val).queue e.unit = ((s.core c.val).slot sl.val).queue e.unit ++ [s.queued c.val sl.val e] ∧
        (∀ u, u ≠ e.unit → ((t.core c.val).slot sl.val).queue u = ((s.core c.val).slot sl.val).queue u) ∧
        ((t.core c.val).slot sl.val).pc = ((s.core c.val).slot sl.val).next.pc ∧
        ((t.core c.val).slot sl.val).loops = ((s.core c.val).slot sl.val).next.loops ∧
        ((t.core c.val).slot sl.val).tokens = ((s.core c.val).slot sl.val).tokens) ∧
      (8 ≤ (((s.core c.val).slot sl.val).queue e.unit).length →
        exec (.sqDispatch c sl) s = .next (s.inc (coreReg c.val 0x10 + 8 * (e.unit - 1)) 1))) ∧
    (((s.core c.val).slot sl.val).prologue = true → e.next = false →
      exec (.sqDispatch c sl) s = .next (s.updCs c.val sl.val CoreSlot.next))

/-- Derived. Where the sequencer's next entry of a slot is the control entry: NOP moves to the next entry; LOOP enters a loop
of OPER[11:0] + entries counted by IMM + 1 or the job's microbatch count, and passes the body over when that count is 0; FENCE
moves on once every earlier entry of the slot on the core has completed; RSIG does so too and increments the named token of
the slot on the target core, and is held, counted in SQ_TOKEN_FULL_STALL, while that token stands at 255; STEP_END starts the
next iteration at entry 0. (02_cores_and_sequencer.md Table 2-5, R47, R50, R55, R58, R59) -/
def Obligations.ControlEntriesMoveDispatch : Prop :=
  ∀ (c : CoreId) (sl : SlotId) (s : State) (e : Entry), s.nextEntry c.val sl.val = some e → e.unit = 0 →
    (e.op = 0 → exec (.nop c sl) s = .next (s.updCs c.val sl.val CoreSlot.next)) ∧
    (e.op = 1 → exec (.loop c sl) s = .next (s.updCs c.val sl.val (fun k =>
      k.enterLoop (if bits e.oper 12 12 = 1 then (s.job sl.val).mbCount else e.imm + 1) (bits e.oper 11 0) (bits e.oper 12 12 = 1)))) ∧
    (e.op = 2 → (s.core c.val).drained sl.val = true → exec (.fence c sl) s = .next (s.updCs c.val sl.val CoreSlot.next)) ∧
    (e.op = 2 → (s.core c.val).drained sl.val = false → ((s.core c.val).slot sl.val).prologue = false →
      exec (.fence c sl) s = .next s) ∧
    (e.op = 3 → (s.core c.val).drained sl.val = true → ((s.core c.val).slot sl.val).prologue = false →
      ((s.core (bits e.oper 7 0)).slot sl.val).token (bits e.oper 12 8) < 255 →
      exec (.rsig c sl) s = .next ((s.updCs (bits e.oper 7 0) sl.val (fun k =>
        k.setToken (bits e.oper 12 8) (k.token (bits e.oper 12 8) + 1))).updCs c.val sl.val CoreSlot.next)) ∧
    (e.op = 3 → (s.core c.val).drained sl.val = true → ((s.core c.val).slot sl.val).prologue = false →
      255 ≤ ((s.core (bits e.oper 7 0)).slot sl.val).token (bits e.oper 12 8) →
      exec (.rsig c sl) s = .next (s.inc (coreReg c.val 0x40) 1)) ∧
    (e.op = 4 → exec (.stepEnd c sl) s = .next (s.updCs c.val sl.val (fun k =>
      { k with pc := 0, loops := [], prologue := false, iter := k.iter + 1 })))

/-- Stated. LOOP pushes a loop over the entries that follow, up to its body length, with its count; when the next position is
the end of the innermost loop's body and its index is below count - 1, dispatch goes back to the body's first entry with the
index one higher; at index count - 1 the loop is left and its outer loops are looked at the same way; at any other position
dispatch moves to the following entry. A loop of count 0 is passed over whole. (R58) -/
def Obligations.LoopRepeatsItsBody : Prop :=
  (∀ (k : CoreSlot) (count body : Nat) (mb : Bool), 0 < count →
    (k.enterLoop count body mb).pc = k.pc + 1 ∧
    (k.enterLoop count body mb).loops = { start := k.pc + 1, stop := k.pc + 1 + body, count := count, mb := mb, index := 0 } :: k.loops) ∧
  (∀ (k : CoreSlot) (body : Nat) (mb : Bool), k.loops = [] → (k.enterLoop 0 body mb) = { k with pc := k.pc + 1 + body }) ∧
  (∀ (k : CoreSlot), k.loops = [] → k.next = { k with pc := k.pc + 1 }) ∧
  (∀ (k : CoreSlot) (f : LoopFrame) (outer : List LoopFrame), k.loops = f :: outer →
    (k.pc + 1 ≠ f.stop → k.next = { k with pc := k.pc + 1 }) ∧
    (k.pc + 1 = f.stop → f.index + 1 < f.count → k.next = { k with pc := f.start, loops := { f with index := f.index + 1 } :: outer }) ∧
    (k.pc + 1 = f.stop → f.count ≤ f.index + 1 → k.next = ({ k with loops := outer } : CoreSlot).next))

/-- Derived. Where a unit's next entry to complete is r (and, on XU, its result is in place) and its signals fit,
ENTRY_COMPLETE answers a state in which r has left the unit and each counter of its slot on the core has grown by the number
of SIG fields that name it, everything else of the core's slots, the other cores and memory staying; an entry that waits on
T24 besides lets pending ingest signals raise T24, and only T24; where a named counter would pass 255 the command counts one
stall in SQ_TOKEN_FULL_STALL and changes nothing else. (02_cores_and_sequencer.md R48, R54, R55) -/
def Obligations.EntryCompletionSignalsTokens : Prop :=
  ∀ (c : CoreId) (u : UnitId) (s : State) (r : RunEntry), ((s.core c.val).unit u.val).completing = some r →
    (u.val = 6 → s.xuInPlace c.val r.slot r.q = true) →
    ((∀ t, ((s.core c.val).slot r.slot).token t + (tokenList r.q.entry.sigA r.q.entry.sigB).count t ≤ 255) →
      24 ∉ tokenList r.q.entry.waitA r.q.entry.waitB → ∃ t, exec (.entryComplete c u) s = .next t ∧
        ((t.core c.val).unit u.val).running = ((s.core c.val).unit u.val).running.erase r ∧
        (∀ k, ((t.core c.val).slot r.slot).token k =
          ((s.core c.val).slot r.slot).token k + (tokenList r.q.entry.sigA r.q.entry.sigB).count k) ∧
        (∀ i, i ≠ r.slot → (t.core c.val).slot i = (s.core c.val).slot i) ∧
        (∀ d, d ≠ c.val → t.core d = s.core d) ∧ t.mem = s.mem) ∧
    ((∀ t, ((s.core c.val).slot r.slot).token t + (tokenList r.q.entry.sigA r.q.entry.sigB).count t ≤ 255) →
      24 ∈ tokenList r.q.entry.waitA r.q.entry.waitB → ∃ t, exec (.entryComplete c u) s = .next t ∧
        ((t.core c.val).unit u.val).running = ((s.core c.val).unit u.val).running.erase r ∧
        (∀ k, k ≠ 24 → ((t.core c.val).slot r.slot).token k =
          ((s.core c.val).slot r.slot).token k + (tokenList r.q.entry.sigA r.q.entry.sigB).count k)) ∧
    ((∃ t ∈ tokenList r.q.entry.sigA r.q.entry.sigB, 255 < ((s.core c.val).slot r.slot).token t +
        (tokenList r.q.entry.sigA r.q.entry.sigB).count t) →
      exec (.entryComplete c u) s = .next (s.inc (coreReg c.val 0x40) 1))

/-- Derived. For every command that runs an entry of a unit (CLEAR, DRAIN and PASS; every VE operation in each of its forms;
SK MOVE; the GC look-up and gradient operations; the XU port operations): where the head entry is one of its own and tokens,
gates, slot, unit, holds, CS ranges and levels let it start, the command answers a next state in which the entry has left its
queue, its WAIT counters have been decremented, and it runs last on its unit with its CS ranges held; the other queues, token
counters, slots, units and cores keep their dispatch state. (02_cores_and_sequencer.md R44, R48, R54; 17_pace_power_thermal.md
R509, R510; 03_matrix_arrays.md; 04_vector_engine.md; 07_embedding_lookup.md; 08_embedding_update.md; 12_fabric_traffic.md) -/
def Obligations.UnitCommandsStartTheirEntries : Prop :=
  ∀ (i : Instr) (x : UnitStart) (s : State) (q : QEntry), startOf i = some x → CanStart x s q →
    ∃ t, exec i s = .next t ∧ Started x s t q

/-- Derived. While the always-on domain runs: CAPABILITY, TEMPERATURE, POWER and PACE answer their contents; IDENT, START,
FAULT_SUMMARY and REG_READ of an aligned offset of BAR0 answer theirs while domain 48 is up and a block of count 0 while it is
not; a FAULT_SUMMARY read releases SMB_ALERT# in both cases; REG_READ of any other offset answers a block of one free word; a
REG_READ whose written part ends with a wrong packet error code is not acknowledged and has no effect; a code that Table 18-7
does not list is not acknowledged. One packet error code follows each answer, formed over the address, the command byte, what
was written, the read address and the bytes sent (that it is CRC-8 with polynomial 0x07 is log entry 157's). Besides the
answer only SMB_ALERT# and the mark of a held-bus episode (the model's, log entry 1) change. (18_module_hardware.md R543,
R544, R545) -/
def Obligations.SmbusReadsAnswerTheirBlocks : Prop :=
  ∀ (s : State), s.start.aoOn = true → ∀ (p : PinState) (ans : Nat → List Byte → Bool → List Byte → OutEvent), p = { s.pins with smbStuck := false } →
    ans = (fun code written block bs => .smbusBlock bs (crc8 (s.smbBegin code written ++ [BitVec.ofNat 8 (2 * s.pins.smbAddr + 1)] ++
      ((if block then [BitVec.ofNat 8 bs.length] else []) ++ bs)))) →
    exec .smbCapability s = .next (State.emit { s with pins := p } (ans 0 [] false [BitVec.ofNat 8 (1 + s.pins.smbAddr % 8 * 2 + 16)])) ∧
    exec .smbTemperature s = .next (State.emit { s with pins := p } (ans 0x10 [] true
      (leBytes 4 (s.rfld (pgReg 0x40) 31 0) ++ leBytes 4 (s.rfld (pgReg 0x48) 31 0)))) ∧
    exec .smbPower s = .next (State.emit { s with pins := p } (ans 0x11 [] true (wordsBytes [s.readReg (pgReg 0x20)]))) ∧
    exec .smbPace s = .next (State.emit { s with pins := p } (ans 0x12 [] true (wordsBytes [s.readReg (pgReg 0), s.readReg (pgReg 8)]))) ∧
    exec .smbIdent s = .next (State.emit { s with pins := p } (ans 2 [] true
      (if s.domainUp 48 then wordsBytes [s.readReg (fabReg 8), s.readReg 0] else []))) ∧
    exec .smbStart s = .next (State.emit { s with pins := p } (ans 3 [] true
      (if s.domainUp 48 then wordsBytes [s.readReg startStatus] else []))) ∧
    exec .smbFaultSummary s = .next (State.emit { s with pins := { p with smbAlert := false } } (ans 1 [] true
      (if s.domainUp 48 then wordsBytes [s.readReg (faultReg 0x50)] else []))) ∧
    (∀ off pec, pec = none ∨ pec = some (crc8 (s.smbBegin 0x20 (regReadBytes off))) →
      (off % 8 = 0 → off < 0x04000000 → exec (.smbRegRead ⟨off, pec⟩) s = .next (State.emit { s with pins := p } (ans 0x20 (regReadBytes off) true
        (if s.domainUp 48 then wordsBytes [s.readReg off] else [])))) ∧
      (off % 8 ≠ 0 ∨ 0x04000000 ≤ off → ∃ w : Word, exec (.smbRegRead ⟨off, pec⟩) s = .next (State.emit { s with pins := p, freeCtr := s.freeCtr + 1 }
        (ans 0x20 (regReadBytes off) true (if s.domainUp 48 then wordsBytes [w] else []))))) ∧
    (∀ off x, x ≠ crc8 (s.smbBegin 0x20 (regReadBytes off)) → exec (.smbRegRead ⟨off, some x⟩) s = .next (s.emit (.smbusPecRefused 0x20))) ∧
    (∀ code, code ∉ [0x00, 0x01, 0x02, 0x03, 0x10, 0x11, 0x12, 0x20] →
      exec (.smbusOtherCode code) s = .next (s.emit (.smbusNotAcknowledged code)))

/-- Derived. While the always-on domain runs, SCL_LOW_TIMEOUT, SDA_LOW_TIMEOUT and a BUS_CLEAR after 25 ms low record 0x0801
with boundary class 9 in an episode not yet recorded (the number of the partner domain SMBus is a free value), and record
nothing more in one that is; BUS_CLEAR ends the episode. While domain 48 is off the record is owed to the next start.
(18_module_hardware.md R546; 16_faults_and_recovery.md R535) -/
def Obligations.HeldSmbusIsRecordedOnce : Prop :=
  ∀ (s : State) (c : Instr), s.start.aoOn = true → c = .sclLowTimeout ∨ c = .sdaLowTimeout ∨ c = .busClear true →
    (s.pins.smbStuck = false → ∃ (d : Nat) (t : State), exec c s = .next t ∧ t.freeCtr = s.freeCtr + 1 ∧
      (c ≠ .busClear true → t = State.raiseOrOwe { s with pins := { s.pins with smbStuck := true }, freeCtr := s.freeCtr + 1 }
        { code := 0x0801, unit := 18, d5 := 9, d6 := d }) ∧
      (c = .busClear true → ∃ u, u = State.raiseOrOwe { s with pins := { s.pins with smbStuck := true }, freeCtr := s.freeCtr + 1 }
        { code := 0x0801, unit := 18, d5 := 9, d6 := d } ∧ t = { u with pins := { u.pins with smbStuck := false } })) ∧
    (s.pins.smbStuck = true → c ≠ .busClear true → exec c s = .next s) ∧
    exec (.busClear false) s = .next { s with pins := { s.pins with smbStuck := false } } ∧
    (s.pins.smbStuck = true → exec (.busClear true) s = .next { s with pins := { s.pins with smbStuck := false } })

/-- Derived. While domain 48 is up, an instruction of Table 18-8 is selected and what the one before drove or floated is
released: IDCODE shifts the identification word; SAMPLE/PRELOAD preloads the boundary-scan register and shifts a sample that
no rule gives; EXTEST and CLAMP drive the pins from that register and HIGHZ floats them in the stages STOPPED and RECOVERY,
and act as BYPASS in any other; CLAMP, HIGHZ, BYPASS and every code that the table does not list shift the bypass register's
0; DEBUG shifts the word it reads; TRST# selects IDCODE. While domain 48 is off none has an effect. (18_module_hardware.md
Table 18-8, R547, R548, R549) -/
def Obligations.JtagInstructionsSelectAndShift : Prop :=
  ∀ (s : State), (s.domainUp 48 = true → ∀ sel : Nat → State,
      sel = (fun code => { s with pins := { s.pins with jtagIr := code, floating := false, driven := none } }) →
    exec .idcode s = .next ((sel 0x01).emit (.jtagData 32 (s.fuses.stepping / 16 % 16 * 2 ^ 28 + 0x1296 * 2 ^ 12 + 0x4D3 * 2 + 1))) ∧
    exec .trstAssert s = .next (sel 0x01) ∧
    (∀ d, ∃ x, exec (.samplePreload d) s = .next (State.emit
      { sel 0x02 with pins := { (sel 0x02).pins with scan := d }, freeCtr := s.freeCtr + 1 } (.jtagData 0 x))) ∧
    (s.stage = 12 ∨ s.stage = 10 →
      exec .extest s = .next { sel 0x03 with pins := { (sel 0x03).pins with driven := some s.pins.scan } } ∧
      exec .highz s = .next (State.emit { sel 0x04 with pins := { (sel 0x04).pins with floating := true } } (.jtagData 1 0)) ∧
      exec .clamp s = .next (State.emit { sel 0x05 with pins := { (sel 0x05).pins with driven := some s.pins.scan } } (.jtagData 1 0))) ∧
    (s.stage ≠ 12 → s.stage ≠ 10 →
      exec .extest s = .next ((sel 0x03).emit (.jtagData 1 0)) ∧ exec .highz s = .next ((sel 0x04).emit (.jtagData 1 0)) ∧
      exec .clamp s = .next ((sel 0x05).emit (.jtagData 1 0))) ∧
    (∀ code, code ∉ [0x01, 0x02, 0x03, 0x04, 0x05, 0x80] → exec (.bypass code) s = .next ((sel code).emit (.jtagData 1 0))) ∧
    (∀ sp off, exec (.jtagDebug sp off) s =
      .next (((sel 0x80).debugRead sp off).2.emit (.jtagData 64 ((sel 0x80).debugRead sp off).1.toNat)))) ∧
  (s.domainUp 48 = false → ∀ c, c ∈ [.idcode, .trstAssert, .extest, .highz, .clamp] ∨ (∃ d, c = .samplePreload d) ∨
    (∃ code, c = .bypass code) ∨ (∃ sp off, c = .jtagDebug sp off) → exec c s = .next s)

/-- Derived. While domain 48 is up and the debug-lock fuse is blown, DEBUG of a core store, a step table, module memory or the
fuses shifts 64 zero bits and changes nothing else, so that what it shifts does not depend on what they hold; DEBUG of BAR0
shifts the register's value and writes nothing. (18_module_hardware.md R549) -/
def Obligations.LockedDebugReadsZero : Prop :=
  ∀ (s : State) (sp : DebugSpace) (off : Nat), s.domainUp 48 = true → s.fuses.debugLock = true →
    ∃ w : Word, exec (.jtagDebug sp off) s = .next (State.emit
      { s with pins := { s.pins with jtagIr := 0x80, floating := false, driven := none } } (.jtagData 64 w.toNat)) ∧
      (sp ≠ .bar0 → w = 0) ∧ (sp = .bar0 → w = s.readReg off)

/-- Derived. LIGHT_CHECK in LIGHT with all four lanes lit and no reverse light goes on to LOCK, and with no light stays with
the reason NO_LIGHT; LOCK_COMPLETE keeps the equaliser settings and goes on to ALIGN, and ALIGN_COMPLETE, whose four receive
lanes carry alignment codewords with a permutation of the far lane numbers 0 to 3 within the skew of R308, goes on to IDENT,
in RETRAIN too; they show POL_INV and LANE_MAP; IDENT_SEND in IDENT sends the own IDENT; an IDENT that passes the checks of
R316 with RX_OK and acknowledgement takes a port in IDENT to QUALIFY and names the far serial, and without acknowledgement
only counts as valid. The other ports stay. (11_fabric_links.md R307, R308, R315, R316, R317, R320) -/
def Obligations.PortTrainsToQualify : Prop :=
  ∀ (p : PortId) (s : State),
    (∀ l r tx, (s.port p.val).state = 1 → (∀ x ∈ r, x < reverseLevel) → litLanes l = 4 → ∃ t, exec (.lightCheck p ⟨l, tx⟩ r) s = .next t ∧
      (t.port p.val).state = 2 ∧ (t.port p.val).power = l ∧ ∀ q, q ≠ p.val → t.port q = s.port q) ∧
    (∀ l r tx, (s.port p.val).state = 1 → (∀ x ∈ r, x < reverseLevel) → litLanes l = 0 → ∃ t, exec (.lightCheck p ⟨l, tx⟩ r) s = .next t ∧
      (t.port p.val).state = 1 ∧ (t.port p.val).reason = 2 ∧ (t.port p.val).power = l ∧ ∀ q, q ≠ p.val → t.port q = s.port q) ∧
    (∀ n cal, (s.port p.val).state = 2 ∨ (s.port p.val).state = 7 ∧ (s.port p.val).sub = 2 → ∃ t, exec (.lockComplete p ⟨n, cal⟩) s = .next t ∧
      ((s.port p.val).state = 2 → (t.port p.val).state = 3) ∧
      ((s.port p.val).state = 7 → (t.port p.val).state = 7 ∧ (t.port p.val).sub = 3) ∧
      t.rfld (portReg p.val 0) 23 20 = n % 16 ∧ (t.port p.val).calib = cal ∧ ∀ q, q ≠ p.val → t.port q = s.port q) ∧
    (∀ (a b c d : Nat) (m n o k : Codeword × Nat) (f g h i : Nat × Nat), [a, b, c, d].Perm [0, 1, 2, 3] →
      readAlign (s.laneWord p.val 0 m.1) = some (a, f) → readAlign (s.laneWord p.val 1 n.1) = some (b, g) →
      readAlign (s.laneWord p.val 2 o.1) = some (c, h) → readAlign (s.laneWord p.val 3 k.1) = some (d, i) →
      deskews [(m.2, f.2), (n.2, g.2), (o.2, h.2), (k.2, i.2)] = true →
      (s.port p.val).state = 3 ∨ (s.port p.val).state = 7 ∧ (s.port p.val).sub = 3 → ∃ t, exec (.alignComplete p [m, n, o, k]) s = .next t ∧
      ((s.port p.val).state = 3 → (t.port p.val).state = 4) ∧
      ((s.port p.val).state = 7 → (t.port p.val).state = 7 ∧ (t.port p.val).sub = 4) ∧
      (t.port p.val).identValid = false ∧ t.rfld (portReg p.val 0) 31 24 = a + 4 * b + 16 * c + 64 * d ∧
      ∀ q, q ≠ p.val → t.port q = s.port q) ∧
    ((s.port p.val).state = 4 ∨ (s.port p.val).state = 7 ∧ (s.port p.val).sub = 4 → exec (.identSend p) s =
      .next (s.emit (.identFlit p.val ⟨0x4E4C4749, Config.identVersion, s.fuses.serial, s.fabricId, p.val, true, 0,
        (s.port p.val).identValid⟩))) ∧
    (∀ i : Ident, (s.port p.val).state = 4 → s.identReason i = 0 → ∃ t, exec (.identFlit p i) s = .next t ∧
      (t.port p.val).state = (if i.rxOk && i.acked then 5 else 4) ∧ (t.port p.val).identValid = true ∧
      t.reg (portReg p.val 8) = BitVec.ofNat 64 i.serial ∧ ∀ q, q ≠ p.val → t.port q = s.port q)

/-- Derived. In LIGHT with light on 1 to 3 lanes, in LOCK, in ALIGN and in IDENT the timeout commands take the port to
EXCLUDED with the reasons LANE_FAIL, LOW_POWER or LANE_FAIL, FOREIGN, and FOREIGN or FAR_NO_ACK; reverse light in LIGHT gives
CROSSED, an IDENT that fails a check the reason of that check, QUALIFY above the limit FEC_LIMIT. FP_EXCLUSIONS grows by one
and the other ports stay as they are. EXCLUDED_RETRY takes an excluded port back to LIGHT with its reason, RETRAIN_TIMEOUT one
in RETRAIN to LIGHT with DEGRADED. (11_fabric_links.md R314, R315, R316, R318) -/
def Obligations.PortTimeoutsExclude : Prop :=
  ∀ (p : PortId) (s : State) (c : Instr) (reason : Nat),
    ((c = .lightPartialTimeout p ∧ (s.port p.val).state = 1 ∧ 1 ≤ litLanes (s.port p.val).power ∧ litLanes (s.port p.val).power ≤ 3 ∧ reason = 5) ∨
     (c = .lockTimeout p ∧ (s.port p.val).state = 2 ∧
       reason = if (s.port p.val).power.any (fun x => decide (x < sensitivityLevel)) then 4 else 5) ∨
     (c = .alignTimeout p ∧ (s.port p.val).state = 3 ∧ reason = 8) ∨
     (c = .identTimeout p ∧ (s.port p.val).state = 4 ∧ reason = if (s.port p.val).identValid then 13 else 8) ∨
     (∃ l r tx, c = .lightCheck p ⟨l, tx⟩ r ∧ (s.port p.val).state = 1 ∧ (∃ x ∈ r, reverseLevel ≤ x) ∧ reason = 3) ∨
     (∃ i, c = .identFlit p i ∧ (s.port p.val).state = 4 ∧ s.identReason i ≠ 0 ∧ reason = s.identReason i) ∨
     (∃ n l, c = .qualifyEnd p n l ∧ (s.port p.val).state = 5 ∧ s.modCfg 0x8702 100 < n ∧ reason = 6) →
     ∃ t, exec c s = .next t ∧ (t.port p.val).state = 8 ∧ (t.port p.val).reason = reason ∧
       t.reg (portReg p.val 0x50) = BitVec.ofNat 64 (min (2 ^ 64 - 1) (s.regN (portReg p.val 0x50) + 1)) ∧
       ∀ q, q ≠ p.val → t.port q = s.port q) ∧
    ((s.port p.val).state = 8 → ∃ t, exec (.excludedRetry p) s = .next t ∧ (t.port p.val).state = 1 ∧
      (t.port p.val).reason = (s.port p.val).reason ∧ ∀ q, q ≠ p.val → t.port q = s.port q) ∧
    ((s.port p.val).state = 7 → ∃ t, exec (.retrainTimeout p) s = .next t ∧ (t.port p.val).state = 1 ∧ (t.port p.val).reason = 12 ∧
      (t.port p.val).retry = [] ∧ (t.port p.val).partials = [] ∧ ∀ q, q ≠ p.val → t.port q = s.port q)

/-- Derived. QUALIFY_END at or below the limit takes a port in QUALIFY to UP with no reason and starts its receive sequence at
0; an IDENT that passes with RX_OK and acknowledgement takes a port in RETRAIN back to UP with its receive sequence kept,
waiting for the far end's first ACK. The states of the other ports stay. (11_fabric_links.md R313, R315, R317) -/
def Obligations.QualifiedPortComesUp : Prop :=
  ∀ (p : PortId) (s : State),
    (∀ n l, (s.port p.val).state = 5 → n ≤ s.modCfg 0x8702 100 → ∃ t, exec (.qualifyEnd p n l) s = .next t ∧
      (t.port p.val).state = 6 ∧ (t.port p.val).reason = 0 ∧ (t.port p.val).rxSeq = 0 ∧ (t.port p.val).calib = l ∧
      ∀ q, q ≠ p.val → (t.port q).state = (s.port q).state) ∧
    (∀ i : Ident, (s.port p.val).state = 7 → (s.port p.val).sub = 4 → s.identReason i = 0 → (i.rxOk && i.acked) = true →
      ∃ t, exec (.identFlit p i) s = .next t ∧ (t.port p.val).state = 6 ∧ (t.port p.val).rxSeq = (s.port p.val).rxSeq ∧
      (t.port p.val).resync = true ∧ ∀ q, q ≠ p.val → (t.port q).state = (s.port q).state)

/-- Derived. LOSS_OF_SIGNAL and LOSS_OF_ALIGNMENT on a port in UP, ACK_PROGRESS_TIMEOUT while its retry buffer is not empty
take the port to RETRAIN with its receive sequence kept; on the third retrain within 10 s it goes to EXCLUDED with the reason
DEGRADED. FP_RETRAINS grows by one and no route uses the port any longer. A port that is not UP, or an ACK timeout with an
empty retry buffer, changes nothing. (11_fabric_links.md R313, R318, R319, R333) -/
def Obligations.LossesRetrainAPort : Prop :=
  ∀ (p : PortId) (s : State) (c : Instr), ((∃ i, c = .lossOfSignal p i) ∨ (∃ i, c = .lossOfAlignment p i) ∨
      (c = .ackProgressTimeout p ∧ (s.port p.val).retry ≠ [])) →
    ((s.port p.val).state = 6 → ∃ t, exec c s = .next t ∧
      (((s.port p.val).retrains.filter (fun x => decide (s.now < x + 10000000))).length < 2 →
        (t.port p.val).state = 7 ∧ (t.port p.val).sub = 2 ∧ (t.port p.val).rxSeq = (s.port p.val).rxSeq) ∧
      (2 ≤ ((s.port p.val).retrains.filter (fun x => decide (s.now < x + 10000000))).length →
        (t.port p.val).state = 8 ∧ (t.port p.val).reason = 12) ∧
      t.reg (portReg p.val 0x48) = BitVec.ofNat 64 (min (2 ^ 64 - 1) (s.regN (portReg p.val 0x48) + 1)) ∧
      (∀ x ∈ t.fabric.routes, p.val ∉ x.2.adaptive ∧ x.2.escape ≠ some p.val ∧ x.2.down ≠ some p.val) ∧
      ∀ q, q ≠ p.val → (t.port q).state = (s.port q).state) ∧
    ((s.port p.val).state ≠ 6 → exec c s = .next s)

/-- Derived. On a port in UP, of a codeword that RS(544,514) decodes on its lane (the lane's polarity undone): a flit with a
good CRC, a message or link-control type and the expected SEQ advances the expected sequence by one modulo 65,536, ends a NAK
and counts no error, and one of TYPE 4 hands its message to the sink here (a beacon, or the own rank) or to the router; a flit
that has a bad CRC, a reserved type or another SEQ leaves the expected sequence, counts FP_CRC_ERR, marks a NAK as sent and
delivers nothing; an idle flit leaves all of these. A flit of a codeword that does not decode is discarded in the same way. At
a codeword's first flit FP_FEC_CORR_SYM grows by the symbols corrected, or FP_FEC_UNCORR_CW by one (that a codeword is counted
there is log entry 40's). On any other port a flit has no effect. (11_fabric_links.md R306, R309, R310, R320, R337;
12_fabric_traffic.md R338, R339) -/
def Obligations.FlitsAreAcceptedInOrder : Prop :=
  ∀ (p : PortId) (lane : Fin 4) (w : Codeword) (pos : Fin 5) (s : State),
   (∀ (d n : Nat) (f : Flit), rsDecode (s.laneWord p.val lane.val w) = some (d, n) → f = codewordFlit d pos.val →
    ((s.port p.val).state = 6 → flitGood f = true → 1 ≤ flitType f → flitType f ≤ 5 → flitSeq f = (s.port p.val).rxSeq →
      ∃ t, exec (.flitReceive p ⟨lane, w⟩ pos) s = .next t ∧ (t.port p.val).rxSeq = ((s.port p.val).rxSeq + 1) % 65536 ∧
        (t.port p.val).nakSent = false ∧ t.reg (portReg p.val 0x28) =
          BitVec.ofNat 64 (min (2 ^ 64 - 1) (s.regN (portReg p.val 0x28) + if pos.val = 0 then n else 0)) ∧ t.reg (portReg p.val 0x38) = s.reg (portReg p.val 0x38) ∧
        (flitType f = 4 → (assemble [f]).kind = 1 ∨ s.fabric.rank = some (assemble [f]).dst →
          t.inbox = s.inbox ++ [assemble [f]] ∧ t.router = s.router) ∧
        (flitType f = 4 → (assemble [f]).kind ≠ 1 → s.fabric.rank ≠ some (assemble [f]).dst →
          t.inbox = s.inbox ∧ t.router = s.router ++ [⟨assemble [f], some p.val, decide (flitVl f % 2 = 1), false⟩])) ∧
    ((s.port p.val).state = 6 → flitGood f = false ∨ 6 ≤ flitType f ∨ (flitType f ≠ 0 ∧ flitSeq f ≠ (s.port p.val).rxSeq) →
      ∃ t, exec (.flitReceive p ⟨lane, w⟩ pos) s = .next t ∧ (t.port p.val).rxSeq = (s.port p.val).rxSeq ∧ (t.port p.val).nakSent = true ∧
        t.reg (portReg p.val 0x38) = BitVec.ofNat 64 (min (2 ^ 64 - 1) (s.regN (portReg p.val 0x38) + 1)) ∧
        t.inbox = s.inbox ∧ t.router = s.router) ∧
    ((s.port p.val).state = 6 → flitGood f = true → flitType f = 0 →
      ∃ t, exec (.flitReceive p ⟨lane, w⟩ pos) s = .next t ∧ (t.port p.val).rxSeq = (s.port p.val).rxSeq ∧
        (t.port p.val).nakSent = (s.port p.val).nakSent ∧ (∀ o, o ≠ portReg p.val 0x28 → t.reg o = s.reg o) ∧
        t.inbox = s.inbox ∧ t.router = s.router)) ∧
   ((s.port p.val).state = 6 → rsDecode (s.laneWord p.val lane.val w) = none →
      ∃ t, exec (.flitReceive p ⟨lane, w⟩ pos) s = .next t ∧ (t.port p.val).rxSeq = (s.port p.val).rxSeq ∧ (t.port p.val).nakSent = true ∧
        t.reg (portReg p.val 0x38) = BitVec.ofNat 64 (min (2 ^ 64 - 1) (s.regN (portReg p.val 0x38) + 1)) ∧
        t.reg (portReg p.val 0x30) = BitVec.ofNat 64 (min (2 ^ 64 - 1) (s.regN (portReg p.val 0x30) + if pos.val = 0 then 1 else 0)) ∧
        t.inbox = s.inbox ∧ t.router = s.router) ∧
   ((s.port p.val).state ≠ 6 → exec (.flitReceive p ⟨lane, w⟩ pos) s = .next s)

/-- Derived. A NAK on a port in UP releases from the retry buffer the flits before the sequence it names and counts one in
FP_RETRY. Where it is not the 16th for one sequence without progress, the rest of the buffer is sent again in order and the
port stays in UP; where it is, the port leaves UP. NAK_REPEAT while a NAK is out, and ACK_TIMER, send a link-control flit with
room in the buffer; with none ACK_TIMER sends the ACK in an idle flit's header; without a NAK out NAK_REPEAT does nothing.
(11_fabric_links.md R310, R311, R312, R313) -/
def Obligations.NakResendsFromTheNamedSequence : Prop :=
  ∀ (p : PortId) (n : Nat) (s : State), (s.port p.val).state = 6 → ∀ a, a = (s.port p.val).acked (n % 65536) →
    (a.resendSeq ≠ a.base ∨ a.resends < 15 → ∃ t, exec (.nak p n) s = .next t ∧ (t.port p.val).retry = a.retry ∧
      (t.port p.val).state = 6 ∧ t.out = s.out ++ a.retry.map (OutEvent.flit p.val) ∧
      t.reg (portReg p.val 0x40) = BitVec.ofNat 64 (min (2 ^ 64 - 1) (s.regN (portReg p.val 0x40) + 1)) ∧
      ∀ q, q ≠ p.val → t.port q = s.port q) ∧
    (a.resendSeq = a.base → 15 ≤ a.resends → ∃ t, exec (.nak p n) s = .next t ∧
      ((t.port p.val).state = 7 ∨ (t.port p.val).state = 8 ∧ (t.port p.val).reason = 12)) ∧
    ((s.port p.val).retry.length < 2048 →
      ((s.port p.val).nakSent = true → exec (.nakRepeat p) s = .next (s.txFlit p.val 5 0 (1 :: leBytes 2 (s.port p.val).rxSeq))) ∧
      exec (.ackTimer p) s = .next (s.txFlit p.val 5 0 [0])) ∧
    (2048 ≤ (s.port p.val).retry.length → exec (.ackTimer p) s = .next (s.txIdle p.val)) ∧
    ((s.port p.val).nakSent = false → exec (.nakRepeat p) s = .next s)

/-- Derived. LASER_FAIL of an engine whose domain is up and whose laser has not failed yet adds it to the failed lasers, sets
its LU_FAIL bit in FAB_STATUS, takes its four ports to OFF with the reason LASER, leaves the states of the other ports and
asserts MOD_FAULT#. LOW_POWER_WARNING of a trained port stores the powers read and transmitted in FP_RX_POWER and FP_TX_POWER,
and sets LOW_POWER where a lane is below the warning level. (11_fabric_links.md R302, R320; 16_faults_and_recovery.md Table
16-10) -/
def Obligations.LaserFailTakesDownFourPorts : Prop :=
  ∀ (s : State),
    (∀ k : EngineUnit, k.val ∉ s.lasers → 40 + k.val ∈ s.start.domainsUp → ∃ t, exec (.laserFail k) s = .next t ∧
      t.lasers = s.lasers ++ [k.val] ∧ t.rfld fabStatus (8 + k.val) (8 + k.val) = 1 ∧ t.pins.modFault = true ∧
      (∀ i, i < 4 → (t.port (4 * k.val + i)).state = 0 ∧ (t.port (4 * k.val + i)).reason = 11) ∧
      (∀ q, q / 4 ≠ k.val → (t.port q).state = (s.port q).state ∧ (t.port q).reason = (s.port q).reason)) ∧
    (∀ (p : PortId) (l tx : List Int), 2 ≤ (s.port p.val).state → (s.port p.val).state ≤ 7 → ∃ t,
      exec (.lowPowerWarning p ⟨l, tx⟩) s = .next t ∧ (t.port p.val).power = l ∧ t.reg (portReg p.val 0x18) = powerWord l ∧
      t.reg (portReg p.val 0x20) = powerWord tx ∧ (t.port p.val).state = (s.port p.val).state ∧
      ((∃ x ∈ l, x < warningLevel) → t.rfld (portReg p.val 0) 3 3 = 1) ∧
      ((∀ x ∈ l, warningLevel ≤ x) → t.rfld (portReg p.val 0) 3 3 = s.rfld (portReg p.val 0) 3 3) ∧
      ∀ q, q ≠ p.val → t.port q = s.port q)

/-- Derived. Where, once the line has suffered what the request names (a correctable or uncorrectable error, a failing or slow
slate line), no controller refuses the line, no slate request holds it, and its HBM line is not poisoned or is written whole,
MEMORY_WRITE, served at once or waiting in its channel's scheduler, answers a state in which the line's addressed bytes read
as the request's bytes, cut at the line's end, and every byte outside them reads as before; the line's error mark is gone, the
marks of other lines, the cores, the job slots and both flash devices stay; of a write that meets an empty queue what went out
stays too. Where the line is refused, memory stays and MC_ADDR_FAULT of its stack counts the request. (10_memory_tiers.md
R276, R278, R290, R292, R294) -/
def Obligations.MemoryWriteChangesItsBytesAlone : Prop :=
  ∀ (q : MemRequest) (bs : List Byte) (s u : State), bs ≠ [] → u = s.suffer q true →
    (u.slateStalled q.addr (min bs.length (64 - q.addr % 64)) = false → u.refusedAddr (MemRequest.asker q) (q.addr / 64 * 64) = false →
      SMap.find? u.memErr (q.addr / 64) ≠ some true ∨ min bs.length (64 - q.addr % 64) = 64 → ∃ t, exec (.memoryWrite q bs) s = .next t ∧
      (∀ i, i < min bs.length (64 - q.addr % 64) → Mem.get t.mem (q.addr + i) = bs.getD i 0) ∧
      (∀ a, a < q.addr ∨ q.addr + min bs.length (64 - q.addr % 64) ≤ a → Mem.get t.mem a = Mem.get s.mem a) ∧
      SMap.find? t.memErr (q.addr / 64) = none ∧ (∀ l, l ≠ q.addr / 64 → SMap.find? t.memErr l = SMap.find? s.memErr l) ∧
      t.cores = s.cores ∧ t.jobs = s.jobs ∧ t.flash0 = s.flash0 ∧ t.flash1 = s.flash1 ∧
      (q.waits = false → (u.channel (u.place (q.addr / 64 * 64))).queue = [] → t.out = s.out)) ∧
    (u.slateStalled q.addr (min bs.length (64 - q.addr % 64)) = false → u.refusedAddr (MemRequest.asker q) (q.addr / 64 * 64) = true →
      ∃ t, exec (.memoryWrite q bs) s = .next t ∧ t.mem = s.mem ∧ t.memErr = u.memErr ∧ t.cores = s.cores ∧
      t.reg (dieReg (spreadHash (q.addr / 64 * 64 / 256)).1 0x168) =
        BitVec.ofNat 64 (min (2 ^ 64 - 1) (s.regN (dieReg (spreadHash (q.addr / 64 * 64 / 256)).1 0x168) + 1)))

/-- Derived. Where, once the line has suffered what the request names, no controller refuses the line and no slate request
holds it, MEMORY_READ leaves every byte of memory and every core. Served at once, it sends the addressed bytes, cut at the
line's end, where the HBM line is not poisoned, its correctable mark then being gone; a poisoned line is sent marked poisoned
and without data, and keeps its mark. A read that waits joins the end of its channel's queue with the bytes, or marked
poisoned, and sends nothing. Where the line is refused, memory stays and MC_ADDR_FAULT of its stack counts the request.
(10_memory_tiers.md R276, R278, R290, R292, R294) -/
def Obligations.MemoryReadReturnsTheBytes : Prop :=
  ∀ (q : MemRequest) (s u : State), 0 < q.len → u = s.suffer q false →
    u.slateStalled q.addr (min q.len (64 - q.addr % 64)) = false →
    (u.refusedAddr (MemRequest.asker q) (q.addr / 64 * 64) = false →
      ∃ t, exec (.memoryRead q) s = .next t ∧ t.mem = s.mem ∧ t.cores = s.cores ∧
      (q.waits = false → (u.channel (u.place (q.addr / 64 * 64))).queue = [] →
        (SMap.find? u.memErr (q.addr / 64) ≠ some true → ∃ pre, t.out = pre ++
          [.memoryData q (Mem.bytes s.mem q.addr (min q.len (64 - q.addr % 64))) false]) ∧
        (SMap.find? u.memErr (q.addr / 64) = none → t.out = s.out ++
          [.memoryData q (Mem.bytes s.mem q.addr (min q.len (64 - q.addr % 64))) false]) ∧
        (SMap.find? u.memErr (q.addr / 64) = some false → (∃ st pc, u.place (q.addr / 64 * 64) = .hbm st pc) →
          SMap.find? t.memErr (q.addr / 64) = none) ∧
        (SMap.find? u.memErr (q.addr / 64) = some true → (∃ st pc, u.place (q.addr / 64 * 64) = .hbm st pc) →
          t.memErr = u.memErr ∧ ∃ pre, t.out = pre ++ [.memoryData q [] true])) ∧
      (q.waits = true →
        (SMap.find? u.memErr (q.addr / 64) = none → t.out = s.out) ∧
        (SMap.find? u.memErr (q.addr / 64) ≠ some true → (t.channel (u.place (q.addr / 64 * 64))).queue =
          (u.channel (u.place (q.addr / 64 * 64))).queue ++
            [{ req := q, data := Mem.bytes s.mem q.addr (min q.len (64 - q.addr % 64)) }]) ∧
        (SMap.find? u.memErr (q.addr / 64) = some true → (∃ st pc, u.place (q.addr / 64 * 64) = .hbm st pc) →
          (t.channel (u.place (q.addr / 64 * 64))).queue = (u.channel (u.place (q.addr / 64 * 64))).queue ++
            [{ req := q, poisoned := true }]))) ∧
    (u.refusedAddr (MemRequest.asker q) (q.addr / 64 * 64) = true →
      ∃ t, exec (.memoryRead q) s = .next t ∧ t.mem = s.mem ∧ t.memErr = u.memErr ∧ t.cores = s.cores ∧
      t.reg (dieReg (spreadHash (q.addr / 64 * 64 / 256)).1 0x168) =
        BitVec.ofNat 64 (min (2 ^ 64 - 1) (s.regN (dieReg (spreadHash (q.addr / 64 * 64 / 256)).1 0x168) + 1)))

/-- Derived. Of a read whose slate line, after what the request names, completes no request: one to a page of a migration
waits and is counted; one whose line is only slow, or stands behind a held one, is held; one whose line fails is held as
failing where a job slot issues it in service, and ends with an error completion where the service complex or Flint issues it,
or in start-up, test or recovery. SLATE_LATE marks a held request late and counts it; SLATE_TEST_TIMEOUT ends a test request
with an error completion; SLATE_RETRY that fails counts a retry of a service request, and one that succeeds removes it unless
an older request of its line or a migration of its page is in its way, where it changes nothing. (10_memory_tiers.md R286,
R292, R296, R297, R299) -/
def Obligations.SlateRequestsWaitAndFail : Prop :=
  ∀ (s : State),
    (∀ (q : MemRequest) (u : State), u = s.suffer q false → u.slateStalled q.addr (min q.len (64 - q.addr % 64)) = true →
      (u.slate.migrating.contains (slatePage q.addr) = true → ∃ t, exec (.memoryRead q) s = .next t ∧ t.mem = s.mem ∧
        t.slate.requests = s.slate.requests ++ [{ req := q, since := s.now }] ∧
        t.reg (ltReg 0x38) = BitVec.ofNat 64 (min (2 ^ 64 - 1) (s.regN (ltReg 0x38) + 1))) ∧
      (u.slate.migrating.contains (slatePage q.addr) = false → u.slateFate (q.addr / 64) ≠ some true →
        exec (.memoryRead q) s = .next { u with slate := { u.slate with requests := s.slate.requests ++ [{ req := q, since := s.now }] } }) ∧
      (u.slate.migrating.contains (slatePage q.addr) = false → u.slateFate (q.addr / 64) = some true →
        (q.test = false → q.service = false → s.testPhase = false → ∃ t, exec (.memoryRead q) s = .next t ∧
          t.slate.requests = s.slate.requests ++ [{ req := q, failing := true, since := s.now }] ∧ t.mem = s.mem ∧ t.rfld (ltReg 0) 0 0 = 1) ∧
        (q.test = true ∨ q.service = true ∨ s.testPhase = true → ∃ t, exec (.memoryRead q) s = .next t ∧
          t.slate = u.slate ∧ t.mem = s.mem ∧ ∃ pre, t.out = pre ++ [.memoryError q]))) ∧
    (∀ (k : Nat) (r : SlateRequest), s.slate.requests[k]? = some r →
      (r.late = false → ∃ t, exec (.slateLate k) s = .next t ∧ t.slate.requests[k]? = some { r with late := true } ∧
        t.reg (ltReg 0x48) = BitVec.ofNat 64 (min (2 ^ 64 - 1) (s.regN (ltReg 0x48) + 1)) ∧ t.mem = s.mem) ∧
      (r.req.test = true ∨ r.req.service = true ∨ s.testPhase = true → ∃ t, exec (.slateTestTimeout k) s = .next t ∧
        t.slate.requests = s.slate.requests.eraseIdx k ∧ t.mem = s.mem ∧ ∃ pre, t.out = pre ++ [.memoryError r.req]) ∧
      (r.req.test = false → r.req.service = false →
        (∃ t, exec (.slateRetry k false) s = .next t ∧ t.slate.requests[k]? = some { r with retries := r.retries + 1 } ∧
          t.reg (ltReg 0x50) = BitVec.ofNat 64 (min (2 ^ 64 - 1) (s.regN (ltReg 0x50) + 1)) ∧ t.mem = s.mem) ∧
        (s.slateBehind k r = false → ∃ t, exec (.slateRetry k true) s = .next t ∧ t.slate.requests = s.slate.requests.eraseIdx k) ∧
        (s.slateBehind k r = true → exec (.slateRetry k true) s = .next s)))

/-- Derived. PROMOTE_WINDOW halves every access count, rounding down; PAGE_PROMOTION of the first queued page puts that page
into a frame with no dirty granule, in the first free frame while one is free, takes it from the queue and ends every
migration's waits; where the page has a failing line it stays queued and unpromoted in service, LT_STATUS shows the stall and
requests to it wait, and in test it leaves the queue. SCRUB moves on to the next line and counts it while scrubbing is on;
CLASS1_READ_AGE puts a pseudo-channel in read mode unless its write queue is full. None changes a byte of memory, so that
which pages are promoted shows in no read. (10_memory_tiers.md R284, R285, R286, R288, R291, R295, R296) -/
def Obligations.MigrationChangesNoContents : Prop :=
  ∀ (s : State),
    (∃ t, exec .promoteWindow s = .next t ∧ t.mem = s.mem ∧ t.slate.frames = s.slate.frames ∧
      t.slate.counts = (s.slate.counts.map (fun c => (c.1, c.2 / 2))).filter (fun c => decide (c.2 ≠ 0))) ∧
    (∀ page rest, s.slate.queue = page :: rest → s.poolFrames ≠ 0 → s.frameOf page = none →
      freeFrame s.slate.frames 0 < s.poolFrames → SMap.find? s.slate.frames (freeFrame s.slate.frames 0) = none →
      (s.pageFails page = false → ∃ t, exec .pagePromotion s = .next t ∧ t.mem = s.mem ∧ t.slate.queue = rest ∧ t.slate.migrating = [] ∧
        SMap.find? t.slate.frames (freeFrame s.slate.frames 0) = some ⟨page, [], false⟩ ∧
        (∀ f, f ≠ freeFrame s.slate.frames 0 → SMap.find? t.slate.frames f = SMap.find? s.slate.frames f)) ∧
      (s.pageFails page = true → ∃ t, exec .pagePromotion s = .next t ∧ t.mem = s.mem ∧ t.slate.frames = s.slate.frames ∧
        (s.testPhase = true → t.slate.queue = rest ∧ t.slate.migrating = []) ∧
        (s.testPhase = false → t.slate.queue = page :: rest ∧ t.slate.migrating = [page] ∧ t.rfld (ltReg 0) 0 0 = 1))) ∧
    (∀ st : StackId, s.cfgV 0 0x60A 0 24 ≠ 0 → ∃ t, exec (.scrub st) s = .next t ∧ t.mem = s.mem ∧
      (t.mc st.val).scrubAt = ((s.mc st.val).scrubAt + 1) % (96 * gib / 64) ∧
      t.reg (dieReg st.val 0x160) = BitVec.ofNat 64 (min (2 ^ 64 - 1) (s.regN (dieReg st.val 0x160) + 1))) ∧
    (∀ (st : StackId) (pc : Nat),
      ((s.channel (.hbm st.val (pc % 64))).writes < 64 → ∃ t, exec (.class1ReadAge st pc) s = .next t ∧ t.mem = s.mem ∧
        (SMap.getD (t.mc st.val).channels (pc % 64) {}).writeMode = false) ∧
      (64 ≤ (s.channel (.hbm st.val (pc % 64))).writes → exec (.class1ReadAge st pc) s = .next s))

/-- Derived. While the always-on domain runs, PACE_WINDOW adds 1 µs to local time modulo 2^48 and gives the CORE_PACE register
of each core that has a count the beats, cut at the target pace, and the monitor count; the registers of the cores without a
count, the cores, the slots and memory stay. Otherwise it does nothing. (17_pace_power_thermal.md R502, R503) -/
def Obligations.PaceWindowAdvancesTime : Prop :=
  ∀ (counts : List PaceCount) (s : State),
    (s.start.aoOn = true → ∃ t, exec (.paceWindow counts) s = .next t ∧ t.now = (s.now + 1) % 2 ^ 48 ∧
      (∀ i c, counts[i]? = some c → i < 256 → t.reg (pgReg (0x1000 + 8 * i)) =
        BitVec.ofNat 64 (min c.beats s.targetPace % 65536 + c.monitor % 65536 * 2 ^ 16)) ∧
      (∀ i, counts.length ≤ i → t.reg (pgReg (0x1000 + 8 * i)) = s.reg (pgReg (0x1000 + 8 * i))) ∧
      t.cores = s.cores ∧ t.jobs = s.jobs ∧ t.mem = s.mem) ∧
    (s.start.aoOn = false → exec (.paceWindow counts) s = .next s)

/-- Derived. While the always-on domain runs and Flint holds no rail, GOVERNOR_TICK moves the rail of each powered core-group
domain by the change that its lowest monitor pace and the target pace give, cut to the range from pace.v_min_mv to
pace.v_max_mv plus its trim, and leaves the rails of the other core-group domains; while Flint holds stress point S2 or S3 it
sets the rails to the voltage of that point. (17_pace_power_thermal.md R505, R508) -/
def Obligations.GovernorMovesEveryRail : Prop :=
  ∀ (s : State), s.start.aoOn = true → ∃ t, exec .governorTick s = .next t ∧ ∀ d, d < 32 →
    (d ∈ s.start.domainsUp → s.flintRail = none → t.rail d =
      (clampInt s.vMin (s.railTop d) (s.rail d + railChange (s.lowestMonitor d) s.targetPace)).toNat % 65536) ∧
    (∀ v, d ∈ s.start.domainsUp → s.flintRail = some v → t.rail d = v % 65536) ∧
    (d ∉ s.start.domainsUp → t.rail d = s.rail d)

/-- Derived. While the always-on domain runs, SLOPE_CEILING_TICK raises the ceiling of a core-group domain by one level, at
most to 64, where a start held at the head of its queue waits in it, lowers it by one where no start waits and the levels held
are below it, and leaves it otherwise; the cores, memory and the slots stay. (17_pace_power_thermal.md R510, R511) -/
def Obligations.SlopeCeilingMovesByOneLevel : Prop :=
  ∀ (s : State), s.start.aoOn = true → ∃ t, exec .slopeCeilingTick s = .next t ∧ t.cores = s.cores ∧ t.mem = s.mem ∧ t.jobs = s.jobs ∧
    ∀ d, d < 32 →
      ((∃ k ∈ s.pace.waiting, s.stillWaits k = true ∧ k / 32 / 8 = d) → t.ceiling d = min 64 (s.ceiling d + 1)) ∧
      ((∀ k ∈ s.pace.waiting, s.stillWaits k = true → k / 32 / 8 ≠ d) → s.levels d < s.ceiling d → t.ceiling d = s.ceiling d - 1) ∧
      ((∀ k ∈ s.pace.waiting, s.stillWaits k = true → k / 32 / 8 ≠ d) → s.ceiling d ≤ s.levels d → t.ceiling d = s.ceiling d)

/-- Derived. While the always-on domain runs, POWER_SAMPLE keeps the last 100 samples with the new one last, and one above
1.25 of the cap sets the power limit to 9/10 of itself, rounded down; POWER_DECREASE_TICK with the average above the cap sets
it to 99/100 rounded down, POWER_INCREASE_TICK with the average more than 25 W below the cap to 101/100 rounded up, at most
the pace ceiling; never below 256. Otherwise the limit stays. (17_pace_power_thermal.md R513, R514) -/
def Obligations.PowerLimitFollowsTheSamples : Prop :=
  ∀ (s : State), s.start.aoOn = true →
    (∀ w v, ∃ t, exec (.powerSample w v) s = .next t ∧
      t.pace.samples = (s.pace.samples ++ [w]).drop ((s.pace.samples ++ [w]).length - 100) ∧
      (5 * s.powerCap < 4 * w → t.pace.pPow = max 256 (9 * s.pace.pPow / 10)) ∧
      (4 * w ≤ 5 * s.powerCap → t.pace.pPow = s.pace.pPow)) ∧
    (s.powerCap * s.pace.samples.length < s.powerSum → ∃ t, exec .powerDecreaseTick s = .next t ∧
      t.pace.pPow = max 256 (99 * s.pace.pPow / 100) ∧ t.pace.samples = s.pace.samples) ∧
    (s.powerSum ≤ s.powerCap * s.pace.samples.length → exec .powerDecreaseTick s = .next s) ∧
    (s.powerSum + 25 * s.pace.samples.length < s.powerCap * s.pace.samples.length → ∃ t, exec .powerIncreaseTick s = .next t ∧
      t.pace.pPow = max 256 (min s.paceCeiling ((101 * s.pace.pPow + 99) / 100)) ∧ t.pace.samples = s.pace.samples) ∧
    (s.powerCap * s.pace.samples.length ≤ s.powerSum + 25 * s.pace.samples.length → exec .powerIncreaseTick s = .next s)

/-- Derived. While the always-on domain runs, SENSOR_READ takes the hottest junction and HBM readings as the temperatures;
each of the three junction conditions and the three HBM conditions of Table 17-4 holds afterwards when the reading is at or
above its threshold, or when it held and the reading is not more than 2 degrees below the threshold, and not otherwise. With
no reading the conditions stay. PACE_CALIBRATION in stage DOMAINS gives each powered core-group domain with a reading its gain
and its trim and holds its rail at pace.v_max_mv, and marks the calibration done. (17_pace_power_thermal.md R507, R516, R517,
Table 17-4) -/
def Obligations.SensorsEnterAndClearConditions : Prop :=
  ∀ (s : State),
    (∀ (j h : List Int) (vj vh : Int × Nat), s.start.aoOn = true → hottest j = some vj → hottest h = some vh →
      ∃ t, exec (.sensorRead j h) s = .next t ∧ t.pace.tempJ = vj.1 ∧ t.pace.tempH = vh.1 ∧
      (∀ k ∈ [0, 2, 4], k ∈ t.pace.thermal ↔ 8 * atD s.thermalLimits k 0 ≤ vj.1 ∨
        (k ∈ s.pace.thermal ∧ 8 * atD s.thermalLimits k 0 - 16 ≤ vj.1)) ∧
      (∀ k ∈ [1, 3, 5], k ∈ t.pace.thermal ↔ 8 * atD s.thermalLimits k 0 ≤ vh.1 ∨
        (k ∈ s.pace.thermal ∧ 8 * atD s.thermalLimits k 0 - 16 ≤ vh.1))) ∧
    (s.start.aoOn = true → ∃ t, exec (.sensorRead [] []) s = .next t ∧ t.pace.thermal = s.pace.thermal ∧ t.pace.tempJ = s.pace.tempJ) ∧
    (∀ (l : List CalReading), s.stage = 3 → ∃ t, exec (.paceCalibration l) s = .next t ∧ t.rfld (pgReg 0) 1 1 = 1 ∧
      ∀ d x, l[d]? = some x → d < 32 → d ∈ s.start.domainsUp →
        SMap.find? t.pace.gains d = some ((x.high : Int) - x.low, s.vMax - s.vMin) ∧ SMap.find? t.pace.trims d = some x.trim ∧
        t.rail d = s.vMax % 65536)

/-- Derived. With the always-on domain running and any of domains 0 to 48 on: PWR_EN_DEASSERT, UNDER_VOLTAGE and OVER_VOLTAGE
turn those domains off in stage OFF, losing the cores, the memories, the ports, the jobs and the settings and keeping the
queued journal entries, flash, the fuses and the waiting commands; the two input conditions owe one record of code 0x0901 for
domain 49 with action 7 to the next start, whose cause is then POWER_ON (its reading is a free value), and PWR_EN_DEASSERT
owes none. LOSS_OF_INPUT leaves the module as reset does but for flash, the fuses, PERST# and PWR_EN (and the model's own
output, free-value counter and queue of commands). (15_start_and_retention.md R452, R464, R465; 18_module_hardware.md R535) -/
def Obligations.InputEventsTurnTheModuleOff : Prop :=
  ∀ (s : State) (c : Instr), c ∈ [.pwrEnDeassert, .underVoltage, .overVoltage] →
    (s.start.aoOn = true → s.start.domainsOn ≠ [] → ∃ t, exec c s = .next t ∧
      t.stage = 0 ∧ t.start.domainsOn = [] ∧ t.start.domainsUp = [] ∧ t.start.aoOn = true ∧
      t.cores = [] ∧ t.mem = [] ∧ t.jobs = [] ∧ t.ports = [] ∧ t.cfg = [] ∧ t.image = none ∧
      t.journal.queue = s.journal.queue ∧ t.flash0 = s.flash0 ∧ t.flash1 = s.flash1 ∧ t.fuses = s.fuses ∧ t.pending = s.pending ∧
      (c = .pwrEnDeassert → t.start.pwrEn = false ∧ t.faults.owed = s.faults.owed) ∧
      (c ≠ .pwrEnDeassert → t.start.pwrEn = s.start.pwrEn ∧ t.start.cause = 1 ∧
        ∃ e : ErrInfo, t.faults.owed = s.faults.owed ++ [e] ∧ e.code = 0x0901 ∧ e.action = 7 ∧ e.d5 = 49) ∧
      (c = .underVoltage → t.start.input = false) ∧ (c = .overVoltage → t.start.overVolt = true)) ∧
    exec .lossOfInput s = .next { State.reset with
      fuses := s.fuses, pending := s.pending, freeCtr := s.freeCtr, out := s.out, flash0 := s.flash0, flash1 := s.flash1
      link := { State.reset.link with perst := s.link.perst }, start := { State.reset.start with pwrEn := s.start.pwrEn } }

/-- Derived. While the always-on domain runs, THERMAL_TRIP of a domain other than 49 enters stage OFF with the trip held,
THERMTRIP# asserted, the trip count one higher (saturating), and no domain of 0 to 46 on; a trip of domain 47 or 48 turns both
off as well, and any other leaves them as they were. The cores, memories and the ports are lost; flash and the queue of
commands stay. TRIP_RECOVERY has no effect while no trip is held. (17_pace_power_thermal.md R518) -/
def Obligations.ThermalTripDropsTheModule : Prop :=
  ∀ (s : State) (d : DomainId), (s.start.aoOn = true → d.val ≠ 49 → ∃ t, exec (.thermalTrip d) s = .next t ∧
      t.stage = 0 ∧ t.start.trip = true ∧ t.pins.thermTrip = true ∧
      t.cores = [] ∧ t.mem = [] ∧ t.ports = [] ∧ t.flash0 = s.flash0 ∧ t.flash1 = s.flash1 ∧ t.pending = s.pending ∧
      t.regN (pgReg 0x50) = min (2 ^ 64 - 1) (s.regN (pgReg 0x50) + 1) ∧
      (d.val = 47 ∨ d.val = 48 → t.start.domainsOn = [] ∧ t.start.domainsUp = []) ∧
      (d.val ≠ 47 ∧ d.val ≠ 48 → (∀ x, x ∈ t.start.domainsOn ↔ x ∈ s.start.domainsOn ∧ 47 ≤ x) ∧
        (∀ x, x ∈ t.start.domainsUp ↔ x ∈ s.start.domainsUp ∧ 47 ≤ x))) ∧
    (s.start.trip = false → exec .tripRecovery s = .next s)

/-- Derived. With nothing powered, no trip held and input, PWR_EN and no over-voltage present once the event has happened,
PWR_EN_ASSERT, INPUT_RISE and OVER_VOLTAGE_CLEAR begin a start: START_STATUS shows the cause due, else PWR_EN (2), in stage
OFF; domains 48 and 47 begin their ramps and no other; flash, the fuses, the queued journal entries, the records owed and the
queue of commands stay; the cores, memories, ports, jobs and settings begin anew. TRIP_RECOVERY while domains are up begins a
start with cause 4 that keeps those domains. An INPUT_RISE that starts the always-on domain shows cause 1 and samples the
SMBus address straps. (15_start_and_retention.md Table 15-1, R443, R446, R452; 17_pace_power_thermal.md R518;
18_module_hardware.md R535, R536, R542) -/
def Obligations.StartsBeginAnew : Prop :=
  ∀ (s : State), (∀ (c : Instr) (straps : Nat), c ∈ [.pwrEnAssert, .inputRise straps, .overVoltageClear] →
    s.start.trip = false → s.start.domainsOn = [] → s.start.pwrEn = true ∨ c = .pwrEnAssert → s.start.input = true ∨ c = .inputRise straps →
    s.start.overVolt = false ∨ c = .overVoltageClear → s.start.aoOn = true ∨ c = .inputRise straps →
    ∃ t, exec c s = .next t ∧ t.start.domainsOn = [48, 47] ∧ t.start.domainsUp = [] ∧ t.stage = 0 ∧
      t.rfld startStatus 15 8 = (if s.start.aoOn = true then (if s.start.cause = 0 then 2 else s.start.cause) else 1) % 256 ∧
      t.cores = [] ∧ t.mem = [] ∧ t.ports = [] ∧ t.jobs = [] ∧ t.cfg = [] ∧ t.image = none ∧
      t.journal.queue = s.journal.queue ∧ t.faults.owed = s.faults.owed ∧ t.flash0 = s.flash0 ∧ t.flash1 = s.flash1 ∧
      t.fuses = s.fuses ∧ t.pending = s.pending ∧
      t.pins.smbAddr = (if s.start.aoOn = true then s.pins.smbAddr else 0x58 + straps % 8)) ∧
    (s.start.trip = true → s.start.domainsUp ≠ [] → ∃ t, exec .tripRecovery s = .next t ∧ t.start.trip = false ∧
      t.start.domainsUp = s.start.domainsUp ∧ (∀ d, d ∈ t.start.domainsOn ↔ d ∈ s.start.domainsOn ∨ d = 48 ∨ d = 47) ∧
      t.rfld startStatus 15 8 = 4 ∧ t.cores = [] ∧ t.mem = [] ∧ t.ports = [] ∧ t.flash0 = s.flash0 ∧ t.flash1 = s.flash1 ∧ t.fuses = s.fuses)

/-- Derived. With domain 48 up, no trip held and the module not stopped, PERST_ASSERT, and with the function ready
FUNCTION_LEVEL_RESET and D3HOT_ENTRY, and with it ready and out of L0 LINK_LOSS_TIMEOUT, begin a start of cause 3: the
function is not ready, the domains that were on or up stay so, the cores, memories and ports begin anew, flash, the fuses and
the queue of commands stay. A function that is not ready takes no reset from the last three. LINK_LEAVES_L0 and LINK_RETURN
(of a ready function out of PERST#) only change L0, PERST_DEASSERT only releases PERST#, and FUNCTION_READY (with domains 47
and 48 up and PERST# released) makes the function ready with READY, rate and width in HL_STATUS. (13_host_link.md R404, Table
13-12; 15_start_and_retention.md R445, R446) -/
def Obligations.SelfResetsKeepPowerAndRetainedState : Prop :=
  ∀ (s : State), (∀ c, c ∈ [.perstAssert, .functionLevelReset, .d3hotEntry, .linkLossTimeout] →
    s.domainUp 48 = true → s.start.trip = false → s.stage ≠ 12 → s.link.ready = true ∨ c = .perstAssert →
    s.link.l0 = false ∨ c ≠ .linkLossTimeout → ∃ t, exec c s = .next t ∧
      t.link.ready = false ∧ t.link.l0 = false ∧ t.link.perst = (if c = .perstAssert then true else s.link.perst) ∧
      t.start.domainsUp = s.start.domainsUp ∧ (∀ d, d ∈ t.start.domainsOn ↔ d ∈ s.start.domainsOn ∨ d = 48 ∨ d = 47) ∧
      t.rfld startStatus 15 8 = 3 ∧ t.cores = [] ∧ t.mem = [] ∧ t.ports = [] ∧ t.flash0 = s.flash0 ∧ t.flash1 = s.flash1 ∧
      t.fuses = s.fuses ∧ t.pending = s.pending) ∧
    (s.link.ready = false → ∀ c, c ∈ [.functionLevelReset, .d3hotEntry, .linkLossTimeout, .linkReturn] → exec c s = .next s) ∧
    exec .linkLeavesL0 s = .next { s with link := { s.link with l0 := false } } ∧
    exec .perstDeassert s = .next { s with link := { s.link with perst := false } } ∧
    (s.link.ready = true → s.link.perst = false → exec .linkReturn s = .next { s with link := { s.link with l0 := true } }) ∧
    (s.link.perst = false → s.domainUp 47 = true → s.domainUp 48 = true → ∀ rate width, ∃ t,
      exec (.functionReady rate width) s = .next t ∧ t.link = { s.link with ready := true, l0 := true } ∧
      t.rfld hlStatus 0 0 = 1 ∧ t.rfld hlStatus 7 4 = rate % 16 ∧ t.rfld hlStatus 12 8 = width % 32 ∧
      ∀ o, o ≠ hlStatus → t.reg o = s.reg o)

/-- Derived. For a domain d in soft-start: SOFT_START_END with an output of at least half the target puts d among the domains
up, with its target in DOM_STATE and, exactly when the remote sense differs from the local one by more than 50 mV or lies
outside 0.2 to 1.5 times the target, bit d of START_SENSE_LOCAL; with a lower output, and with SHORTED_OUTPUT, d is off, bit d
of START_DOMAIN_FAIL and DEGRADED are set and MOD_FAULT# is asserted. While domain 48 is down, the record (0x0902 or 0x0901)
is owed to the next start. The start then goes on as its rows allow (BringUpFollowsTheRows). For a domain not in soft-start
neither command has an effect. (15_start_and_retention.md R444, R445, Table 15-2; 18_module_hardware.md R535) -/
def Obligations.RailChecksAtSoftStart : Prop :=
  ∀ (s : State) (d : DomainId) (r : RailReading), (s.ramping d.val = true →
    (r.target ≤ 2 * r.output → ∃ u : State, exec (.softStartEnd d r) s = .next u.advanceStart ∧
      u.start.domainsUp = s.start.domainsUp ++ [d.val] ∧ u.start.domainsOn = s.start.domainsOn ∧
      u.rfld (domState d.val) 15 0 = r.target % 65536 ∧ u.rfld (domState d.val) 32 32 = 1 ∧
      (r.remote + 50 < r.localMv ∨ r.localMv + 50 < r.remote ∨ 5 * r.remote < r.target ∨ 3 * r.target < 2 * r.remote →
        u.rfld (imgReg 0x810) d.val d.val = 1 ∧ (s.domainUp 48 = false → d.val ≠ 48 →
          u.faults.owed = s.faults.owed ++ [{ code := 0x0902, unit := 17, index := d.val, d5 := d.val }])) ∧
      (¬ (r.remote + 50 < r.localMv ∨ r.localMv + 50 < r.remote ∨ 5 * r.remote < r.target ∨ 3 * r.target < 2 * r.remote) →
        u.reg (imgReg 0x810) = s.reg (imgReg 0x810) ∧ u.faults = s.faults)) ∧
    (∀ c, c = .shortedOutput d ∨ c = .softStartEnd d r ∧ 2 * r.output < r.target → ∃ u : State, exec c s = .next u.advanceStart ∧
      d.val ∉ u.start.domainsOn ∧ u.start.domainsUp = s.start.domainsUp ∧ u.rfld (imgReg 0x808) d.val d.val = 1 ∧
      u.rfld startStatus 4 4 = 1 ∧ u.pins.modFault = true ∧ u.mem = s.mem ∧
      (s.domainUp 48 = false → ∃ f, u.faults.owed = s.faults.owed ++
        [{ code := 0x0901, unit := 17, index := d.val, action := 7, d5 := d.val, d6 := f }]))) ∧
  (s.ramping d.val = false → exec (.softStartEnd d r) s = .next s ∧ exec (.shortedOutput d) s = .next s)

/-- Derived. advanceStart, which every bring-up command ends with, does this. In stage OFF with no trip: it powers those of
domains 48 and 47 that are off, and while not both have settled or 48 has failed nothing more follows. In stage DOMAINS: it
powers row 2 (44, 45); while row 2 has not settled nothing more follows. A domain that failed at this start, or is dead, is
never powered. With a trip held, and in the stages VERIFY, JOURNAL, FABRIC and later, nothing follows.
(15_start_and_retention.md Table 15-1, R443, R444, R446; 17_pace_power_thermal.md R518) -/
def Obligations.BringUpFollowsTheRows : Prop :=
  ∀ (s : State) (add : List Nat → List Nat),
    (∀ l, add l = l.filter (fun d => !s.start.domainsOn.contains d && !s.domainFailed d && !s.pace.deadDomains.contains d)) →
    (s.start.trip = true ∨ s.stage ∉ [0, 3, 4] → s.advanceStart = s) ∧
    (s.start.trip = false → s.stage = 0 →
      (∃ d, d ∈ [48, 47] ∧ s.domainUp d = false ∧ s.domainFailed d = false ∧ d ∉ s.pace.deadDomains) ∨ s.domainUp 48 = false →
      s.advanceStart = { s with start := { s.start with domainsOn := s.start.domainsOn ++ add [48, 47] } }) ∧
    (s.start.trip = false → s.stage = 3 →
      (∃ d, d ∈ [44, 45] ∧ s.domainUp d = false ∧ s.domainFailed d = false ∧ d ∉ s.pace.deadDomains) →
      s.advanceStart = { s with start := { s.start with domainsOn := s.start.domainsOn ++ add [44, 45] } })

/-- Derived. In stage JOURNAL with no trip held and domain 48 up, and neither of domains 44 and 45 up, failed or dead,
JOURNAL_RESTORE enters stage DOMAINS with the journal's items and errors those that journalRead gives, CLOCK_STALE set, the
power limiter at the pace ceiling, and both domains ramping; in any other stage, or with domain 48 down, it has no effect.
HBM_INITIALISED and SLATE_INITIALISED leave their memory zero with a valid code in every line, mark it ready (the slate tier
then takes the BAR2 writes that flow control held, in order), leave the other memory's contents alone, and let the start go
on; they have no effect once done. (15_start_and_retention.md R446, R447, R450, R456; 10_memory_tiers.md R294;
17_pace_power_thermal.md R514) -/
def Obligations.RestoreAndMemoriesBringTheMachineUp : Prop :=
  ∀ (s : State), (s.stage = 2 → s.start.trip = false → s.domainUp 48 = true →
      (∀ d, d ∈ [44, 45] → s.domainUp d = false ∧ s.domainFailed d = false ∧ d ∉ s.pace.deadDomains ∧ d ∉ s.start.domainsOn) →
      ∃ t, exec .journalRestore s = .next t ∧ t.stage = 3 ∧ t.journal.restored = true ∧
        t.journal.items = s.journalRead.items ∧ t.journal.errors = s.journalRead.errors ∧ t.rfld startStatus 6 6 = 1 ∧
        t.start.domainsOn = s.start.domainsOn ++ [44, 45] ∧ t.mem = s.mem ∧ t.flash0 = s.flash0 ∧ t.flash1 = s.flash1) ∧
    (s.stage ≠ 2 ∨ s.domainUp 48 = false → exec .journalRestore s = .next s) ∧
    (s.start.hbmReady = false → s.stage = 3 ∨ s.stage = 4 → s.settled ((List.range 8).map (· + 32)) = true →
      ∃ u, exec .hbmInitialised s = .next (State.advanceStart u) ∧ u.start.hbmReady = true ∧
        (∀ a, a < slateBase → Mem.get u.mem a = 0 ∧ ∀ k, (a, k) ∉ u.memErr) ∧
        u.mem = s.mem.filter (fun c => decide (slateBase ≤ c.1))) ∧
    (s.start.slateReady = false → s.domainUp 46 = true → s.stage ∈ [3, 4, 10] →
      ∃ u, exec .slateInitialised s = .next (State.advanceStart u) ∧ u.start.slateReady = true ∧ u.link.earlyWrites = [] ∧
        u.mem = s.link.earlyWrites.foldl (fun m x => Mem.putBytes m (s.bar2Base + x.1) x.2) (s.mem.filter (fun c => decide (c.1 < slateBase)))) ∧
    (s.start.hbmReady = true → exec .hbmInitialised s = .next s) ∧ (s.start.slateReady = true → exec .slateInitialised s = .next s)

/-- Derived. For a command whose argument a has been read: a code that Table 13-10 does not list returns status 1; in recovery
mode RESTORE, GROW, SHUTDOWN and ERRLOG return status 3; otherwise ATTEST returns status 2 unless a is 32 bytes, and then
status 0 with the report of Table 14-13 followed by its signature; ERRLOG returns status 2 unless a is 8 bytes naming no index
beyond the next record, and then status 0 with the records from that index onward, 64 bytes each; RESTORE returns status 2 for
a step above the last committed one, 0 on a member of a running job (which then proposes that step) and 3 on a module that is
no member; GROW returns 2 for an argument that is not 1 to 4,095 serials, 3 on a module that runs no primary job, and else 0
with the serials announced and a re-sharding requested. HL_MBOX_RESP shows status, tag and length. MAILBOX_ARGUMENT_READ keeps
the bytes read, tries a failed read again up to four times in all, and then returns status 2. (13_host_link.md R402, Table
13-10, R561, R363; 14_boot_image.md R412, R441; 16_faults_and_recovery.md R497) -/
def Obligations.MailboxCommandsEndWithTheirStatus : Prop :=
  ∀ (s : State) (m : MboxRun) (ends : Instr → Nat → List Byte → State → Prop), s.link.mbox = some m →
    (∀ c st resp t, ends c st resp t ↔ exec c s = .next t ∧ t.link.mbox = none ∧ t.mem = s.mem ∧ t.cores = s.cores ∧
      t.regN (liveReg 0x118) = st + m.tag % 2 ^ 16 * 2 ^ 16 + resp.length % 2 ^ 32 * 2 ^ 32 ∧
      (resp ≠ [] → .hostWrite (s.regN (liveReg 0x108)) resp ∈ t.out)) →
    (m.cmd ∉ [0x01, 0x02, 0x03, 0x10, 0x11, 0x20, 0x30] → ∃ t, ends .mailboxReservedCode 1 [] t) ∧
    (∀ a, m.arg = some a →
      (s.recovery = true → ∀ c k, (c, k) ∈ [(.mboxRestore, 0x10), (.grow, 0x11), (.shutdownDrain, 0x20), (.shutdownImmediate, 0x20),
        (.shutdownTimeout, 0x20), (.errlog, 0x30)] → m.cmd = k → ∃ t, ends c 3 [] t) ∧
      (m.cmd = 0x01 → a.length ≠ 32 → ∃ t, ends .attest 2 [] t) ∧
      (m.cmd = 0x01 → a.length = 32 → ∃ t, ends .attest 0 (s.report a ++ edSign s.fuses.deviceSeed (s.report a)) t) ∧
      (s.recovery = false →
        (m.cmd = 0x30 → a.length ≠ 8 ∨ s.regN (faultReg 8) < leNat (a.take 8) → ∃ t, ends .errlog 2 [] t) ∧
        (m.cmd = 0x30 → a.length = 8 → leNat (a.take 8) ≤ s.regN (faultReg 8) →
          ∃ t, ends .errlog 0 ((s.recordsFrom (leNat (a.take 8))).flatMap wordsBytes) t) ∧
        (m.cmd = 0x10 → a.length ≠ 8 ∨ (s.job 0).committed < leNat (a.take 8) → ∃ t, ends .mboxRestore 2 [] t) ∧
        (m.cmd = 0x10 → a.length = 8 → leNat (a.take 8) ≤ (s.job 0).committed → (s.job 0).member = false → ∃ t, ends .mboxRestore 3 [] t) ∧
        (m.cmd = 0x10 → a.length = 8 → leNat (a.take 8) ≤ (s.job 0).committed → (s.job 0).member = true → (s.job 0).admitted = true →
          (s.job 0).halted = false → s.stage = 8 → s.inRollback 0 = false →
          ∃ t, ends .mboxRestore 0 [] t ∧ t.faults = { s.faults with named := some (leNat (a.take 8)) }) ∧
        (m.cmd = 0x11 → growArg a = none → ∃ t, ends .grow 2 [] t) ∧
        (∀ l, m.cmd = 0x11 → growArg a = some l → s.jobRunning = false → ∃ t, ends .grow 3 [] t) ∧
        (∀ l, m.cmd = 0x11 → growArg a = some l → s.jobRunning = true →
          ∃ t, ends .grow 0 [] t ∧ t.link.grown = distinctUp (s.link.grown ++ l) ∧ (t.job 0).wantReshard = true))) ∧
    (m.arg = none →
      (∀ bs, exec (.mailboxArgumentRead (.ok bs)) s = .next { s with link := { s.link with mbox := some { m with arg := some (bs.take m.len) } } }) ∧
      (m.tries < 3 → exec (.mailboxArgumentRead .failed) s = .next (State.emit { s with link := { s.link with mbox := some { m with tries := m.tries + 1 } } }
        (.hostRead (s.regN (liveReg 0x108)) m.len))) ∧
      (3 ≤ m.tries → ∃ t, ends (.mailboxArgumentRead .failed) 2 [] t))

/-- Derived. While the journal is restored, domain 48 is up and a flash device answers, JOURNAL_FLUSH takes the first
retain.max_entries_per_s entries of the retention RAM (all of them where it holds fewer), in order: they leave the queue, the
retained items and errors become those that applying them in order gives, and SEQ advances by their number; nothing of the
machine outside flash, the journal and its registers changes. While the journal is not restored, domain 48 is down or no
device answers, it has no effect. (15_start_and_retention.md R451, R452, R453) -/
def Obligations.JournalFlushProgramsInOrder : Prop :=
  ∀ (s : State), (s.journalReady = true → ∃ t, exec .journalFlush s = .next t ∧
      t.journal.queue = s.journal.queue.drop (s.modCfg 0x8A02 256) ∧
      (t.journal.items, t.journal.errors) = (s.journal.queue.take (s.modCfg 0x8A02 256)).foldl applyEntry (s.journal.items, s.journal.errors) ∧
      t.journal.seq = s.journal.seq + min (s.modCfg 0x8A02 256) s.journal.queue.length ∧
      t.mem = s.mem ∧ t.cores = s.cores ∧ t.jobs = s.jobs ∧ t.ports = s.ports ∧ t.start = s.start ∧ t.fuses = s.fuses ∧
      (s.flash0.answers = false → t.flash0 = s.flash0) ∧ (s.flash1.answers = false → t.flash1 = s.flash1)) ∧
    (s.journalReady = false → exec .journalFlush s = .next s)

/-- Derived. For an IMAGE_WRITE whose argument has been read: a bad argument returns 2; while the booted slot is in TRIAL, 3;
an offset that is neither 0 nor the slot's IMAGE_LEN, or an image past 0x05FF_0000 bytes, 2; a failed read of host memory or a
source past BAR2 (log entry 166), 2; otherwise, where a source in BAR2 is read and stalled by no slate line, 0, with the bytes
in the flash of the slot that is not booted, from 0x10000 plus the offset, IMAGE_LEN at their end, and the other device
unchanged. ABANDON makes that slot EMPTY with status 0. ACTIVATE makes it TRIAL with status 0 where it verifies, else BAD with
status 3 and the IMG_REJECT value. CONFIRM returns 3 unless the booted slot is in TRIAL. An argument that names no action
returns 2. (14_boot_image.md R438, R439; 13_host_link.md R373, R402) -/
def Obligations.ImageUpdatesTouchTheOtherSlot : Prop :=
  ∀ (s : State) (m : MboxRun) (a : List Byte) (ends : Instr → Nat → List Byte → State → Prop), s.link.mbox = some m → m.arg = some a →
    (∀ c st resp t, ends c st resp t ↔ exec c s = .next t ∧ t.link.mbox = none ∧ t.mem = s.mem ∧ t.cores = s.cores ∧
      t.regN (liveReg 0x118) = st + m.tag % 2 ^ 16 * 2 ^ 16 + resp.length % 2 ^ 32 * 2 ^ 32) →
    ∀ x, x = s.otherSlot → ∀ trial, trial = decide ((s.image.map (fun b => (s.cb b.slot).state)).getD 0 = 3) →
    (m.cmd = 0x02 → (∀ res, writeArg a = none → ∃ t, ends (.imageWrite res) 2 [] t) ∧
      ∀ w, writeArg a = some w →
        (∀ res, trial = true → ∃ t, ends (.imageWrite res) 3 [] t) ∧
        (∀ res, trial = false → (w.off ≠ 0 ∧ w.off ≠ (s.cb x).len) ∨ 0x05FF0000 < w.off + w.len → ∃ t, ends (.imageWrite res) 2 [] t) ∧
        (trial = false → w.off = 0 ∨ w.off = (s.cb x).len → w.off + w.len ≤ 0x05FF0000 →
          (w.bar2 = false → ∃ t, ends (.imageWrite .failed) 2 [] t) ∧
          (∀ res, w.bar2 = true → s.link.barGib * gib < w.src + w.len → ∃ t, ends (.imageWrite res) 2 [] t) ∧
          ∀ res bs r, r = State.bar2Source { s with slate := { s.slate with blocked := none } } w →
            (w.bar2 = true ∧ w.src + w.len ≤ s.link.barGib * gib ∧ r.st.slate.blocked = none ∧ r.bytes = some bs) ∨ (w.bar2 = false ∧ res = .ok bs) →
            ∃ t, ends (.imageWrite res) 0 [] t ∧ t.regN (imgReg 0x50) = w.off + w.len ∧
              (∀ i, i < (bs.take w.len).length → (if x = 0 then t.flash0 else t.flash1).read (0x10000 + w.off + i) 1 = [(bs.take w.len).getD i 0]) ∧
              (if x = 0 then t.flash1 = s.flash1 else t.flash0 = s.flash0))) ∧
    (m.cmd = 0x03 → s.recovery = false →
      (activateAction a = none → ∀ c, c ∈ [.activate, .confirm, .abandon] → ∃ t, ends c 2 [] t) ∧
      (activateAction a = some 1 → (s.verify x = none → ∃ t, ends .activate 0 [] t ∧
          (if x = 0 then t.rfld (imgReg 0) 10 8 = 3 ∧ t.flash1 = s.flash1 else t.rfld (imgReg 0) 14 12 = 3 ∧ t.flash0 = s.flash0)) ∧
        (∀ e, s.verify x = some e → ∃ t, ends .activate 3 (leBytes 8 (e.word x)) t ∧
          (if x = 0 then t.rfld (imgReg 0) 10 8 = 5 else t.rfld (imgReg 0) 14 12 = 5))) ∧
      (activateAction a = some 2 → trial = false → ∃ t, ends .confirm 3 [] t) ∧
      (activateAction a = some 2 → trial = true → ∃ t, ends .confirm 0 [] t ∧ s.fuses.svn ≤ t.fuses.svn) ∧
      (activateAction a = some 3 → ∃ t, ends .abandon 0 [] t ∧
        (if x = 0 then t.rfld (imgReg 0) 10 8 = 0 ∧ t.flash1 = s.flash1 else t.rfld (imgReg 0) 14 12 = 0 ∧ t.flash0 = s.flash0)))

/-- Derived. For a SHUTDOWN command whose argument has been read, outside recovery: an argument that is not 8 bytes of mode 0
or 1 returns 2; mode 1 (SHUTDOWN_IMMEDIATE), mode 0 on a module that is no member or has drained (SHUTDOWN_DRAIN), and
SHUTDOWN_TIMEOUT in stage SHUTDOWN leave stage STOPPED with every port OFF for reason 1, the cores and memories gone, no
domain of 0 to 46 on, the mailbox free and status 0, or 3 for the timeout. A drain that has not finished leaves the command
running in stage SHUTDOWN; SHUTDOWN_TIMEOUT in any other stage has no effect. (15_start_and_retention.md R463, Table 15-5;
13_host_link.md R402) -/
def Obligations.ShutdownStopsTheModule : Prop :=
  ∀ (s : State) (m : MboxRun) (a : List Byte) (stops : Instr → Nat → Prop), s.link.mbox = some m → m.arg = some a → m.cmd = 0x20 → s.recovery = false →
    (∀ c st, stops c st ↔ ∃ t, exec c s = .next t ∧ t.stage = 12 ∧ (∀ p, p < 16 → (t.port p).state = 0 ∧ (t.port p).reason = 1) ∧
      t.cores = [] ∧ t.mem = [] ∧ (∀ d, d ∈ t.start.domainsOn ↔ d ∈ s.start.domainsOn ∧ 47 ≤ d) ∧
      (∀ d, d ∈ t.start.domainsUp ↔ d ∈ s.start.domainsUp ∧ 47 ≤ d) ∧ t.link.mbox = none ∧
      t.regN (liveReg 0x118) = st + m.tag % 2 ^ 16 * 2 ^ 16) →
    (shutdownMode a = none → ∀ c, c ∈ [.shutdownDrain, .shutdownImmediate] → ∃ t, exec c s = .next t ∧ t.link.mbox = none ∧
      t.regN (liveReg 0x118) = 2 + m.tag % 2 ^ 16 * 2 ^ 16 ∧ t.stage = s.stage ∧ t.start = s.start ∧ t.mem = s.mem) ∧
    (shutdownMode a = some 1 → stops .shutdownImmediate 0 ∧ exec .shutdownDrain s = .next s) ∧
    (shutdownMode a = some 0 → exec .shutdownImmediate s = .next s ∧
      ((s.job 0).member = false ∨ (s.job 0).admitted = false → stops .shutdownDrain 0) ∧
      (s.stage = 11 → s.drained = true → stops .shutdownDrain 0) ∧
      ((s.job 0).member = true → (s.job 0).admitted = true → s.stage = 11 → s.drained = false → exec .shutdownDrain s = .next s) ∧
      ((s.job 0).member = true → (s.job 0).admitted = true → s.stage ≠ 11 → s.stepInProgress ≤ (s.job 0).committed ∧ s.unacked 0 = 0 → stops .shutdownDrain 0) ∧
      ((s.job 0).member = true → (s.job 0).admitted = true → s.stage ≠ 11 → (s.job 0).committed < s.stepInProgress ∨ s.unacked 0 ≠ 0 → ∃ t, exec .shutdownDrain s = .next t ∧
        t.stage = 11 ∧ t.link = s.link ∧ t.start = { s.start with shutdown := s.stepInProgress } ∧ t.mem = s.mem ∧ t.jobs = s.jobs)) ∧
    (s.stage = 11 → stops .shutdownTimeout 3) ∧ (s.stage ≠ 11 → exec .shutdownTimeout s = .next s)

/-- Stated. For every live-setting register and all values v and w, while the host link answers, a LIVE_SETTING_WRITE of v
followed by one of w gives exactly the state that the write of w alone gives, so that v leaves no effect; in it w is staged,
the value in force has not changed, and when the staged value takes effect the register holds w. A REGISTER_WRITE to that
register is the same write. (R10) -/
def Obligations.LastStagedValueTakesEffect : Prop :=
  ∀ (off : Nat) (v w : Word) (s : State), s.hostUp = true → liveOffset off = true →
    ∃ t u, exec (.liveSettingWrite off v) s = .next t ∧ exec (.liveSettingWrite off w) t = .next u ∧
      exec (.liveSettingWrite off w) s = .next u ∧ exec (.registerWrite off w) s = .next u ∧
      SMap.find? u.staged off = some w ∧ u.reg off = s.reg off ∧ (u.applyLive off).reg off = w

/-- Stated. For every state with HOLD clear and every agreement group that has a staged value and fails its check, a commit
point (of a step or an idle one) leaves no value of the group staged and every register of the group at the value that was in
force; a later commit point, too, leaves these registers as they are. (R434) -/
def Obligations.RejectedGroupsAreDiscarded : Prop :=
  ∀ (s : State) (step : Option Nat) (g : List Nat), s.rfld (liveReg 0x40) 0 0 = 0 → g ∈ liveGroups →
    (∃ o ∈ g, SMap.find? s.staged o ≠ none) → s.groupCode g ≠ 0 → ∀ o ∈ g,
      SMap.find? (s.liveCommit step).staged o = none ∧ (s.liveCommit step).reg o = s.reg o ∧
      ∀ later : Option Nat, ((s.liveCommit step).liveCommit later).reg o = s.reg o

/-- Derived. While the primary job is not running and a live setting has been written: with HOLD clear, IDLE_COMMIT_POINT
answers a state in which every group that passes its check is in force whole with nothing of it staged, and every other group
that had a staged value has lost it, keeps the values in force, and sets REJECTED; HL_LIVE_COMMIT_STEP does not change; with
HOLD set it changes nothing. A host write of 1 to HOLD sets it and leaves every staged value and every value in force; a write
of 0 clears it, and where HOLD was set while the primary job is not running the groups are taken at once in the same way.
(13_host_link.md R403; 14_boot_image.md R433, R434, R435) -/
def Obligations.IdleCommitsTakeStagedValues : Prop :=
  ∀ (s : State) (taken : State → Prop), (∀ t, taken t ↔ t.reg (liveReg 0x38) = s.reg (liveReg 0x38) ∧ ∀ g ∈ liveGroups,
      (s.groupCode g = 0 → ∀ o ∈ g, t.reg o = s.liveValue o ∧ SMap.find? t.staged o = none) ∧
      (s.groupCode g ≠ 0 → (∃ o ∈ g, SMap.find? s.staged o ≠ none) → t.rfld (liveReg 0x30) 0 0 = 1 ∧
        ∀ o ∈ g, t.reg o = s.reg o ∧ SMap.find? t.staged o = none)) →
    (s.notRunning = true → s.link.liveWritten = true → s.rfld (liveReg 0x40) 0 0 = 0 →
      ∃ t, exec .idleCommitPoint s = .next t ∧ taken t ∧ t.link.liveWritten = false) ∧
    (s.rfld (liveReg 0x40) 0 0 = 1 → exec .idleCommitPoint s = .next s) ∧
    (s.hostUp = true → (∀ v : Word, v &&& 1 = 1 → ∃ t, exec (.hlLiveHold v) s = .next t ∧ t.rfld (liveReg 0x40) 0 0 = 1 ∧
        t.staged = s.staged ∧ ∀ o, liveOffset o = true → t.reg o = s.reg o) ∧
      (∀ v : Word, v &&& 1 = 0 → s.rfld (liveReg 0x40) 0 0 = 1 → s.notRunning = true → ∃ t, exec (.hlLiveHold v) s = .next t ∧
        t.rfld (liveReg 0x40) 0 0 = 0 ∧ taken t) ∧
      (∀ v : Word, v &&& 1 = 0 → s.rfld (liveReg 0x40) 0 0 = 0 ∨ s.notRunning = false → ∃ t, exec (.hlLiveHold v) s = .next t ∧
        t.rfld (liveReg 0x40) 0 0 = 0 ∧ t.staged = s.staged ∧ ∀ o, liveOffset o = true → t.reg o = s.reg o))

/-- Derived. While the host link answers: an aligned 64-bit write of a plain BAR0 register (none of the ring registers,
acknowledgements, live settings, HOLD, restore and mailbox doorbells, which have meanings of their own) gives it the value
that its access codes give, and leaves the other registers, the cores, memory and the slots; a narrower or unaligned write
changes nothing but HL_BAD_ACCESS, which grows by one; a bad read returns zeros and counts one; a BAR2 write within the BAR
puts its bytes and no other byte into memory, changing of the registers no others than the controllers' counters, or, before
the slate tier is initialised, waits behind earlier ones; a BAR2 read in a stage that forbids it is answered with Completer
Abort and counted; the ingest fence returns HL_INGEST_EPOCH once no write waits, and waits while one does. RESIZABLE_BAR takes
a power of two of GiB up to host.bar2_gib. (00_scope.md R8, Table 0-2; 13_host_link.md R373, R375, R387;
15_start_and_retention.md R447) -/
def Obligations.HostAccessesOfTheBars : Prop :=
  ∀ (s : State), s.hostUp = true →
    (∀ (off : Nat) (v : Word), off % 8 = 0 → off < 0x04000000 → (off < 0x1000 ∨ 0x1828 ≤ off) → (off < expReg 0x20 ∨ expReg 0x40 ≤ off) →
      off ≠ expReg 0x140 → off ≠ liveReg 0x40 → off ≠ liveReg 0x110 → liveOffset off = false → ∃ t, exec (.registerWrite off v) s = .next t ∧
        t.reg off = (regAccess off).write (s.reg off) v ∧ (∀ p, p ≠ off → t.reg p = s.reg p) ∧ t.cores = s.cores ∧ t.mem = s.mem ∧ t.jobs = s.jobs) ∧
    (∀ (off : Nat) (v : Word), off % 8 ≠ 0 → off < 0x04000000 → exec (.registerWrite off v) s = .next (s.inc hlBadAccess 1)) ∧
    (∀ (off len : Nat) (v : Word), off < 0x04000000 → len ≠ 8 ∨ off % 8 ≠ 0 → exec (.narrowerWrite off len v) s = .next (s.inc hlBadAccess 1)) ∧
    (∀ off len : Nat, off < 0x04000000 → (len ≠ 8 ∨ off % 8 ≠ 0) → (len ≠ 4 ∨ off % 4 ≠ 0) →
      exec (.bar0BadRead off len) s = .next ((s.inc hlBadAccess 1).emit (.completion (List.replicate len 0)))) ∧
    (∀ (off : Nat) (bs : List Byte), off + bs.length ≤ s.link.barGib * gib →
      (s.start.slateReady = true → ∃ t, exec (.bar2Write off bs) s = .next t ∧ (∀ i, i < bs.length → Mem.get t.mem (s.bar2Base + off + i) = bs.getD i 0) ∧
        (∀ a, a < s.bar2Base + off ∨ s.bar2Base + off + bs.length ≤ a → Mem.get t.mem a = Mem.get s.mem a) ∧ t.cores = s.cores ∧
        (∀ o, o < 0x20000 → o < 0x12000 ∨ 0x13000 ≤ o → t.reg o = s.reg o)) ∧
      (s.start.slateReady = false → exec (.bar2Write off bs) s =
        .next { s with link := { s.link with earlyWrites := s.link.earlyWrites ++ [(off, bs)] } })) ∧
    (∀ off : Nat, s.stage ∉ [6, 7, 8, 9, 10] → exec (.bar2EarlyRead off) s = .next ((s.inc hlBadAccess 1).emit .completerAbort)) ∧
    (s.link.earlyWrites = [] → exec .ingestFence s = .next (s.emit (.completion (leBytes 8 (s.regN 0x1810))))) ∧
    (s.link.earlyWrites ≠ [] → exec .ingestFence s = .next s) ∧
    (∀ k : Nat, k ≤ 8 → 2 ^ k ≤ s.modCfg 0x903 16 → ∃ t, exec (.resizableBar (2 ^ k)) s = .next t ∧ t.link.barGib = 2 ^ k ∧ t.mem = s.mem ∧
      t.cores = s.cores) 

/-- Derived. While the host link answers: a doorbell, configuration or resume write to a ring that is then valid, disabled or
faulted is the plain register write; one that leaves it enabled, unfaulted and invalid faults the ring with code 6 at its
present entry. A ring that serves takes the descriptor read, faults with code 1 where it is bad, and on a failed read tries
again, counting the retry, and faults with code 4 at the fourth failure. A frame read in full whose CHECK, header and sequence
number hold becomes the ring's frame; a CHECK failure tries again or faults with code 3 at the fourth; a bad header faults
with code 2, a lower sequence number with code 5. A frame whose sequence number is not expected, or that has landed, is
counted in HL_FRAME_SKIP or HL_FRAME_DUP and its entry is passed; one of a step beyond the second after the committed one
holds its ring; any other lands. (13_host_link.md R379, R381, R382, R383, R384, R385, Table 13-5) -/
def Obligations.IngestRingsTakeTheirFrames : Prop :=
  ∀ (s : State) (r : RingId), s.hostUp = true →
    (∀ (v : Word) (c : Instr) (off : Nat), (c, off) ∈ [(.ringDoorbell r v, 0x10), (.ringConfig r v, 8), (.ringResume r v, 0x28)] →
      ∀ u, u = s.writePlain (ringReg r.val off) v → u.reg (ringReg r.val off) = (regAccess (ringReg r.val off)).write (s.reg (ringReg r.val off)) v ∧
        (u.ringEnabled r.val = false ∨ u.ringValid r.val = true ∨ u.ringFaulted r.val = true → exec c s = .next u) ∧
        (u.ringEnabled r.val = true → u.ringValid r.val = false → u.ringFaulted r.val = false → ∃ t, exec c s = .next t ∧
          t.ringFaulted r.val = true ∧ t.rfld (ringReg r.val 0x20) 15 8 = 6 ∧
          t.rfld (ringReg r.val 0x18) 31 0 = u.rfld (ringReg r.val 0x18) 31 0 ∧ (t.ring r.val).desc = none)) ∧
    (s.ringServes r.val = true → ∀ (faults : Instr → Nat → Prop) (retries : Instr → Prop),
      (∀ c code, faults c code ↔ ∃ t, exec c s = .next t ∧ t.ringFaulted r.val = true ∧ t.rfld (ringReg r.val 0x20) 15 8 = code ∧
        t.rfld (ringReg r.val 0x18) 31 0 = s.rfld (ringReg r.val 0x18) 31 0 ∧ (t.ring r.val).desc = none ∧ (t.ring r.val).frame = none) →
      (∀ c, retries c ↔ ∃ t, exec c s = .next t ∧ (t.ring r.val).desc = none ∧ (t.ring r.val).frame = none ∧ (t.ring r.val).fails = (s.ring r.val).fails + 1 ∧
        t.reg (ringReg r.val 0x48) = BitVec.ofNat 64 (min (2 ^ 64 - 1) (s.regN (ringReg r.val 0x48) + 1)) ∧
        t.rfld (ringReg r.val 0x18) 31 0 = s.rfld (ringReg r.val 0x18) 31 0) →
      ((s.ring r.val).desc = none →
        ((s.ring r.val).fails < 3 → retries (.descriptorRead r .failed)) ∧ (3 ≤ (s.ring r.val).fails → faults (.descriptorRead r .failed) 4) ∧
        (∀ bs : List Byte, s.descOk (fieldAt bs 0 8) (fieldAt bs 8 8) = false → faults (.descriptorRead r (.ok bs)) 1) ∧
        (∀ bs : List Byte, s.descOk (fieldAt bs 0 8) (fieldAt bs 8 8) = true → ∃ t, exec (.descriptorRead r (.ok bs)) s = .next t ∧
          (t.ring r.val).desc = some (fieldAt bs 0 8, bits (fieldAt bs 8 8) 31 0, decide (bits (fieldAt bs 8 8) 32 32 = 1)))) ∧
      (∀ addr len, (s.ring r.val).desc = some (addr, len, false) → (s.ring r.val).frame = none →
        ((s.ring r.val).fails < 3 → retries (.frameRead r .failed)) ∧ (3 ≤ (s.ring r.val).fails → faults (.frameRead r .failed) 4) ∧
        (∀ bs : List Byte, bs.length < len ∨ frameChecks (bs.take len) = false →
          ((s.ring r.val).fails < 3 → retries (.frameRead r (.ok bs))) ∧ (3 ≤ (s.ring r.val).fails → faults (.frameRead r (.ok bs)) 3)) ∧
        (∀ bs : List Byte, len ≤ bs.length → frameChecks (bs.take len) = true →
          (s.headerOk (s.ringSlot r.val) (bs.take len) = false → faults (.frameRead r (.ok bs)) 2) ∧
          (s.headerOk (s.ringSlot r.val) (bs.take len) = true →
            (∀ q, (s.ring r.val).lastSeq = some q → frameSeq (bs.take len) < q → faults (.frameRead r (.ok bs)) 5) ∧
            ((∀ q, (s.ring r.val).lastSeq = some q → q ≤ frameSeq (bs.take len)) → ∃ t, exec (.frameRead r (.ok bs)) s = .next t ∧
              (t.ring r.val).frame = some (bs.take len) ∧ (t.ring r.val).fails = 0 ∧ (t.ring r.val).lastSeq = some (frameSeq (bs.take len)))))) ∧
      (∀ (f : List Byte) (slot : Nat) (p : FramePlace), (s.ring r.val).frame = some f → slot = s.ringSlot r.val → (s.job slot).member = true →
        (s.job slot).restore.isOpen = false →
        (s.framePlace slot (frameSeq f) = none → exec (.frameLanding r) s = .next (s.dropFrame r.val 0x38).refreshIngest) ∧
        (s.framePlace slot (frameSeq f) = some p →
          (p.mb % (s.job slot).ranks.length ≠ (s.job slot).position ∨ p.step ≤ (s.job slot).restore.step →
            exec (.frameLanding r) s = .next (s.dropFrame r.val 0x38).refreshIngest) ∧
          (p.mb % (s.job slot).ranks.length = (s.job slot).position → (s.job slot).restore.step < p.step →
            (SMap.find? (s.job slot).landed (frameSeq f) ≠ none ∨ p.step ≤ (s.job slot).committed →
              exec (.frameLanding r) s = .next (s.dropFrame r.val 0x40).refreshIngest) ∧
            (SMap.find? (s.job slot).landed (frameSeq f) = none → (s.job slot).committed + 2 < p.step → exec (.frameLanding r) s = .next s.refreshIngest) ∧
            (SMap.find? (s.job slot).landed (frameSeq f) = none → (s.job slot).committed < p.step → p.step ≤ (s.job slot).committed + 2 →
              exec (.frameLanding r) s = .next (s.landFrame r.val slot p f).refreshIngest)))))

/-- Derived. While the host link answers and phase 10 of the slot stands for no lost input: EXPORT_ROW, EXPORT_NUMERICS,
EXPORT_MAP, EXPORT_MANIFEST and, where its record can be read, EXPORT_SWEEP take the first record due. With room below
HL_EXP_RPTR plus the ring's size it goes whole to the ring at the write pointer, or to the ring's start where it would cross
the end; the write pointer passes the fill and the record, EXPORT_FULL is clear, the record leaves the list of those due, and
a manifest is kept as written. Without room EXPORT_FULL is set, the write pointer stays and the record stays due. A sweep
whose record meets a slate line that completes no request is held by the slate-tier controller and comes again. EXPORT_DENSE
with room, and no such line, writes the records of a slice whose buffer is complete, and it is no longer due. EXPORT_RELEASE
is the write of HL_EXP_RPTR, EXPORT_FENCE returns the write pointer, and ACK_STEP of a step above HL_ACK_STEP whose manifest
is written becomes HL_ACK_STEP, any other being counted alone. (13_host_link.md R388, R389, R390, R391, R392, R393, R394,
R395, R396) -/
def Obligations.ExportRecordsFollowEachOther : Prop :=
  ∀ (s : State) (sl : SlotId) (writes waits : State → Instr → Nat → Nat → Nat → Nat → List Byte → (ExportSlot → ExportSlot) → Prop), s.hostUp = true →
    (∀ u c kind step w2 w3 body f, writes u c kind step w2 w3 body f ↔
      ∀ rec_, rec_ = recordHeader kind sl.val (32 + body.length) step w2 w3 ++ body → u.expRoom rec_.length = true →
        ∃ t, exec c s = .next t ∧ .hostWrite (u.regN (expReg 0) + (u.expPtr + u.expTail rec_.length) % u.expSize) rec_ ∈ t.out ∧
          t.expPtr = (u.expPtr + u.expTail rec_.length + rec_.length) % 2 ^ 64 ∧ t.rfld (expReg 0x40) 8 8 = 0 ∧ t.mem = u.mem ∧
          (t.job sl.val).exp = f { (u.job sl.val).exp with
            records := SMap.upd (u.job sl.val).exp.records step 0 (· + 1)
            bytes := SMap.upd (u.job sl.val).exp.bytes step 0 (· + rec_.length)
            hashed := SMap.upd (u.job sl.val).exp.hashed step [] (· ++ rec_) }) →
    (∀ u c kind step w2 w3 body f, waits u c kind step w2 w3 body f ↔
      u.expRoom (recordHeader kind sl.val (32 + body.length) step w2 w3 ++ body).length = false →
        ∃ t, exec c s = .next t ∧ t.rfld (expReg 0x40) 8 8 = 1 ∧ t.expPtr = u.expPtr ∧ t.mem = u.mem ∧ t.jobs = u.jobs) →
    (s.exportStopped sl.val = false →
      (∀ d rest, (s.job sl.val).owner.diffs = d :: rest → ∀ w, w = writes ∨ w = waits →
        w s (.exportRow sl) 1 d.step d.key.table (rowWord d.key) (padTo 8 d.bytes) id) ∧
      (∀ n body rest, (s.job sl.val).exp.numerics = (n, body) :: rest → ∀ w, w = writes ∨ w = waits →
        w s (.exportNumerics sl) 4 n 0 (crcWord body 0) body (fun e => { e with numerics := rest })) ∧
      (∀ n rest, (s.job sl.val).exp.maps = n :: rest → ∀ w, w = writes ∨ w = waits →
        w s (.exportMap sl) 5 n 0 (crcWord (s.mapBody sl.val) 0) (s.mapBody sl.val) (fun e => { e with maps := rest })) ∧
      (∀ n flags rest, (s.job sl.val).exp.manifests = (n, flags) :: rest → s.recordsDone sl.val n = true → s.modCfg 0x906 0 = 0 →
        ∀ w, w = writes ∨ w = waits → w s (.exportManifest sl) 6 n 0 0 (s.manifestWords sl.val n flags false ++ List.replicate 64 0) (fun e => { e with
          manifests := rest, written := e.written ++ [n], records := SMap.del e.records n, bytes := SMap.del e.bytes n, hashed := SMap.del e.hashed n })) ∧
      (∀ n k rest s0 m bs, (s.job sl.val).exp.sweeps = (n, k) :: rest → s.expRing = true → s0 = { s with slate := { s.slate with blocked := none } } →
        m = s0.memRead { cls := 4, unit := 12, slot := sl.val, step := n, phase := 10 } (s0.recordAddr sl.val k) ((s0.recLayout sl.val k.table).check + 4) →
        m.bytes = some bs → m.st.hostUp = true → (∀ a, m.st.slate.blocked = some a → exec (.exportSweep sl) s = .next (s.stallUnit 12 0 sl.val a)) ∧
        (m.st.slate.blocked = none → ∀ w, w = writes ∨ w = waits →
          w m.st (.exportSweep sl) 2 n k.table (rowWord k) (padTo 8 bs) (fun e => { e with sweeps := rest }))) ∧
      (∀ n g x l s0, s0 = { s with slate := { s.slate with blocked := none } } → (s.job sl.val).exp.dense.find? (fun y => decide (y.2 = g)) = some (n, g) → SMap.find? (s.job sl.val).slices g = some x →
        x.mirror = false → x.gatherStamp (n + 1) = n % 2 ^ 32 → s.expRing = true → (s0.densePages sl.val g n x).1 = some l →
        (s0.densePages sl.val g n x).2.slate.blocked = none → s0.expRoom (denseBytes l) = true → ∃ t, exec (.exportDense sl g) s = .next t ∧ (n, g) ∉ (t.job sl.val).exp.dense)) ∧
    (∀ v, exec (.exportRelease v) s = .next (s.writePlain (expReg 0x10) v)) ∧
    exec .exportFence s = .next (s.emit (.completion (leBytes 8 s.expPtr))) ∧
    (∀ v : Word, (s.regN (ackReg sl.val) < v.toNat → v.toNat ∈ (s.job sl.val).exp.written → ∃ t, exec (.ackStep sl v) s = .next t ∧
        t.reg (ackReg sl.val) = v ∧ t.jobs = s.jobs ∧ t.mem = s.mem ∧ (∀ i, i < 4 → i ≠ sl.val → t.reg (ackReg i) = s.reg (ackReg i))) ∧
      (v.toNat ≤ s.regN (ackReg sl.val) ∨ v.toNat ∉ (s.job sl.val).exp.written → exec (.ackStep sl v) s = .next (s.inc (expReg 0x48) 1)))

/-- Derived. While the host link answers and a slot is in restore: NEED_ENTRY_WRITE with room in the need ring writes the
first unwritten need at its place, passes HL_NEED_PROD by one and keeps the needs; without room it changes nothing.
RESTORE_RECORD with nothing written changes nothing; fewer than 32 bytes before the window's end are passed; a header that
gives no next record discards all that is written; one not yet written whole changes nothing; one that meets a slate line
which completes no request is held by the slate-tier controller and comes again; a record written whole is passed and, where
it can be read, goes to its place, a PAD record having no effect and one of another slot only being counted. RESTORE_DONE with
every need met sets HL_ACK_STEP of the slot to the restored step and closes the restore; with one unmet it sets its status bit
and closes nothing. The need-list registers, HL_NEED_CONS and HL_RESTORE_DB take the values written; an acknowledgement of the
present epoch takes each ring's consumer index to its producer index. (13_host_link.md R389, R398, R400, R401, Table 13-9) -/
def Obligations.RestoreServesItsNeedList : Prop :=
  ∀ (s : State), s.hostUp = true →
    (∀ slot n rest l base prod, s.restoring = some slot → (s.job slot).restore.unwritten = n :: rest → l = s.rfld (expReg 0x118) 4 0 →
      base = s.regN (expReg 0x110) → prod = s.regN (expReg 0x120) →
      (8 ≤ l → l ≤ 24 → base % 4096 = 0 → prod < s.regN (expReg 0x128) + 2 ^ l → ∃ t, exec .needEntryWrite s = .next t ∧
        .hostWrite (base + 16 * (prod % 2 ^ l)) (wordsBytes [BitVec.ofNat 64 (n.1 * 2 ^ 56 + n.2.1), BitVec.ofNat 64 n.2.2]) ∈ t.out ∧
        t.regN (expReg 0x120) = min (2 ^ 64 - 1) (prod + 1) ∧ (t.job slot).restore = { (s.job slot).restore with unwritten := rest }) ∧
      (s.regN (expReg 0x128) + 2 ^ l ≤ prod ∨ l < 8 ∨ 24 < l ∨ base % 4096 ≠ 0 → exec .needEntryWrite s = .next s)) ∧
    (∀ slot cons avail size left base s0 (does : State → Prop), s.restoring = some slot → s0 = { s with slate := { s.slate with blocked := none } } →
      (∀ t, does t ↔ exec .restoreRecord s = .next (match t.slate.blocked with | some a => s.stallUnit 12 0 slot a | none => t)) → cons = s.regN (expReg 0x138) → avail = s.regN (expReg 0x130) - cons →
      size = s.windowSize → left = size - cons % size → base = s.bar2Base + s.ingestWindow * 2 ^ 20 + cons % size →
      (avail = 0 → exec .restoreRecord s = .next s) ∧
      (0 < avail → left < 32 → exec .restoreRecord s = .next (s.setReg (expReg 0x138) (BitVec.ofNat 64 (cons + min left avail)))) ∧
      (32 ≤ avail → 32 ≤ left → ∀ m h len, m = s0.memRead (hlAsker slot) base 32 → h = recHead (m.bytes.getD []) → len = bits h.w0 31 0 →
        (len < 32 ∨ len % 8 ≠ 0 ∨ left < len → does m.st.resyncRecords) ∧
        (32 ≤ len → len % 8 = 0 → len ≤ left → avail < len → exec .restoreRecord s = .next s0) ∧
        (32 ≤ len → len % 8 = 0 → len ≤ left → len ≤ avail → ∀ b u, b = m.st.memRead (hlAsker slot) (base + 32) (len - 32) →
          u = b.st.setReg (expReg 0x138) (BitVec.ofNat 64 (cons + len)) →
          (b.bytes = none → does (u.inc (expReg 0x148) 1)) ∧
          (∀ body, b.bytes = some body → does (u.placeRecord slot h body) ∧
            (bits h.w0 63 56 = 0 → does u) ∧
            (bits h.w0 63 56 ≠ 0 → bits h.w0 55 54 ≠ slot → does (u.inc (expReg 0x148) 1)))))) ∧
    (∀ slot (v : Word), s.restoring = some slot → Word.fld v 0 0 = 1 →
      (s.needsMet slot = true → s.link.restoreQueue = [] → ∃ t, exec (.restoreDone v) s = .next t ∧
        t.reg (ackReg slot) = BitVec.ofNat 64 (s.job slot).restore.step ∧ (t.job slot).restore.isOpen = false ∧
        (t.job slot).restore.needs = [] ∧ t.mem = s.mem) ∧
      (s.needsMet slot = false → ∃ t, exec (.restoreDone v) s = .next t ∧ t.rfld restoreStatus 3 3 = 1 ∧ t.jobs = s.jobs ∧ t.mem = s.mem)) ∧
    (∀ (v : Word) (off : Nat), off = expReg 0x110 ∨ off = expReg 0x118 → exec (.needListConfig off v) s = .next (s.writePlain off v)) ∧
    (∀ v : Word, exec (.needRelease v) s = .next (s.writePlain (expReg 0x128) v) ∧ exec (.restoreDoorbell v) s = .next (s.writePlain (expReg 0x130) v)) ∧
    (∀ (v : Word) (u : State), u = s.writePlain 0x1820 v →
      (s.ingestStopped = true → u.ingestStopped = false → ∃ t, exec (.replayAck v) s = .next t ∧ t.ingestStopped = false ∧
        ∀ r, r < 8 → t.rfld (ringReg r 0x18) 31 0 = s.rfld (ringReg r 0x10) 31 0 ∧ t.ring r = {}) ∧
      (s.ingestStopped = false ∨ u.ingestStopped = true → exec (.replayAck v) s = .next u))

/-- Derived. MESSAGE_FORWARD of a filler's waiting message changes nothing while a primary message of its class waits that
would take the same port. Of any other with a route, or one without a primary message of its class beside it: where the
message is not on an escape lane and an adaptive port is in UP with credits for every flit on the message's lane, the message
leaves the router over such a port, one with at least as many free credits as every other such port, and all its flits are
deducted there; where none can take it (or it is on an escape lane) and the escape port meets the same on the escape lane, it
leaves over that port; where neither can, it stays and is counted once. No module memory, core or job changes. With no message
at the place, or no route, nothing changes. MESSAGE_HOLD_DROP removes a waiting message from the router, counts
SV_FAULT_HOLD_DROP, records the loss, and changes no memory and no core. (01_training_step.md R39; 11_fabric_links.md R332;
12_fabric_traffic.md R343, R344; 16_faults_and_recovery.md R484) -/
def Obligations.WaitingMessagesLeaveTheRouter : Prop :=
  ∀ (s : State) (k : Nat) (w : Waiting) (takes : Nat → Nat → Prop) (lane : Nat) (goes : Nat → Nat → State → Prop),
    s.router[k]? = some w → lane = (if w.msg.response then 2 else 0) →
    (∀ p vl, takes p vl ↔ (s.port p).state = 6 ∧ w.msg.flits ≤ atD (s.port p).credits vl 0 ∧ (s.port p).retry.length + w.msg.flits ≤ retryRoom) →
    (∀ p vl t, goes p vl t ↔ exec (.messageForward k) s = .next t ∧ takes p vl ∧ t.router = s.router.eraseIdx k ∧
      atD (t.port p).credits vl 0 = atD (s.port p).credits vl 0 - w.msg.flits ∧ t.mem = s.mem ∧ t.cores = s.cores ∧ t.jobs = s.jobs) →
    (∀ r p vl x y l, SMap.find? s.fabric.routes w.msg.dst = some r → s.choosePort r w = some (p, vl) → w.msg.slot ≠ 0 →
      x ∈ s.router → x.msg.slot = 0 → x.msg.response = w.msg.response → SMap.find? s.fabric.routes x.msg.dst = some y →
      s.choosePort y x = some (p, l) → exec (.messageForward k) s = .next s) ∧
    (SMap.find? s.fabric.routes w.msg.dst = none → exec (.messageForward k) s = .next s) ∧
    (∀ r : Route, SMap.find? s.fabric.routes w.msg.dst = some r →
      w.msg.slot = 0 ∨ (∀ x ∈ s.router, x.msg.slot = 0 → x.msg.response ≠ w.msg.response) →
      (w.escape = false → (∃ p ∈ r.adaptive, takes p lane) → ∃ p ∈ r.adaptive, ∃ t, goes p lane t ∧
        ∀ q ∈ r.adaptive, takes q lane → atD (s.port q).credits lane 0 ≤ atD (s.port p).credits lane 0) ∧
      (w.escape = true ∨ (∀ p ∈ r.adaptive, ¬takes p lane) → ∀ p, s.escapePort r w = some p → takes p (lane + 1) → ∃ t, goes p (lane + 1) t) ∧
      (w.escape = true ∨ (∀ p ∈ r.adaptive, ¬takes p lane) → (∀ p, s.escapePort r w = some p → ¬takes p (lane + 1)) →
        r.adaptive ≠ [] ∨ r.escape ≠ none → ∃ t, exec (.messageForward k) s = .next t ∧ t.router = s.router.set k { w with counted := true } ∧
          t.ports = s.ports ∧ t.mem = s.mem ∧ t.jobs = s.jobs)) ∧
    (∃ t, exec (.messageHoldDrop k) s = .next t ∧ t.router = s.router.eraseIdx k ∧ t.mem = s.mem ∧ t.cores = s.cores ∧
      t = ((s.leaveRouter k w).inc (faultReg 0x40) 1).messageLost (w.arrival.getD 0) w.msg)

/-- Derived. For every message command of a sink (kinds 0x02 to 0x05, 0x10, 0x11, 0x18 to 0x1C and 0x20): a message of another
kind changes nothing; a bad one leaves the inbox, counts XU_MSG_BAD and aborts its step; a good one whose slot, attempt or
step is not current leaves the inbox and counts XU_MSG_STALE. A good current COUNT adds its number to the permute counts where
TAG is 0, else becomes the count of its step and source, and a second one is counted as a duplicate; a good current PERMUTE
piece is staged at the end; a good current MIRROR_DIGEST becomes the partner's digest, and where the own digest is known and
differs MIRROR_DIGEST is voted, counted and recorded. MIRROR_DIGEST_TIMEOUT with an own digest and none of the partner votes,
counts and records the same. (12_fabric_traffic.md R340, R341, R346, R347, R365; 09_dense_state.md R274) -/
def Obligations.ArrivingMessagesMeetTheirChecks : Prop :=
  ∀ (s : State) (m : Message) (gone a : State), gone = { s with inbox := s.inbox.erase m } → a = gone.inc (xuReg 0x10) 1 →
    (∀ c kind, (c, kind) ∈ [(Instr.countMsg m, 0x02), (.rowRequest m, 0x03), (.rowResponse m, 0x04), (.gradBatch m, 0x05), (.reduceUp m, 0x10),
        (.bcastDown m, 0x11), (.voteUp m, 0x18), (.resultDown m, 0x19), (.mirrorDigest m, 0x1A), (.holdUp m, 0x1B), (.holdDown m, 0x1C),
        (.permute m, 0x20)] →
      (m.kind ≠ kind → exec c s = .next s) ∧
      (m.kind = kind → m.good = false → ∃ t, exec c s = .next t ∧ t.inbox = s.inbox.erase m ∧ t.reg (xuReg 0x18) = (gone.inc (xuReg 0x18) 1).reg (xuReg 0x18) ∧
        (t.job m.slot).cause = max (s.job m.slot).cause 0x2001 ∧ t.mem = s.mem ∧ t.cores = s.cores) ∧
      (m.kind = kind → m.good = true → s.stale m = true → exec c s = .next (gone.inc (xuReg 0x20) 1))) ∧
    (m.good = true → s.stale m = false → ∀ n x, n = s.fullStep m → x = (atD m.body 0 0).toNat →
      (m.kind = 0x02 → m.tag = 0 → exec (.countMsg m) s =
        .next (a.updJob m.slot (fun j => { j with permuteCounts := (s.job m.slot).permuteCounts ++ [x] }))) ∧
      (m.kind = 0x02 → m.tag ≠ 0 → SMap.find? (s.job m.slot).countsRx (countKey n m.src) = none → ∃ t, exec (.countMsg m) s = .next t ∧
        SMap.find? (t.job m.slot).countsRx (countKey n m.src) = some (x % 512) ∧ t.regs = a.regs ∧ t.mem = s.mem ∧
        ∀ k, k ≠ countKey n m.src → SMap.find? (t.job m.slot).countsRx k = SMap.find? (s.job m.slot).countsRx k) ∧
      (m.kind = 0x02 → m.tag ≠ 0 → SMap.find? (s.job m.slot).countsRx (countKey n m.src) ≠ none →
        exec (.countMsg m) s = .next (a.inc (xuReg 0x28) 1)) ∧
      (m.kind = 0x20 → exec (.permute m) s =
        .next (a.updJob m.slot (fun j => { j with permuteStage := (s.job m.slot).permuteStage ++ [(m.object, m.offset, m.body)] }))) ∧
      (m.kind = 0x1A → (s.job m.slot).num.ownDigest = none ∨ (s.job m.slot).num.ownDigest = some x → exec (.mirrorDigest m) s =
        .next (a.updJob m.slot (fun j => { j with num := { (s.job m.slot).num with partnerDigest := some x } }))) ∧
      (∀ d, m.kind = 0x1A → (s.job m.slot).num.ownDigest = some d → d ≠ x → ∃ t, exec (.mirrorDigest m) s = .next t ∧
        (t.job m.slot).num.partnerDigest = some x ∧ (t.job m.slot).mirrorBad = true ∧ (t.job m.slot).cause = (s.job m.slot).cause ∧
        t.reg (denseReg 0x48) = (s.inc (denseReg 0x48) 1).reg (denseReg 0x48) ∧ t.mem = s.mem ∧ t.cores = s.cores)) ∧
    (∀ (sl : SlotId) d, (s.job sl.val).num.ownDigest = some d → (s.job sl.val).num.partnerDigest = none → ∃ t, exec (.mirrorDigestTimeout sl) s = .next t ∧
      (t.job sl.val).mirrorBad = true ∧ (t.job sl.val).cause = (s.job sl.val).cause ∧ t.reg (denseReg 0x48) = (s.inc (denseReg 0x48) 1).reg (denseReg 0x48) ∧
      t.mem = s.mem ∧ t.cores = s.cores)

/-- Derived. For a good current message that has arrived, with its step n, source and core: a ROW_REQUEST with a non-zero
reserved field aborts its step and changes no batch; the first segment of a batch not yet whole is kept with its item count; a
segment that makes its batch whole enters the rows and groups read from all its words, marks the waiting rows hot and serves
what can be served, and where the entries are bad the step aborts and the batch gets no answer. A ROW_RESPONSE places every
whole item of its range, keeps the items placed before, and changes no memory; an item longer than one segment comes in two
pieces and is placed with the second (log entry 37); with no batch to answer it changes nothing more. A GRAD_BATCH with a
non-zero reserved field or a bad entry aborts its step; an entry already added counts RE_GRAD_DUP and changes nothing more;
any other has its added bit set, its NF mask ORed into its row's combined-gradient slot, and its elements added to the sums
that the slot holds in memory; a slot that cannot be read is a lost input; an entry in two pieces is taken with the second.
(07_embedding_lookup.md R212, R213, R214; 08_embedding_update.md R230, R232; 12_fabric_traffic.md R347) -/
def Obligations.OwnersJoinTheirSegments : Prop :=
  ∀ (s : State) (m : Message) (a : State) (n core : Nat) (w0 w1 w2 : Word) (aborts : Instr → Prop), m.good = true → s.stale m = false →
    a = State.inc { s with inbox := s.inbox.erase m } (xuReg 0x10) 1 → n = s.fullStep m → core = m.tag % 256 →
    w0 = atD m.body 0 0 → w1 = atD m.body 1 0 → w2 = atD m.body 2 0 →
    (∀ c, aborts c ↔ ∃ t, exec c s = .next t ∧ (t.job m.slot).cause = max (s.job m.slot).cause 0x2001 ∧ (t.job m.slot).owner = (s.job m.slot).owner ∧
      t.mem = s.mem ∧ t.cores = s.cores) →
    (m.kind = 0x03 →
      (Word.fld w0 63 58 ≠ 0 ∨ Word.fld w1 63 48 ≠ 0 → aborts (.rowRequest m)) ∧
      (Word.fld w0 63 58 = 0 → Word.fld w1 63 48 = 0 → (s.job m.slot).owner.batches.find? (fun b => b.is m.src core n) = none →
        ∀ b : OwnBatch, b = { src := m.src, core := core, step := n, nRows := Word.fld w1 23 0, nGroups := Word.fld w1 47 24,
                              items := Word.fld w2 63 32, segments := [(0, m.body.drop 3)] } →
        (b.items ≠ b.nRows + b.nGroups → exec (.rowRequest m) s =
          .next (a.updOwner m.slot (fun o => { o with batches := (s.job m.slot).owner.batches ++ [b] }))) ∧
        (b.items = b.nRows + b.nGroups → ∀ rows groups, a.readBatch m.slot b.nRows b.nGroups (m.body.drop 3) = some (rows, groups) →
          ∀ full : OwnBatch, full = { b with segments := [], rows := rows, groups := groups } → exec (.rowRequest m) s =
            .next (((a.updOwner m.slot (fun o => { o with batches := (s.job m.slot).owner.batches ++ [full] })).markHot m.slot full).serveReady m.slot)) ∧
        (b.items = b.nRows + b.nGroups → a.readBatch m.slot b.nRows b.nGroups (m.body.drop 3) = none → ∃ t, exec (.rowRequest m) s = .next t ∧
          (t.job m.slot).cause = max (s.job m.slot).cause 0x2001 ∧
          (t.job m.slot).owner.batches = (s.job m.slot).owner.batches ++ [{ b with answered := true }] ∧ t.mem = s.mem))) ∧
    (m.kind = 0x04 →
      ((s.batchesOf core m.slot n).find? (fun b => decide (b.owner = m.src)) = none → exec (.rowResponse m) s = .next a) ∧
      (∀ b, (s.batchesOf core m.slot n).find? (fun b => decide (b.owner = m.src)) = some b → ∃ t b', exec (.rowResponse m) s = .next t ∧
        (t.batchesOf core m.slot n).find? (fun b => decide (b.owner = m.src)) = some b' ∧
        (∀ i v, SMap.find? b.items i = some v → SMap.find? b'.items i = some v) ∧
        (s.itemBytes m.slot b (Word.fld w2 31 0) ≤ segRoom → ∀ i, Word.fld w2 31 0 ≤ i → i < Word.fld w2 31 0 + Word.fld w2 63 32 →
          i < b.expected → SMap.find? b'.items i ≠ none) ∧
        (∀ i, i = Word.fld w2 31 0 → segRoom < s.itemBytes m.slot b i → i < b.expected → SMap.find? b.items i = none →
          ∀ last x, last = decide (Word.fld w2 63 32 ≠ 0) → x = (wordsBytes (m.body.drop 3)).take
              (if last then s.itemBytes m.slot b i - segRoom else segRoom) →
            SMap.find? b'.pieces (2 * i + if last then 1 else 0) = some x ∧
            (∀ y, SMap.find? b.pieces (2 * i + if last then 0 else 1) = some y → SMap.find? b'.items i = some (if last then y ++ x else x ++ y))) ∧
        t.mem = s.mem ∧ t.jobs = s.jobs)) ∧
    (m.kind = 0x05 → ∀ gcore, gcore = Word.fld w1 31 24 →
      (Word.fld w0 63 58 ≠ 0 ∨ Word.fld w1 63 32 ≠ 0 → aborts (.gradBatch m)) ∧
      (Word.fld w0 63 58 = 0 → Word.fld w1 63 32 = 0 → ∀ b, (s.job m.slot).owner.batches.find? (fun b => b.is m.src gcore n) = some b →
        (gradPiece (segment m).1 (m.body.drop 3) = false → exec (.gradBatch m) s = .next (a.takeGrads m b (Word.fld w2 63 32) (m.body.drop 3))) ∧
        (gradPiece (segment m).1 (m.body.drop 3) = true → ∀ p u, p = joinPiece b.pieces (Word.fld w2 31 0) (decide (Word.fld w2 63 32 ≠ 0))
            (wordsBytes (m.body.drop 3)) → u = a.updOwner m.slot (fun o => { o with batches := o.batches.map (fun x =>
              if x.is b.src b.core b.step then { x with pieces := p.1 } else x) }) →
          (p.2 = none → exec (.gradBatch m) s = .next u) ∧
          (∀ bs, p.2 = some bs → exec (.gradBatch m) s = .next (u.takeGrads m b 1 (bytesWords bs)))) ∧
        (∀ e1 entry r, Word.fld w2 63 32 = 1 → gradPiece (segment m).1 (m.body.drop 3) = false → e1 = atD (m.body.drop 3) 1 0 → entry = Word.fld e1 55 32 → r = atD b.rows entry {} →
          (a.readRowEntry m.slot (atD (m.body.drop 3) 0 0) ≠ some (r.key, false) ∨ Word.fld e1 63 56 ≠ 0 ∨ b.rows.length ≤ entry → aborts (.gradBatch m)) ∧
          (a.readRowEntry m.slot (atD (m.body.drop 3) 0 0) = some (r.key, false) → Word.fld e1 63 56 = 0 → entry < b.rows.length →
            b.src = m.src → b.core = gcore → b.step = n →
            (r.added = true → exec (.gradBatch m) s = .next (a.inc (dieReg (a.stackOf m.slot r.key) 0x50) 1)) ∧
            (r.added = false → ∀ g acc q, g = gradKey (a.recordAddr m.slot r.key) n → SMap.find? (s.job m.slot).owner.grads g = some acc →
              q = bi48s (blocksOf (a.dim m.slot r.key.table)) (a.dim m.slot r.key.table) (m.body.drop 5) →
              ∀ u v, u = a.updOwner m.slot (fun o => { o with batches := o.batches.map (fun x =>
                  if x.is m.src gcore n then { x with rows := modAt x.rows entry (fun r => { r with added := true }) } else x) }) →
                (u.readGrad m.slot n 6 acc = (none, v) → exec (.gradBatch m) s = .next v) ∧
                (∀ sums, u.readGrad m.slot n 6 acc = (some sums, v) → exec (.gradBatch m) s = .next
                  ((v.updOwner m.slot (fun o => { o with grads := SMap.put o.grads g { acc with nf := acc.nf ||| Word.fld e1 31 0 } })).writeGrad
                    m.slot n 6 acc ((sums.zip q).map (fun x => x.1 + x.2)))))))))

/-- Derived. A good current REDUCE_UP of a rank outside the job changes nothing more; a second copy from one child counts a
duplicate; any other joins its fragment: while the own values or a child's are missing the fragment waits with it, and once
all are here it sends its total to its parent, or at the root of an agreement delivers the codes and sends them down. A good
current BCAST_DOWN of a fragment with no own values changes nothing more, a second one counts a duplicate, and the first
result of an agreement is forwarded and delivered; of no fragment it is gathered lines, forwarded and placed where the gather
has started, else kept until it starts. DENSE_GATHER_SERVE sends an owned slice into the first started gather of its tensor
that has not served it once its stamp is the step before; until then the wait is counted once. A mirrored slice, one with no
such gather, and one whose gather belongs to the step after a hard boundary whose closing round has not ended changes nothing.
(12_fabric_traffic.md R347, R350, R351, R352; 09_dense_state.md R263; 01_training_step.md R35) -/
def Obligations.CollectivesCombineAndGather : Prop :=
  (∀ (s : State) (m : Message) (a : State) (n : Nat), m.good = true → s.stale m = false →
    a = State.inc { s with inbox := s.inbox.erase m } (xuReg 0x10) 1 → n = s.fullStep m →
    (m.kind = 0x10 →
      (s.posOf m.slot m.src = none → exec (.reduceUp m) s = .next a) ∧
      (∀ p k k', s.posOf m.slot m.src = some p → (s.collectives.find? (fun x => x.is m.slot n m.tag m.object m.offset)).getD
          { slot := m.slot, step := n, tag := m.tag, object := m.object, offset := m.offset } = k → k' = { k with kids := SMap.put k.kids p m.body } →
        (SMap.find? k.kids p ≠ none → exec (.reduceUp m) s = .next (a.inc (xuReg 0x28) 1)) ∧
        (SMap.find? k.kids p = none →
          (k.own = none ∨ k.sent = true ∨ k.done = true ∨ (∃ q ∈ a.collKids k', SMap.find? k'.kids q = none) → ∃ t, exec (.reduceUp m) s = .next t ∧
            k' ∈ t.collectives ∧ t.mem = s.mem ∧ t.cores = s.cores ∧ t.jobs = s.jobs ∧ t.router = s.router ∧ t.inbox = s.inbox.erase m) ∧
          (∀ own, k.own = some own → k.sent = false → k.done = false → (∀ q ∈ a.collKids k', SMap.find? k'.kids q ≠ none) →
            (∀ u, a.collUp k' = some u → ∃ t d, exec (.reduceUp m) s = .next ((a.putColl { k' with sent := true, done := d }).sendTo 0x10 k.slot
                (a.rankOf k.slot u) k.step k.tag k.object k.offset (packFrag (a.fragBytes k.slot k.op) (a.collTotal k' own))) ∧
              exec (.reduceUp m) s = .next t ∧ { k' with sent := true, done := d } ∈ t.collectives ∧ t.mem = s.mem ∧ t.jobs = s.jobs) ∧
            (a.collUp k' = none → k.op = 2 → exec (.reduceUp m) s = .next (((a.putColl { k' with sent := true, done := true }).deliverCodes k'
              (a.collTotal k' own)).bcastColl k' (packFrag (a.fragBytes k.slot k.op) (a.collTotal k' own)))))))) ∧
    (m.kind = 0x11 →
      (∀ k, s.collectives.find? (fun x => x.is m.slot n m.tag m.object m.offset) = some k →
        (k.own = none → exec (.bcastDown m) s = .next a) ∧
        (∀ own, k.own = some own →
          (k.done = true → exec (.bcastDown m) s = .next (a.inc (xuReg 0x28) 1)) ∧
          (k.done = false → k.op = 2 → exec (.bcastDown m) s = .next (((a.putColl { k with done := true }).bcastColl k m.body).deliverCodes
            k (unpackFrag 2 (a.fragBytes k.slot 2) own.length m.body))))) ∧
      (s.collectives.find? (fun x => x.is m.slot n m.tag m.object m.offset) = none → ∀ b, b = a.forwardLines m.slot n m.tag m.object m.offset m.body →
        (∀ g, (s.job m.slot).gathers.find? (fun g => g.is n m.tag m.object) = some g → g.started = true →
          exec (.bcastDown m) s = .next (b.placeLines m.slot g m.offset m.bytes)) ∧
        ((s.job m.slot).gathers.find? (fun g => g.is n m.tag m.object) = none → ∃ t, exec (.bcastDown m) s = .next t ∧ t.mem = s.mem ∧
          (t.job m.slot).gathers = (s.job m.slot).gathers ++ [{ tag := m.tag, tensor := m.object, step := n, early := [(m.offset, m.body)] }]) ∧
        (∀ g, (s.job m.slot).gathers.find? (fun g => g.is n m.tag m.object) = some g → g.started = false → ∃ t, exec (.bcastDown m) s = .next t ∧
          t.mem = s.mem ∧ (t.job m.slot).gathers.find? (fun g => g.is n m.tag m.object) = some { g with early := g.early ++ [(m.offset, m.body)] })))) ∧
  (∀ (s : State) (sl : SlotId) (n : Nat),
    (SMap.find? (s.job sl.val).slices n = none → exec (.denseGatherServe sl n) s = .next s) ∧
    (∀ x, SMap.find? (s.job sl.val).slices n = some x → ∀ next, next = (s.job sl.val).gathers.find? (fun g =>
        g.started && decide (g.tensor = x.tensor) && !g.served.contains n) →
      (next = none ∨ x.mirror = true → exec (.denseGatherServe sl n) s = .next s) ∧
      (∀ g k, next = some g → (s.job sl.val).hardStep = some k → g.step = k + 1 → (s.job sl.val).closedStep < k → exec (.denseGatherServe sl n) s = .next s) ∧
      (∀ g, next = some g → x.mirror = false → ((s.job sl.val).hardStep = none ∨ ∀ k, (s.job sl.val).hardStep = some k → g.step ≠ k + 1 ∨ k ≤ (s.job sl.val).closedStep) →
        (x.gatherStamp g.step = (g.step - 1) % 2 ^ 32 → exec (.denseGatherServe sl n) s = .next (s.sendSlice sl.val g n x)) ∧
        (x.gatherStamp g.step ≠ (g.step - 1) % 2 ^ 32 → n ∈ g.counted → exec (.denseGatherServe sl n) s = .next s) ∧
        (x.gatherStamp g.step ≠ (g.step - 1) % 2 ^ 32 → n ∉ g.counted → ∃ t, exec (.denseGatherServe sl n) s = .next t ∧
          t.regs = (s.inc (denseReg 0x20) 1).regs ∧ t.mem = s.mem ∧
          (t.job sl.val).gathers = (s.job sl.val).gathers.map (fun y =>
            if y.is g.step g.tag g.tensor then { y with counted := y.counted ++ [n] } else y)))))

/-- Derived. WATCHDOG_EXPIRY changes nothing unless every primary queue head of the core is held otherwise than by a gate or
by T24 or T25; then it sets WATCHDOG, and the oldest entry's phase decides: phase 9 of the step with a re-execution of that
phase left is marked for one, phase 9 without one left and phase 10 vote rollback, the others vote abort; memory and cores
stay. LOCAL_REEXECUTION replays a marked phase, counting the attempt when it begins; a whole replay leaves none marked and
forgets the phase's count, a part marks the phase again, and the token counters stay. FILLER_CHUNK_START gives a free unit to
the first ready filler in rotation when the budget admits it, else counts a deferral, and changes nothing while a primary
entry is ready. FILLER_CHUNK_END ends a chunk of 256 beats: the entry is suspended unless the test of R74 holds. TILE_DRAIN
moves the front drain into a TQ with room and completes it, counts a full TQ, and stops the entry on bad parity.
SPILL_CHUNK_GRANT gives the least free chunk to the core that asked first. (02_cores_and_sequencer.md R72, R73, R74, R75;
03_matrix_arrays.md R93; 02_cores_and_sequencer.md R71; 07_embedding_lookup.md R209) -/
def Obligations.WatchdogReplayChunksDrainsAndGrantsComplete : Prop :=
  (∀ (c : CoreId) (s : State),
    (s.watchdogDue c.val = false → exec (.watchdogExpiry c) s = .next s) ∧
    (∀ q, s.watchdogDue c.val = true → (s.core c.val).oldestPrimary = some q → ∃ t, exec (.watchdogExpiry c) s = .next t ∧
      t.mem = s.mem ∧ t.cores = s.cores ∧ t.rfld (coreReg c.val 0) 3 3 = 1 ∧
      (q.entry.phase = 9 → q.entry.next = false → SMap.getD (s.job 0).reexecs 9 0 < s.cfgV 0 0x8B03 0 2 →
        (t.job 0).reexecPhase = 9 ∧ (t.job 0).replay = none ∧ (t.job 0).cause = (s.job 0).cause) ∧
      (q.entry.next = false → (q.entry.phase = 9 ∧ s.cfgV 0 0x8B03 0 2 ≤ SMap.getD (s.job 0).reexecs 9 0) ∨ q.entry.phase = 10 →
        (t.job 0).cause = max (s.job 0).cause 0x3001 ∧ (t.job 0).reexecPhase = (s.job 0).reexecPhase) ∧
      (q.entry.next = true ∨ (q.entry.phase ≠ 9 ∧ q.entry.phase ≠ 10) →
        (t.job 0).cause = max (s.job 0).cause 0x2001 ∧ (t.job 0).reexecPhase = (s.job 0).reexecPhase))) ∧
  (∀ (sl : SlotId) (phase : Nat) (s a : State), phase ≠ 0 → (s.job sl.val).reexecPhase = phase → (s.job sl.val).member = true →
    (s.job sl.val).stopped = false → (s.job sl.val).halted = false →
    ((s.job sl.val).replay = none → a = (s.inc (faultReg 0x20) 1).beginReplay sl.val phase (s.reexecStep sl.val)) →
    ((s.job sl.val).replay ≠ none → a = s) →
    ∃ t done, exec (.localReexecution sl phase) s = .next t ∧ a.goReplay sl phase (s.reexecStep sl.val) = (done, t) ∨
      (exec (.localReexecution sl phase) s = .next (t.mirrorExchange sl.val (s.reexecStep sl.val)) ∧ done = true ∧ phase = 9 ∧
        s.reexecStep sl.val ≤ (s.job sl.val).phase9 ∧ a.goReplay sl phase (s.reexecStep sl.val) = (done, t))) ∧
  (∀ (sl : SlotId) (phase step : Nat) (a : State) (done : Bool) (t : State), a.goReplay sl phase step = (done, t) →
    (done = true → (t.job sl.val).replay = none ∧ SMap.getD (t.job sl.val).reexecs phase 0 = 0) ∧
    (done = false → (t.job sl.val).replay ≠ none → (t.job sl.val).reexecPhase = phase) ∧
    (∀ c ∈ a.loadedCores sl.val, ((t.core c).slot sl.val).tokens = ((a.core c).slot sl.val).tokens)) ∧
  (∀ (c : CoreId) (u : UnitId) (s : State) (un : UnitState), un = (s.core c.val).unit u.val →
    (un.chunk ≠ none ∨ s.primaryReady c.val u.val = true → exec (.fillerChunkStart c u) s = .next s) ∧
    (un.chunk = none → s.primaryReady c.val u.val = false → ∀ next, next = (fillerOrder un.lastSlot).find? (fun f => s.fillerReady c.val u.val f) →
      (next = none → exec (.fillerChunkStart c u) s = .next s) ∧
      (∀ f, next = some f → s.fillerBudget c.val u.val = false → exec (.fillerChunkStart c u) s = .next (s.inc (coreReg c.val 0x160) 1)) ∧
      (∀ f, next = some f → s.fillerBudget c.val u.val = true → ∃ t, exec (.fillerChunkStart c u) s = .next t ∧ t.mem = s.mem ∧ t.regs = s.regs ∧
        (t.core c.val).unit u.val = { un with chunk := some f, lastSlot := f, suspended := un.suspended.filter (fun x => x != f) })) ∧
    (un.chunk = none → exec (.fillerChunkEnd c u) s = .next s) ∧
    (∀ f, un.chunk = some f →
      (un.running.find? (fun r => r.slot == f) = none → ∃ t, exec (.fillerChunkEnd c u) s = .next t ∧ t.mem = s.mem ∧
        (t.core c.val).unit u.val = { un with chunk := none }) ∧
      (∀ r, un.running.find? (fun r => r.slot == f) = some r →
        (r.chunked = false → exec (.fillerChunkEnd c u) s = .next s) ∧
        (r.chunked = true → f ≠ 0 → ∃ t e, exec (.fillerChunkEnd c u) s = .next t ∧ t.mem = s.mem ∧
          e = { un with fillerBeats := un.fillerBeats + 256, running := un.running.map (fun x => if x.slot == f then { x with beats := x.beats - 256 } else x) } ∧
          ((t.core c.val).unit u.val = e ∧ t.primaryReady c.val u.val = false ∧ t.fillerBudget c.val u.val = true ∨
           (t.core c.val).unit u.val = { e with chunk := none, suspended := e.suspended ++ [f] }))))) ∧
  (∀ (c : CoreId) (a : ArrayId) (s : State) (x : ArrayState) (un : UnitState), x = (s.core c.val).array a.val → un = (s.core c.val).unit (a.val + 1) →
    (x.drains = [] → exec (.tileDrain c a) s = .next s) ∧
    (∀ n rest r, x.drains = n :: rest → un.running.find? (fun r => r.drain.isSome) = some r →
      (tqRoom (s.core c.val).tq a.val = false → ∃ t, exec (.tileDrain c a) s = .next t ∧ t.mem = s.mem ∧
        t.regs = (s.inc (coreReg c.val (0x58 + 8 * a.val)) 1).regs ∧ (t.core c.val).tq = (s.core c.val).tq ∧ (t.core c.val).array a.val = x) ∧
      (tqRoom (s.core c.val).tq a.val = true → (∃ e ∈ x.parity, e / 1024 = n) → ∃ t, exec (.tileDrain c a) s = .next t ∧ t.mem = s.mem ∧
        (t.core c.val).tq = (s.core c.val).tq ∧ ((t.core c.val).array a.val).drains = rest) ∧
      (tqRoom (s.core c.val).tq a.val = true → (∀ e ∈ x.parity, e / 1024 ≠ n) → ∃ t e, exec (.tileDrain c a) s = .next t ∧ t.mem = s.mem ∧ t.regs = s.regs ∧
        (t.core c.val).tq = (s.core c.val).tq ++ [e] ∧ e.producer = a.val ∧ e.slot = r.slot ∧ e.data = tileList x.tiles n ∧
        (t.core c.val).array a.val = { x with drains := rest } ∧
        ((t.core c.val).unit (a.val + 1)).running = drainDone (fun r => { r with drain := none, final := true }) un.running))) ∧
  (∀ (c : CoreId) (s : State),
    ((∀ sl, sl < 4 → (s.job sl).spillWait.head? ≠ some c.val) → exec (.spillChunkGrant c) s = .next s) ∧
    (∀ sl q n, (List.range 4).find? (fun sl => (s.job sl).spillWait.head? = some c.val) = some sl → s.head c.val 5 sl = some q →
      (List.range (poolChunks q)).find? (fun n => !(s.chunksHeld sl).contains n) = some n → ∃ t, exec (.spillChunkGrant c) s = .next t ∧
        t.mem = s.mem ∧ t.regs = s.regs ∧ (t.job sl).spillWait = (s.job sl).spillWait.drop 1 ∧
        ((t.core c.val).gcSlot sl).chunks = ((s.core c.val).gcSlot sl).chunks ++ [(q.step, n)]) ∧
    (∀ sl q, (List.range 4).find? (fun sl => (s.job sl).spillWait.head? = some c.val) = some sl → s.head c.val 5 sl = some q →
      (List.range (poolChunks q)).find? (fun n => !(s.chunksHeld sl).contains n) = none → exec (.spillChunkGrant c) s = .next s))

/-- Derived. A good current VOTE_UP fragment of an ordinary round: a second copy counts a duplicate; else it joins its
sender's record, which waits in its round while the own vote or a child's fragment is missing, goes up to the parent once all
are here, and at the root is sent down and applied. A good current RESULT_DOWN: nothing before the own vote, a duplicate
counts, part of the record waits, the whole record is applied once sent to the children. GUIDON_VOTE casts the step vote when
the member may vote and votes rollback or has exchanged its step with the export window open; the window full, slot 0 holds.
CLOSING_VOTE casts the closing vote of the stage: start-up, rollback, or a hard or mirrored step. VOTE_TIMEOUT drops the
round, moves to the next attempt and starts the rollback of the slot. PHASE9_COMPLETE marks phase 9 of the step and owes its
export records; COMMIT_POINT advances the committed step by one. No command of these that only waits changes memory.
(12_fabric_traffic.md R354, R355, R356, R359; 01_training_step.md R25, R28, R30, R36; 09_dense_state.md R271) -/
def Obligations.VotesResultsAndCommitsComplete : Prop :=
  (∀ (s a : State) (m : Message) (r : Round) (f : Nat), m.good = true → s.stale m = false →
    a = State.inc { s with inbox := s.inbox.erase m } (xuReg 0x10) 1 → r = a.roundOf m.slot (a.roundNamed m) → f = a.fragmentAt m r →
    (m.kind = 0x18 → r.rollback = false →
      (SMap.find? (SMap.getD r.kids m.src []) f ≠ none → exec (.voteUp m) s = .next (a.inc (xuReg 0x28) 1)) ∧
      (SMap.find? (SMap.getD r.kids m.src []) f = none → ∀ r', r' = { r with kids := SMap.upd r.kids m.src [] (fun x => SMap.put x f m.bytes) } →
        (r.own = none ∨ r.sent = true ∨ (∃ k ∈ a.treeDown (a.roundRanks m.slot false), wholeRecord (a.roundSections m.slot r') (SMap.getD r'.kids k []) = false) →
          ∃ t : State, exec (.voteUp m) s = .next t ∧ r' ∈ (t.job m.slot).rounds ∧ t.mem = s.mem ∧ t.cores = s.cores ∧ t.router = s.router) ∧
        (∀ own, r.own = some own → r.sent = false → (∀ k ∈ a.treeDown (a.roundRanks m.slot false), wholeRecord (a.roundSections m.slot r') (SMap.getD r'.kids k []) = true) →
          ∀ v, v = r'.total (a.roundSections m.slot r') own (a.treeDown (a.roundRanks m.slot false)) →
          (∀ p, a.treeUp (a.roundRanks m.slot false) = some p →
            exec (.voteUp m) s = .next ((a.putRound m.slot { r' with sent := true }).sendRecord m.slot 0x18 p r' v)) ∧
          (a.treeUp (a.roundRanks m.slot false) = none → exec (.voteUp m) s = .next (((a.treeDown (a.roundRanks m.slot false)).foldl (fun s k =>
            State.sendRecord s m.slot 0x19 k r' v) (a.dropRound m.slot r')).applyResult m.slot r' v))))) ∧
    (m.kind = 0x19 →
      (r.own = none → exec (.resultDown m) s = .next a) ∧
      (r.own ≠ none → SMap.find? r.result f ≠ none → exec (.resultDown m) s = .next (a.inc (xuReg 0x28) 1)) ∧
      (r.own ≠ none → SMap.find? r.result f = none → r.rollback = false → ∀ r' b, r' = { r with result := SMap.put r.result f m.bytes } →
        b = (a.treeDown (a.roundRanks m.slot false)).foldl (fun s k =>
          State.send s (mkMessage 0x19 m.slot k s.ownRank m.stepLo m.attempt m.tag m.object m.offset m.body)) a →
        (wholeRecord (b.roundSections m.slot r') r'.result = false → ∃ t : State, exec (.resultDown m) s = .next t ∧ r' ∈ (t.job m.slot).rounds ∧ t.mem = s.mem) ∧
        (wholeRecord (b.roundSections m.slot r') r'.result = true → exec (.resultDown m) s =
          .next ((b.dropRound m.slot r').applyResult m.slot r' (joinRecord (b.roundSections m.slot r') r'.result)))))) ∧
  (∀ (s : State) (sl : SlotId) (j : JobSlot), j = s.job sl.val →
    (s.mayVote sl.val = false → exec (.guidonVote sl) s = .next s) ∧
    (s.mayVote sl.val = true → 0x3000 ≤ j.cause ∨ (s.voteReady sl.val = true ∧ s.unacked sl.val < s.exportWindow) → exec (.guidonVote sl) s = .next (s.castStep sl.val)) ∧
    (s.mayVote sl.val = true → j.cause < 0x3000 → s.voteReady sl.val = true → s.exportWindow ≤ s.unacked sl.val → sl.val ≠ 0 → exec (.guidonVote sl) s = .next s) ∧
    (s.mayVote sl.val = true → j.cause < 0x3000 → s.voteReady sl.val = true → s.exportWindow ≤ s.unacked sl.val → sl.val = 0 → exec (.guidonVote sl) s = .next (s.beginHold 0 1)) ∧
    (s.mayVote sl.val = true → j.cause < 0x3000 → s.voteReady sl.val = false → exec (.guidonVote sl) s = .next s) ∧
    (sl.val = 0 → s.stage = 7 → (s.roundOf 0 { closing := true, step := j.committed }).own = none →
      exec (.closingVote sl) s = .next ((s.updJob 0 (fun j => { j with proposal := s.proposal })).castClosing 0 j.committed 0)) ∧
    (sl.val = 0 → s.stage = 7 → (s.roundOf 0 { closing := true, step := j.committed }).own ≠ none → exec (.closingVote sl) s = .next s) ∧
    (sl.val = 0 → s.stage ≠ 7 → s.rfld faultStatus 2 2 = 1 →
      (s.rfld faultStatus 11 8 = 3 → exec (.closingVote sl) s = .next s.castRollback) ∧
      (s.rfld faultStatus 11 8 = 4 ∨ s.rfld faultStatus 11 8 = 6 → exec (.closingVote sl) s = .next (s.castClosing 0 j.committed j.closingCause)) ∧
      (s.rfld faultStatus 11 8 ∉ [3, 4, 6] → exec (.closingVote sl) s = .next s)) ∧
    (sl.val ≠ 0 ∨ (s.stage ≠ 7 ∧ s.rfld faultStatus 2 2 ≠ 1) →
      (s.closingDue sl.val = false → exec (.closingVote sl) s = .next s) ∧
      (s.closingDue sl.val = true → ∃ u : State, (u = s ∨ u = s.updJob 0 (fun j => { j with proposal := s.proposal })) ∧
        (exec (.closingVote sl) s = .next (u.castClosing sl.val j.okStep j.cause) ∧ 0x3000 ≤ j.cause ∧ j.cause < 0x4000 ∨
         exec (.closingVote sl) s = .next s ∨ exec (.closingVote sl) s = .next (s.beginHold sl.val 2) ∨
         exec (.closingVote sl) s = .next (u.castClosing sl.val j.okStep j.closingCause) ∧ j.okStep ≤ j.phase9))) ∧
    (s.timedRound sl.val = none → exec (.voteTimeout sl) s = .next s) ∧
    (∀ r, s.timedRound sl.val = some r → ∃ u : State, exec (.voteTimeout sl) s = .next (if sl.val = 0 then u.enterRollback 0x3002 else u.rollbackFiller sl.val) ∧
      (u.job sl.val).rounds = j.rounds.filter (fun x => !x.same r) ∧ (u.job sl.val).attempt = (j.attempt + 1) % 256 ∧ u.mem = s.mem ∧ u.cores = s.cores) ∧
    (j.member = false ∨ j.stopped = true ∨ j.halted = true ∨ j.cause = 0x3001 ∨ j.okStep ≤ j.committed ∨ j.committed < j.phase9 ∨ j.reexecPhase ≠ 0 ∨
      s.phase9Done sl.val (j.committed + 1) = false → exec (.phase9Complete sl) s = .next s) ∧
    (j.member = true → j.stopped = false → j.halted = false → j.cause ≠ 0x3001 → j.committed < j.okStep → j.phase9 ≤ j.committed → j.reexecPhase = 0 →
      s.phase9Done sl.val (j.committed + 1) = true → ∃ u : State, exec (.phase9Complete sl) s = .next (u.mirrorExchange sl.val (j.committed + 1)) ∧
        (u.job sl.val).phase9 = j.committed + 1 ∧ (u.job sl.val).mapDue = false ∧ u.mem = s.mem ∧ u.cores = s.cores) ∧
    (s.commitReady sl.val (j.committed + 1) = false → exec (.commitPoint sl) s = .next s) ∧
    (s.commitReady sl.val (j.committed + 1) = true → ∃ t : State, exec (.commitPoint sl) s = .next t ∧ (t.job sl.val).committed = j.committed + 1 ∧
      t.mem = s.mem ∧ ∀ i, i ≠ sl.val → (t.job i).committed = (s.job i).committed))

/-- Derived. A good current HOLD_UP changes nothing more when one has gone up in this interval; else the notice with the
greater cause and, where the module itself holds, the lower of the two ranks goes to the parent and counts, or at the root
goes down to every child. HOLD_DOWN goes on to every child. The hold notice timer opens the next interval: a module that does
not hold sends nothing, one whose cause lasts sends its notice again, one whose cause is over ends its hold. A core of slot 0
held for ingest past the hold time begins a hold of cause 3 unless one stands or the module is in rollback. No notice changes
memory or cores. (12_fabric_traffic.md R360; 01_training_step.md R30) -/
def Obligations.HoldNoticesTravelTheMemberTree : Prop :=
  (∀ (s a b : State) (m : Message) (cause low : Nat), m.good = true → s.stale m = false →
    a = State.inc { s with inbox := s.inbox.erase m } (xuReg 0x10) 1 → b = a.updJob m.slot (fun j => { j with holdFwd := true }) →
    cause = max (Word.fld (atD m.body 0 0) 3 0) (if (a.job m.slot).held then (a.job m.slot).holdCause else 0) →
    low = (if (a.job m.slot).held then min (Word.fld (atD m.body 0 0) 27 16) (a.job m.slot).holdLow else Word.fld (atD m.body 0 0) 27 16) →
    (m.kind = 0x1B → (a.job m.slot).holdFwd = true → exec (.holdUp m) s = .next a) ∧
    (m.kind = 0x1B → (a.job m.slot).holdFwd = false → ∃ t : State, exec (.holdUp m) s = .next t ∧ (t.job m.slot).holdFwd = true ∧
      t.mem = s.mem ∧ t.cores = s.cores ∧
      (∀ p, b.treeUp (b.job m.slot).ranks = some p → t = (b.sendTo 0x1B m.slot p (a.fullStep m) m.tag 0 0 (holdBody cause low)).inc (xuReg 0x80) 1) ∧
      (b.treeUp (b.job m.slot).ranks = none → t = b.holdToKids m.slot m.tag (a.fullStep m) cause low)) ∧
    (m.kind = 0x1C → ∃ t : State, exec (.holdDown m) s = .next t ∧ t.mem = s.mem ∧ t.cores = s.cores ∧ t.jobs = a.jobs ∧
      t = (a.treeDown (a.job m.slot).ranks).foldl (fun s k => State.sendTo s 0x1C m.slot k (a.fullStep m) m.tag 0 0
        (holdBody (Word.fld (atD m.body 0 0) 3 0) (Word.fld (atD m.body 0 0) 27 16))) a)) ∧
  (∀ (s b : State) (sl : SlotId), b = s.updJob sl.val (fun j => { j with holdFwd := false }) →
    ((s.job sl.val).held = false → exec (.holdNoticeTimer sl) s = .next b) ∧
    ((s.job sl.val).held = true → b.stillHeld sl.val = true → ∃ t : State, exec (.holdNoticeTimer sl) s = .next t ∧
      t = b.tellOwn sl.val (s.job sl.val).holdCause ∧ (t.job sl.val).holdFwd = true ∧ t.mem = s.mem ∧ t.cores = s.cores) ∧
    ((s.job sl.val).held = true → b.stillHeld sl.val = false → ∃ t : State, exec (.holdNoticeTimer sl) s = .next t ∧
      t.job sl.val = { s.job sl.val with holdFwd := false, held := false, holdCause := 0, holdLow := 0 } ∧ t.mem = s.mem ∧ t.cores = s.cores)) ∧
  (∀ (s : State) (c : CoreId),
    ((s.job 0).member = false ∨ (s.job 0).admitted = false ∨ s.inRollback 0 = true ∨ s.ingestHeld c.val 0 = false ∨ (s.job 0).held = true →
      exec (.ingestHoldTimeout c) s = .next s) ∧
    ((s.job 0).member = true → (s.job 0).admitted = true → s.inRollback 0 = false → s.ingestHeld c.val 0 = true → (s.job 0).held = false →
      ∃ t : State, exec (.ingestHoldTimeout c) s = .next t ∧ t.job 0 = { s.job 0 with held := true, holdCause := 3, holdLow := s.ownRank, holdFwd := true } ∧
        t.mem = s.mem ∧ t.cores = s.cores))

/-- Derived. ROW_UPDATE with no ready row of the engine changes nothing; else it takes the first ready row of the lowest slot
in update order, counting the turn when a later row lies at a lower address. With its gradient sums and its old record read,
the record computed from them is queued last at the row's stack and the row is begun, and memory stays; with the sums or the
record lost nothing is queued. RECORD_WRITE_ACCEPT with no record queued changes nothing; else the first record leaves the
queue and is written as a class 3 request, its row is marked accepted, its bytes are owed to the export, and batches that
waited for it are served. PERMUTE_COMPLETE changes nothing before every piece is here; then a module outside the new layout
leaves the job, and any other forms it; in slot 0 it also closes the boundary and announces the job. (08_embedding_update.md
R237, R238, R239, R240, R241, R245; 12_fabric_traffic.md R367) -/
def Obligations.RowsAreUpdatedAcceptedAndPermuted : Prop :=
  (∀ (s : State) (e : EngineId),
    ((∀ sl, sl < 4 → s.readyRows sl e.val = []) → exec (.rowUpdate e) s = .next s) ∧
    (∀ (sl : Nat) (u : UpdateRow) (rest : List UpdateRow) (a : State), sl < 4 → s.readyRows sl e.val = u :: rest → (∀ i, i < sl → s.readyRows i e.val = []) →
      a = (if ∃ x ∈ rest, x.addr < u.addr then s.inc (dieReg (s.stackOf sl u.key) 0x38) 1 else s) →
      (∀ b, a.rowSums sl u = (none, b) → exec (.rowUpdate e) s = .next b) ∧
      (∀ acc b, a.rowSums sl u = (some acc, b) → ∀ r, r = b.readRecord (reAsker (if u.hot.isSome then 1 else 3) sl u.step 9) u.key →
        (∀ c, r = (none, c) → exec (.rowUpdate e) s = .next c) ∧
        (∀ bs w c, r = (some (bs, w), c) → ∃ (t : State) (new : List Byte), exec (.rowUpdate e) s = .next t ∧ t.mem = c.mem ∧ t.cores = c.cores ∧
          (t.mc (c.stackOf sl u.key)).records = (c.mc (c.stackOf sl u.key)).records ++ [{ slot := sl, key := u.key, step := u.step, addr := u.addr, bytes := new, old := w }] ∧
          (t.job sl).owner.updates = (c.job sl).owner.updates.map (fun x => if x.key = u.key && decide (x.step = u.step) then { x with begun := true } else x))))) ∧
  (∀ (s : State) (st : StackId),
    ((s.mc st.val).records = [] → exec (.recordWriteAccept st) s = .next s) ∧
    (∀ r rest, (s.mc st.val).records = r :: rest → ∀ w : State, w = ((s.updMc st.val (fun m => { m with records := rest })).memWrite (reAsker 3 r.slot r.step 9) r.addr r.bytes).2 →
      ∃ u : State, exec (.recordWriteAccept st) s = .next (u.serveReady r.slot) ∧ u.mem = w.mem ∧ u.cores = w.cores ∧
        u.reg (dieReg st.val 0x30) = (w.inc (dieReg st.val 0x30) 1).reg (dieReg st.val 0x30) ∧
        (u.job r.slot).owner.updates = (w.job r.slot).owner.updates.map (fun x => if x.key = r.key && decide (x.step = r.step) then { x with accepted := true, alias_ := false } else x) ∧
        (u.job r.slot).owner.diffs = (w.job r.slot).owner.diffs ++ [{ key := r.key, step := r.step, bytes := r.bytes.take ((s.recLayout r.slot r.key.table).check + 4) }] ∧
        ((∀ b ∈ (w.job r.slot).owner.batches, b.whole = false ∨ b.answered = true) → exec (.recordWriteAccept st) s = .next u))) ∧
  (∀ (s : State) (sl : SlotId),
    ((s.job sl.val).permuted = false → exec (.permuteComplete sl) s = .next s) ∧
    ((s.job sl.val).permuted = true → s.fuses.serial ∉ (s.job sl.val).proposal → exec (.permuteComplete sl) s = .next s.leaveJob) ∧
    ((s.job sl.val).permuted = true → s.fuses.serial ∈ (s.job sl.val).proposal → sl.val ≠ 0 → exec (.permuteComplete sl) s = .next (s.finishPermute sl.val)) ∧
    ((s.job sl.val).permuted = true → s.fuses.serial ∈ (s.job sl.val).proposal → sl.val = 0 → ∃ u : State, exec (.permuteComplete sl) s = .next (u.closeBoundary (s.job 0).committed).refreshJob ∧
      u.link.grown = [] ∧ (u.job 0).wantReshard = false ∧ u.mem = (s.finishPermute 0).mem ∧ u.cores = (s.finishPermute 0).cores))

/-- Derived. ROLLBACK_DRAIN_END changes nothing outside stage 2 of a rollback; there the stage becomes 3, the proposal becomes
the named step or else the acknowledged one, and the rollback vote is cast. ROLLBACK_WAIT in stage 3 writes record 0x0B05, and
changes nothing elsewhere. FLINT_POINT_END outside a run changes nothing; a point before the last moves on, a failed one is
recorded and remembered with two free values; the last ends the run: memory is empty and the run counts. FLINT_RETEST starts a
run in a quarantined module at stage 9 with none under way. FILLER_FLINT, enabled with no filler in slot 3 and a running job,
counts a run; a failed one also strikes; else it changes nothing. (16_faults_and_recovery.md R483, R485, R486, R493, R494,
R495, R496) -/
def Obligations.RollbackStagesAndFlintRunsComplete : Prop :=
  ∀ (s : State) (passed : Bool),
    (s.rfld faultStatus 2 2 ≠ 1 ∨ s.rfld faultStatus 11 8 ≠ 2 → exec .rollbackDrainEnd s = .next s) ∧
    (s.rfld faultStatus 2 2 = 1 → s.rfld faultStatus 11 8 = 2 → ∃ u : State, exec .rollbackDrainEnd s = .next u.castRollback ∧
      u.rfld faultStatus 11 8 = 3 ∧ u.faults.propose = s.faults.named.getD (s.regN (ackReg 0)) ∧ u.mem = s.mem ∧ u.cores = s.cores ∧ u.jobs = s.jobs) ∧
    (s.rfld faultStatus 2 2 ≠ 1 ∨ s.rfld faultStatus 11 8 ≠ 3 → exec .rollbackWait s = .next s) ∧
    (s.rfld faultStatus 2 2 = 1 → s.rfld faultStatus 11 8 = 3 → ∃ t : State, exec .rollbackWait s = .next t ∧ t.mem = s.mem ∧ t.cores = s.cores ∧
      t = s.raiseError { code := 0x0B05, step := (s.job 0).committed, d5 := s.faults.propose, d6 := (s.roundOf 0 { closing := true, rollback := true }).kids.length }) ∧
    (s.faults.flintPoint = none → exec (.flintPointEnd passed) s = .next s) ∧
    (∀ k, s.faults.flintPoint = some k → k < 4 → ∃ t : State, exec (.flintPointEnd passed) s = .next t ∧ t.faults.flintPoint = some (k + 1) ∧
      t.mem = s.mem ∧ t.cores = s.cores ∧
      (passed = true → t.regs = s.regs ∧ t.faults.flintFailed = s.faults.flintFailed ∧ t.freeCtr = s.freeCtr) ∧
      (passed = false → t.faults.flintFailed = true ∧ t.freeCtr = s.freeCtr + 2)) ∧
    (∀ k, s.faults.flintPoint = some k → 4 ≤ k → ∃ u : State, exec (.flintPointEnd passed) s = .next u.flintClear ∧ u.faults.flintPoint = none ∧
      u.faults.flintPasses = (if passed = true ∧ s.faults.flintFailed = false then s.faults.flintPasses + 1 else 0) ∧ u.mem = [] ∧ u.memErr = [] ∧ u.cores = s.cores ) ∧
    (s.rfld faultStatus 4 4 ≠ 1 ∨ s.stage ≠ 9 ∨ s.faults.flintPoint ≠ none → exec .flintRetest s = .next s) ∧
    (s.rfld faultStatus 4 4 = 1 → s.stage = 9 → s.faults.flintPoint = none → ∃ t : State, exec .flintRetest s = .next t ∧
      t.faults.flintPoint = some 0 ∧ t.faults.flintFailed = false ∧ t.rfld faultStatus 6 6 = 1 ∧ t.mem = s.mem ∧ t.cores = s.cores ∧ t.jobs = s.jobs) ∧
    (s.fillerFlint = false ∨ s.jobRunning = false → exec (.fillerFlint passed) s = .next s) ∧
    (s.fillerFlint = true → s.jobRunning = true →
      (passed = true → ∃ t : State, exec (.fillerFlint passed) s = .next t ∧ t.reg (faultReg 0x58) = (s.inc (faultReg 0x58) 1).reg (faultReg 0x58) ∧
        t.reg (faultReg 0x60) = s.reg (faultReg 0x60) ∧ t.reg (faultReg 0x68) = BitVec.ofNat 64 (s.inc (faultReg 0x58) 1).now ∧
        t.mem = s.mem ∧ t.cores = s.cores ∧ t.jobs = s.jobs) ∧
      (passed = false → ∃ u : State, exec (.fillerFlint passed) s = .next ((u.flintFail 0).strike 0x0C01) ∧
        u.reg (faultReg 0x58) = (s.inc (faultReg 0x58) 1).reg (faultReg 0x58) ∧ u.reg (faultReg 0x60) = (s.inc (faultReg 0x60) 1).reg (faultReg 0x60) ∧
        u.mem = s.mem ∧ u.cores = s.cores ∧ u.jobs = s.jobs))

/-- Derived. IMAGE_SELECTION outside stage 1 or without the service domain changes nothing; else it checks both flash devices
and the fuses, rejects a trial slot out of attempts, and tries the slots in boot order: with none left the module enters
recovery; a trial slot counts an attempt; the first slot that verifies is booted, one that does not is rejected and marked
bad, and the next is tried. CROSSING_TIMEOUT changes nothing for a crossing that is stalled already or not up; else it is
marked stalled, counted in its class and recorded. PARTNER_DEAD changes nothing for a crossing that is not stalled; else: an
island's domain goes down, is listed dead and quarantines the module; optical ports retrain; the host link loses L0; flash
devices are checked; SMBus is free again; JTAG only ends the stall; the service complex restarts. (15_start_and_retention.md
R446; 14_boot_image.md R409, R412; 16_faults_and_recovery.md R491, R492; 17_pace_power_thermal.md R524) -/
def Obligations.ImageSelectionAndCrossingsComplete : Prop :=
  (∀ (s : State),
    (s.stage ≠ 1 ∨ 48 ∉ s.start.domainsUp → exec .imageSelection s = .next s) ∧
    (s.stage = 1 → 48 ∈ s.start.domainsUp → ∀ u, u = (((((s.flashCheck 0).flashCheck 1).identity).trialLimit 0).trialLimit 1) →
      exec .imageSelection s = .next (u.trySlots u.bootOrder) ∧
      (u.bootOrder = [] → exec .imageSelection s = .next u.enterRecovery) ∧
      (∀ x rest v, u.bootOrder = x :: rest → v = (if (u.cb x).state = 3 then u.putCb x (fun c => { c with tries := c.tries + 1 }) else u) →
        (v.verify x = none → exec .imageSelection s = .next (v.boot x)) ∧
        (∀ e, v.verify x = some e → exec .imageSelection s = .next (((v.reject e x).markBad x e.code).trySlots rest))))) ∧
  (∀ (s : State) (x : Crossing),
    (x ∈ s.pace.stalled ∨ s.domainUp x.domain.val = false ∨ s.domainUp 48 = false → exec (.crossingTimeout x) s = .next s) ∧
    (x ∉ s.pace.stalled → s.domainUp x.domain.val = true → s.domainUp 48 = true → ∃ t : State, exec (.crossingTimeout x) s = .next t ∧
      t.pace.stalled = s.pace.stalled ++ [x] ∧
      t.reg (pgReg (0x100 + 8 * x.cls.val)) = (s.inc (pgReg (0x100 + 8 * x.cls.val)) 1).reg (pgReg (0x100 + 8 * x.cls.val)) ∧
      t.mem = s.mem ∧ t.cores = s.cores ∧ t.ports = s.ports) ∧
    (x ∉ s.pace.stalled → exec (.partnerDead x) s = .next s) ∧
    (x ∈ s.pace.stalled → ∀ v, v = s.setStalled x false → v.pace.stalled = s.pace.stalled.filter (fun y => y != x) ∧
      (crossPartner x = .island → exec (.partnerDead x) s = .next (s.islandDead x)) ∧
      (∀ ports, crossPartner x = .optical ports → exec (.partnerDead x) s = .next (ports.foldl State.enterRetrain v)) ∧
      (crossPartner x = .pcie → ∃ t : State, exec (.partnerDead x) s = .next t ∧ t.link.l0 = false ∧ t.pace = v.pace ∧ t.mem = s.mem ∧ t.regs = s.regs) ∧
      (crossPartner x = .flash → exec (.partnerDead x) s = .next ((v.flashFault 0).flashFault 1)) ∧
      (crossPartner x = .smbus → ∃ t : State, exec (.partnerDead x) s = .next t ∧ t.pins.smbStuck = false ∧ t.pace = v.pace ∧ t.mem = s.mem ∧ t.regs = s.regs) ∧
      (crossPartner x = .jtag → exec (.partnerDead x) s = .next v) ∧
      (crossPartner x = .service → exec (.partnerDead x) s = .next (s.beginStart 5 [] []))) ∧
    (∃ w : State, s.islandDead x = w.quarantine 0x0802 ∧ x.domain.val ∉ w.start.domainsUp ∧ x.domain.val ∈ w.pace.deadDomains ∧
      (s.jobRunning = true → (w.job 0).cause = max (s.job 0).cause 0x3003) ∧ (s.jobRunning = false → (w.job 0).cause = (s.job 0).cause) ∧
      w.mem = s.mem ∧ w.cores = s.cores))

/-- Derived. BEACON of another kind changes nothing; a bad one is discarded, counted and recorded; a good one counts. One of
the own serial no older than the own entry makes the own epoch pass it and the own entry goes out again; an older one changes
nothing more, nor does one of another fabric or one no newer than the entry held. A newer one replaces the entry of its
serial; changed links start the database over, and the map is adopted when every beacon of it shows its digest. DATABASE_QUIET
while quiet, before stage 3, in recovery or stopped, or without the service domain changes nothing; else the map is computed,
entries outside it are dropped, its digest is formed and announced and adoption is tried. MAP_STALL, in a quiet database that
waits and has not been counted, counts and records the stall; else it changes nothing. (11_fabric_links.md R321, R322, R323,
R325, R326) -/
def Obligations.BeaconsMapsAndStallsComplete : Prop :=
  (∀ (s : State) (p : PortId) (m : Message),
    (m.kind ≠ 1 → exec (.beacon p m) s = .next s) ∧
    (m.kind = 1 → m.good = false → ∃ t : State, exec (.beacon p m) s = .next t ∧ t.inbox = s.inbox.erase m ∧ t.fabric = s.fabric ∧ t.mem = s.mem ∧ t.cores = s.cores ∧
      t.reg (xuReg 0x18) = (s.inc (xuReg 0x18) 1).reg (xuReg 0x18)) ∧
    (m.kind = 1 → m.good = true → ∀ a b, a = State.inc { s with inbox := s.inbox.erase m } (xuReg 0x10) 1 → b = readBeacon m.body →
      (b.serial = s.fuses.serial → b.epoch < s.fabric.epoch → exec (.beacon p m) s = .next a) ∧
      (b.serial = s.fuses.serial → s.fabric.epoch ≤ b.epoch → ∃ (u : State) (own : BeaconEntry), exec (.beacon p m) s = .next (u.upPorts.foldl (fun s q => State.sendBeacon s own q) u.queueFabric) ∧
        u.fabric.epoch = b.epoch + 1 ∧ own = u.ownBeacon ∧ u.fabric.db = SMap.put s.fabric.db own.serial own ∧ u.mem = s.mem ∧ u.cores = s.cores) ∧
      (b.serial ≠ s.fuses.serial → b.fabricId ≠ a.fabricId ∨ (∃ e, SMap.find? s.fabric.db b.serial = some e ∧ b.epoch ≤ e.epoch) → exec (.beacon p m) s = .next a) ∧
      (b.serial ≠ s.fuses.serial → b.fabricId = a.fabricId → (∀ e, SMap.find? s.fabric.db b.serial = some e → e.epoch < b.epoch) → ∃ u w : State,
        u.fabric.db = SMap.put s.fabric.db b.serial b ∧ u.mem = s.mem ∧ u.cores = s.cores ∧
        w = (u.upPorts.filter (· ≠ p.val)).foldl (fun s q => State.sendBeacon s b q) u ∧
        (SMap.find? s.fabric.db b.serial = none ∨ (∃ e, SMap.find? s.fabric.db b.serial = some e ∧ e.links ≠ b.links) →
          exec (.beacon p m) s = .next (({ w with fabric := { w.fabric with quiet := false } } : State).linksChanged.tryAdopt)) ∧
        (∀ e, SMap.find? s.fabric.db b.serial = some e → e.links = b.links →
          (e.noisy b = true → exec (.beacon p m) s = .next (({ w with fabric := { w.fabric with quiet := false } } : State).tryAdopt)) ∧
          (e.noisy b = false → exec (.beacon p m) s = .next w.tryAdopt))))) ∧
  (∀ (s : State),
    (s.fabric.quiet = true ∨ s.stage < 3 ∨ s.stage = 10 ∨ s.stage = 12 ∨ 48 ∉ s.start.domainsUp → exec .databaseQuiet s = .next s) ∧
    (s.fabric.quiet = false → 3 ≤ s.stage → s.stage ≠ 10 → s.stage ≠ 12 → 48 ∈ s.start.domainsUp → ∃ u : State, exec .databaseQuiet s = .next (u.announce.tryAdopt) ∧
      u.fabric.computed = s.computeMap ∧ u.fabric.digest = some (mapDigest s.computeMap) ∧ u.fabric.quiet = true ∧ u.fabric.waiting = true ∧
      u.fabric.db = s.fabric.db.filter (fun e => s.computeMap.any (fun x => decide (x.1 = e.1))) ∧ u.regs = s.regs ∧ u.mem = s.mem ∧ u.cores = s.cores) ∧
    (s.fabric.digest = none ∨ s.fabric.quiet = false ∨ s.fabric.waiting = false ∨ s.fabric.refused = true → s.tryAdopt = s) ∧
    (∀ d, s.fabric.digest = some d → s.fabric.quiet = true → s.fabric.waiting = true → s.fabric.refused = false →
      ((∃ x ∈ s.fabric.computed, ∀ e, SMap.find? s.fabric.db x.1 = some e → e.dv = false ∨ e.digest ≠ d) → s.tryAdopt = s) ∧
      ((∀ x ∈ s.fabric.computed, ∃ e, SMap.find? s.fabric.db x.1 = some e ∧ e.dv = true ∧ e.digest = d) →
        (diameter s.fabric.computed ≤ 32 → s.tryAdopt = s.adoptMap) ∧
        (32 < diameter s.fabric.computed → s.tryAdopt.fabric.refused = true ∧ s.tryAdopt.rfld fabStatus 3 3 = 1 ∧ s.tryAdopt.mem = s.mem))) ∧
    (s.fabric.quiet = false ∨ s.fabric.waiting = false ∨ s.fabric.stalled = true → exec .mapStall s = .next s) ∧
    (s.fabric.quiet = true → s.fabric.waiting = true → s.fabric.stalled = false → ∃ t : State, exec .mapStall s = .next t ∧ t.fabric = { s.fabric with stalled := true } ∧
      t.reg (fabReg 0x40) = (s.inc (fabReg 0x40) 1).reg (fabReg 0x40) ∧ t.mem = s.mem ∧ t.cores = s.cores))
end

