-- ==== Sys2Proof/Laws/Map.lean ====
section
/-! SUPPORT. Laws of the sorted maps and of the byte memories built from them: a read after a write, what a write leaves
alone, and that every write keeps the canonical form. -/

namespace Sys2Proof.Machine

open Sys2Proof

/-! Reads after writes. -/

@[simp] theorem SMap.find_put_same {α : Type} (m : SMap α) (a : Nat) (x : α) : SMap.find? (SMap.put m a x) a = some x := by
  induction m with
  | nil => simp [SMap.put, SMap.find?]
  | cons e m ih =>
    obtain ⟨k, v⟩ := e
    simp only [SMap.put]
    split
    · simp [SMap.find?]
    · split
      · simp [SMap.find?]
      · simp [SMap.find?, *]

theorem SMap.find_put_other {α : Type} (m : SMap α) (a b : Nat) (x : α) (h : b ≠ a) :
    SMap.find? (SMap.put m a x) b = SMap.find? m b := by
  induction m with
  | nil => simp [SMap.put, SMap.find?, h]
  | cons e m ih =>
    obtain ⟨k, v⟩ := e
    simp only [SMap.put]
    split
    · simp [SMap.find?, h]
    · split
      · rename_i h2
        subst h2
        simp [SMap.find?, h]
      · simp [SMap.find?, ih]

@[simp] theorem SMap.find_del_same {α : Type} (m : SMap α) (a : Nat) : SMap.find? (SMap.del m a) a = none := by
  induction m with
  | nil => simp [SMap.del, SMap.find?]
  | cons e m ih =>
    obtain ⟨k, v⟩ := e
    simp only [SMap.del]
    split
    · exact ih
    · simp [SMap.find?, *]

theorem SMap.find_del_other {α : Type} (m : SMap α) (a b : Nat) (h : b ≠ a) :
    SMap.find? (SMap.del m a) b = SMap.find? m b := by
  induction m with
  | nil => simp [SMap.del]
  | cons e m ih =>
    obtain ⟨k, v⟩ := e
    simp only [SMap.del]
    split
    · rename_i h2
      subst h2
      simp [SMap.find?, h, ih]
    · simp [SMap.find?, ih]

theorem SMap.find_put {α : Type} (m : SMap α) (a b : Nat) (x : α) :
    SMap.find? (SMap.put m a x) b = if b = a then some x else SMap.find? m b := by
  split
  · rename_i h; subst h; simp
  · rename_i h; exact SMap.find_put_other m a b x h

theorem SMap.find_del {α : Type} (m : SMap α) (a b : Nat) :
    SMap.find? (SMap.del m a) b = if b = a then none else SMap.find? m b := by
  split
  · rename_i h; subst h; simp
  · rename_i h; exact SMap.find_del_other m a b h

theorem SMap.getD_put {α : Type} (m : SMap α) (a b : Nat) (x d : α) :
    SMap.getD (SMap.put m a x) b d = if b = a then x else SMap.getD m b d := by
  simp only [SMap.getD, SMap.find_put]
  split <;> simp

theorem SMap.getD_del {α : Type} (m : SMap α) (a b : Nat) (d : α) :
    SMap.getD (SMap.del m a) b d = if b = a then d else SMap.getD m b d := by
  simp only [SMap.getD, SMap.find_del]
  split <;> simp

@[simp] theorem SMap.getD_put_same {α : Type} (m : SMap α) (a : Nat) (x d : α) : SMap.getD (SMap.put m a x) a d = x := by
  simp [SMap.getD_put]

@[simp] theorem SMap.getD_nil {α : Type} (a : Nat) (d : α) : SMap.getD ([] : SMap α) a d = d := rfl

@[simp] theorem SMap.find_nil {α : Type} (a : Nat) : SMap.find? ([] : SMap α) a = none := rfl

theorem SMap.getD_upd {α : Type} (m : SMap α) (a b : Nat) (d : α) (f : α → α) :
    SMap.getD (SMap.upd m a d f) b d = if b = a then f (SMap.getD m a d) else SMap.getD m b d := by
  simp [SMap.upd, SMap.getD_put]

@[simp] theorem SMap.getD_upd_same {α : Type} (m : SMap α) (a : Nat) (d : α) (f : α → α) :
    SMap.getD (SMap.upd m a d f) a d = f (SMap.getD m a d) := by
  simp [SMap.getD_upd]

theorem modAt_get {α : Type} (l : List α) (k : Nat) (f : α → α) (r : α) (h : l[k]? = some r) : (modAt l k f)[k]? = some (f r) := by
  induction l generalizing k with
  | nil => simp at h
  | cons a l ih =>
    cases k with
    | zero => simp at h; subst h; simp [modAt]
    | succ k => simp at h; simp [modAt, ih k h]

theorem SMap.getD_setW (m : SMap W32) (a b : Nat) (v : W32) :
    SMap.getD (SMap.setW m a v) b 0 = if b = a then v else SMap.getD m b 0 := by
  unfold SMap.setW
  split
  · rename_i h; subst h; rw [SMap.getD_del]
  · rw [SMap.getD_put]

/-! The canonical form. -/

/-- Every key of a map lies above `k`. -/
theorem SMap.sorted_cons {α : Type} (k : Nat) (v : α) (m : SMap α) :
    SMap.sorted ((k, v) :: m) = true ↔ (∀ e ∈ m, k < e.1) ∧ SMap.sorted m = true := by
  induction m generalizing k v with
  | nil => simp [SMap.sorted]
  | cons e m ih =>
    obtain ⟨k', v'⟩ := e
    simp only [SMap.sorted, Bool.and_eq_true, decide_eq_true_eq, List.mem_cons, forall_eq_or_imp]
    constructor
    · rintro ⟨h1, h2⟩
      exact ⟨⟨h1, fun e he => Nat.lt_trans h1 (((ih k' v').1 h2).1 e he)⟩, h2⟩
    · rintro ⟨⟨h1, _⟩, h2⟩
      exact ⟨h1, h2⟩

theorem SMap.mem_put {α : Type} (m : SMap α) (a : Nat) (x : α) (e : Nat × α) (h : e ∈ SMap.put m a x) :
    e = (a, x) ∨ e ∈ m := by
  induction m with
  | nil => simpa [SMap.put] using h
  | cons f m ih =>
    obtain ⟨k, v⟩ := f
    simp only [SMap.put] at h
    split at h
    · simpa using h
    · split at h
      · rcases List.mem_cons.1 h with h | h
        · exact .inl h
        · exact .inr (List.mem_cons_of_mem _ h)
      · rcases List.mem_cons.1 h with h | h
        · exact .inr (h ▸ List.mem_cons_self)
        · rcases ih h with h | h
          · exact .inl h
          · exact .inr (List.mem_cons_of_mem _ h)

theorem SMap.mem_del {α : Type} (m : SMap α) (a : Nat) (e : Nat × α) (h : e ∈ SMap.del m a) : e ∈ m := by
  induction m with
  | nil => simp [SMap.del] at h
  | cons f m ih =>
    obtain ⟨k, v⟩ := f
    simp only [SMap.del] at h
    split at h
    · exact List.mem_cons_of_mem _ (ih h)
    · rcases List.mem_cons.1 h with h | h
      · exact h ▸ List.mem_cons_self
      · exact List.mem_cons_of_mem _ (ih h)

theorem SMap.sorted_put {α : Type} (m : SMap α) (a : Nat) (x : α) (h : SMap.sorted m = true) :
    SMap.sorted (SMap.put m a x) = true := by
  induction m with
  | nil => simp [SMap.put, SMap.sorted]
  | cons f m ih =>
    obtain ⟨k, v⟩ := f
    have h' := (SMap.sorted_cons k v m).1 h
    simp only [SMap.put]
    split
    · rename_i hlt
      rw [SMap.sorted_cons]
      exact ⟨fun e he => by
        rcases List.mem_cons.1 he with he | he
        · rw [he]; exact hlt
        · exact Nat.lt_trans hlt (h'.1 e he), h⟩
    · split
      · rename_i heq
        rw [SMap.sorted_cons]
        exact ⟨fun e he => heq ▸ h'.1 e he, h'.2⟩
      · rw [SMap.sorted_cons]
        refine ⟨fun e he => ?_, ih h'.2⟩
        rcases SMap.mem_put m a x e he with he | he
        · rw [he]; dsimp only; omega
        · exact h'.1 e he

theorem SMap.sorted_del {α : Type} (m : SMap α) (a : Nat) (h : SMap.sorted m = true) : SMap.sorted (SMap.del m a) = true := by
  induction m with
  | nil => simp [SMap.del, SMap.sorted]
  | cons f m ih =>
    obtain ⟨k, v⟩ := f
    have h' := (SMap.sorted_cons k v m).1 h
    simp only [SMap.del]
    split
    · exact ih h'.2
    · rw [SMap.sorted_cons]
      exact ⟨fun e he => h'.1 e (SMap.mem_del m a e he), ih h'.2⟩

/-! Byte memories. -/

theorem Mem.getF_setF (fill : Byte) (m : Mem) (a b : Nat) (v : Byte) :
    Mem.getF fill (Mem.setF fill m a v) b = if b = a then v else Mem.getF fill m b := by
  unfold Mem.getF Mem.setF
  split
  · rename_i h; rw [SMap.getD_del, h]
  · rw [SMap.getD_put]

theorem Mem.get_set (m : Mem) (a b : Nat) (v : Byte) : Mem.get (Mem.set m a v) b = if b = a then v else Mem.get m b :=
  Mem.getF_setF 0 m a b v

theorem Mem.get_putBytes_outside (m : Mem) (a : Nat) (bs : List Byte) (b : Nat) (h : b < a ∨ a + bs.length ≤ b) :
    Mem.get (Mem.putBytes m a bs) b = Mem.get m b := by
  induction bs generalizing m a with
  | nil => rfl
  | cons x bs ih =>
    simp only [List.length_cons] at h
    rw [Mem.putBytes, ih _ _ (by omega), Mem.get_set, if_neg (by omega)]

theorem Mem.get_putBytes_inside (m : Mem) (a : Nat) (bs : List Byte) (i : Nat) (h : i < bs.length) :
    Mem.get (Mem.putBytes m a bs) (a + i) = bs[i] := by
  induction bs generalizing m a i with
  | nil => simp at h
  | cons x bs ih =>
    rw [Mem.putBytes]
    cases i with
    | zero => rw [Mem.get_putBytes_outside _ _ _ _ (by omega), Mem.get_set]; simp
    | succ i =>
      have := ih (Mem.set m a x) (a + 1) i (by simpa using h)
      rw [show a + (i + 1) = a + 1 + i by omega, this]
      simp

theorem Mem.bytes_putBytes (m : Mem) (a : Nat) (bs : List Byte) : Mem.bytes (Mem.putBytes m a bs) a bs.length = bs := by
  apply List.ext_getElem
  · simp [Mem.bytes]
  · intro i h1 h2
    simp only [Mem.bytes, List.getElem_map, List.getElem_range]
    exact Mem.get_putBytes_inside m a bs i h2

/-- R276, R558: a write of one byte keeps the canonical form. -/
theorem Mem.wfF_setF (fill : Byte) (m : Mem) (a : Nat) (v : Byte) (h : Mem.wfF fill m = true) :
    Mem.wfF fill (Mem.setF fill m a v) = true := by
  simp only [Mem.wfF, Bool.and_eq_true, List.all_eq_true, decide_eq_true_eq] at h ⊢
  unfold Mem.setF
  split
  · exact ⟨SMap.sorted_del m a h.1, fun e he => h.2 e (SMap.mem_del m a e he)⟩
  · rename_i hv
    refine ⟨SMap.sorted_put m a v h.1, fun e he => ?_⟩
    rcases SMap.mem_put m a v e he with he | he
    · rw [he]; exact hv
    · exact h.2 e he

theorem Memory.wf_set (m : Mem) (a : Nat) (v : Byte) (h : Memory.wf m = true) : Memory.wf (Mem.set m a v) = true :=
  Mem.wfF_setF 0 m a v h

theorem Memory.wf_putBytes (m : Mem) (a : Nat) (bs : List Byte) (h : Memory.wf m = true) :
    Memory.wf (Mem.putBytes m a bs) = true := by
  induction bs generalizing m a with
  | nil => exact h
  | cons x bs ih => exact ih _ _ (Memory.wf_set m a x h)

end Sys2Proof.Machine
end

