-- ==== Sys2Proof/Laws/Store.lean ====
section
/-! SUPPORT. The part of the state that most operations leave alone, as one value, so that one equation per operation says
that it changes no memory, no core, no fuse and no waiting command. -/

namespace Sys2Proof.Machine

open Sys2Proof

/-- The queue, the fuses, the byte memories and the cores of a state. -/
structure Store where
  pending : List Instr
  fuses : Fuses
  mem : Mem
  flash0 : FlashDevice
  flash1 : FlashDevice
  cores : SMap CoreState

/-- The store of a state. -/
def State.store (s : State) : Store := ⟨s.pending, s.fuses, s.mem, s.flash0, s.flash1, s.cores⟩

/-- An update of the other fields leaves the store alone. -/
@[simp] theorem State.store_with (s : State) (b c d e h i j k l m n o p q r v w x y z a' b') :
    State.store (State.mk s.pending b c d e s.cores s.mem h i j k l m n o p q r s.flash0 s.flash1 s.fuses v w x y z a' b') = s.store := by cases s; rfl

@[simp] theorem State.store_ite (c : Prop) [Decidable c] (a b : State) :
    (if c then a else b).store = if c then a.store else b.store := by split <;> rfl

/-- A fold whose every step leaves the store alone leaves it alone. -/
@[simp] theorem State.store_foldl {α : Type} (f : State → α → State) (l : List α) (s : State)
    (h : ∀ s a, (f s a).store = s.store) : (l.foldl f s).store = s.store := by
  induction l generalizing s with
  | nil => rfl
  | cons a l ih => rw [List.foldl_cons, ih, h]

end Sys2Proof.Machine
end

