-- ==== Sys2Proof/Laws/Inv.lean ====
section
/-! SUPPORT. The invariant of `Safety` on stores and cores: what the shared updates of a state, a core and a memory keep. -/

namespace Sys2Proof.Machine

open Sys2Proof

/-- The invariant as a property of the store. -/
def Store.Inv (x : Store) : Prop :=
  Memory.wf x.mem = true ∧ Mem.wfF 0xFF x.flash0.bytes = true ∧ Mem.wfF 0xFF x.flash1.bytes = true ∧
  ∀ c, CoreState.Inv (SMap.getD x.cores c {})

theorem State.inv_store (s : State) : s.Inv ↔ s.store.Inv := Iff.rfl

/-- What holds of both branches holds of a choice. -/
theorem ite_keeps {α : Type} (P : α → Prop) {c : Prop} [Decidable c] {a b : α} (ha : P a) (hb : P b) : P (if c then a else b) := by
  split
  · exact ha
  · exact hb

/-- The queue and the fixed fuses, which no command writes. -/
def Store.kept (x : Store) : List Instr × Fuses := (x.pending, x.fuses.fixed)

@[simp] theorem Store.inv_ite (c : Prop) [Decidable c] (a b : Store) :
    (if c then a else b).Inv ↔ (c → a.Inv) ∧ (¬c → b.Inv) := by split <;> simp [*]

@[simp] theorem Store.kept_ite (c : Prop) [Decidable c] (a b : Store) :
    (if c then a else b).kept = if c then a.kept else b.kept := by split <;> rfl

theorem State.store_updCore (s : State) (c : Nat) (f : CoreState → CoreState) :
    (s.updCore c f).store = { s.store with cores := SMap.upd s.cores c {} f } := rfl

@[simp] theorem State.kept_updCore (s : State) (c : Nat) (f : CoreState → CoreState) : (s.updCore c f).store.kept = s.store.kept := rfl

/-- An update of one core keeps the invariant where the new core meets it. -/
theorem State.inv_updCore_at (s : State) (c : Nat) (f : CoreState → CoreState) (h : s.store.Inv)
    (hf : (s.core c).Inv → (f (s.core c)).Inv) : (s.updCore c f).store.Inv := by
  refine ⟨h.1, h.2.1, h.2.2.1, fun d => ?_⟩
  show CoreState.Inv (SMap.getD (SMap.upd s.cores c {} f) d {})
  rw [SMap.getD_upd]
  split
  · exact hf (h.2.2.2 c)
  · exact h.2.2.2 d

@[simp] theorem State.inv_updCore (s : State) (c : Nat) (f : CoreState → CoreState) (h : s.store.Inv)
    (hf : ∀ k : CoreState, k.Inv → (f k).Inv) : (s.updCore c f).store.Inv :=
  State.inv_updCore_at s c f h (hf _)

/-- A new module memory keeps the invariant where it is canonical. -/
theorem State.inv_mem (s : State) (m : Mem) (h : s.store.Inv) (hm : Memory.wf m = true) (b c d e h' i j k l m' n o p q r v w x y z a' b') :
    (State.store (State.mk s.pending b c d e s.cores m h' i j k l m' n o p q r s.flash0 s.flash1 s.fuses v w x y z a' b')).Inv :=
  ⟨hm, h.2⟩

theorem State.kept_mk (b c d e f g h i j k l m n o p q r f0 f1 v w x y z a' b') (s : State) :
    (State.store (State.mk s.pending b c d e f g h i j k l m n o p q r f0 f1 s.fuses v w x y z a' b')).kept = s.store.kept := by cases s; rfl

/-- A fold whose every step keeps the invariant keeps it. -/
theorem State.inv_foldl {α : Type} (f : State → α → State) (l : List α) (s : State) (hs : s.store.Inv)
    (h : ∀ s a, s.store.Inv → (f s a).store.Inv) : (l.foldl f s).store.Inv := by
  induction l generalizing s with
  | nil => exact hs
  | cons a l ih => exact ih _ (h s a hs)

/-- A fold over pairs of which the second part is a state. -/
theorem State.inv_foldl_snd {α β : Type} (f : β × State → α → β × State) (l : List α) (s : β × State) (hs : s.2.store.Inv)
    (h : ∀ s a, s.2.store.Inv → (f s a).2.store.Inv) : (l.foldl f s).2.store.Inv := by
  induction l generalizing s with
  | nil => exact hs
  | cons a l ih => exact ih _ (h s a hs)

theorem State.kept_foldl {α : Type} (f : State → α → State) (l : List α) (s : State)
    (h : ∀ s a, (f s a).store.kept = s.store.kept) : (l.foldl f s).store.kept = s.store.kept := by
  induction l generalizing s with
  | nil => rfl
  | cons a l ih => rw [List.foldl_cons, ih, h]

theorem State.kept_foldl_snd {α β : Type} (f : β × State → α → β × State) (l : List α) (s : β × State)
    (h : ∀ s a, (f s a).2.store.kept = s.2.store.kept) : (l.foldl f s).2.store.kept = s.2.store.kept := by
  induction l generalizing s with
  | nil => rfl
  | cons a l ih => rw [List.foldl_cons, ih, h]

theorem State.store_foldl_snd {α β : Type} (f : β × State → α → β × State) (l : List α) (s : β × State)
    (h : ∀ s a, (f s a).2.store = s.2.store) : (l.foldl f s).2.store = s.2.store := by
  induction l generalizing s with
  | nil => rfl
  | cons a l ih => rw [List.foldl_cons, ih, h]

/-! Cores. -/

@[simp] theorem CoreState.inv_updUnit (k : CoreState) (u : Nat) (f : UnitState → UnitState) : (k.updUnit u f).Inv ↔ k.Inv := Iff.rfl
@[simp] theorem CoreState.inv_updArray (k : CoreState) (u : Nat) (f : ArrayState → ArrayState) : (k.updArray u f).Inv ↔ k.Inv := Iff.rfl
@[simp] theorem CoreState.inv_updGc (k : CoreState) (u : Nat) (f : GcSlot → GcSlot) : (k.updGc u f).Inv ↔ k.Inv := Iff.rfl

/-- An update of the parts outside the invariant. -/
@[simp] theorem CoreState.inv_with (k : CoreState) (u a v p g l) :
    CoreState.Inv (CoreState.mk k.cs k.table k.slots u a k.tq v p g l) ↔ k.Inv := by cases k; exact Iff.rfl

/-- A new core store. -/
theorem CoreState.inv_cs (k : CoreState) (m : EccMem) (u a v p g l) (h : k.Inv) (hm : Memory.wf m.bytes = true) :
    CoreState.Inv (CoreState.mk m k.table k.slots u a k.tq v p g l) := ⟨hm, h.2⟩

/-- An update of what a core holds for a slot whose queues keep their sizes. -/
theorem CoreState.inv_updSlot_at (k : CoreState) (i : Nat) (f : CoreSlot → CoreSlot) (h : k.Inv)
    (hf : ∀ u, ((f (k.slot i)).queue u).length ≤ 8) : (k.updSlot i f).Inv := by
  refine ⟨h.1, h.2.1, h.2.2.1, fun j u => ?_⟩
  show ((SMap.getD (SMap.upd k.slots i {} f) j {}).queue u).length ≤ 8
  rw [SMap.getD_upd]
  split
  · exact hf u
  · exact h.2.2.2 j u

/-- One that leaves the queues alone. -/
@[simp] theorem CoreState.inv_updSlot (k : CoreState) (i : Nat) (f : CoreSlot → CoreSlot) (h : k.Inv)
    (hf : ∀ c, (f c).queues = c.queues) : (k.updSlot i f).Inv :=
  CoreState.inv_updSlot_at k i f h (fun u => by
    have e : (f (k.slot i)).queue u = (k.slot i).queue u := by unfold CoreSlot.queue; rw [hf]
    rw [e]
    exact h.2.2.2 i u)

/-! Memories with SECDED. -/

theorem EccMem.wf_writeWord (m : EccMem) (a : Nat) (bs : List Byte) (h : Memory.wf m.bytes = true) :
    Memory.wf (m.writeWord a bs).1.bytes = true := by
  unfold EccMem.writeWord
  dsimp only
  split
  · exact Memory.wf_putBytes _ _ _ h
  · split
    · exact h
    · exact Memory.wf_putBytes _ _ _ h

theorem EccMem.wf_writeAux (n : Nat) (m : EccMem) (a : Nat) (bs : List Byte) (h : Memory.wf m.bytes = true) :
    Memory.wf (EccMem.writeAux n m a bs).1.bytes = true := by
  induction n generalizing m a bs with
  | zero => exact h
  | succ n ih =>
    unfold EccMem.writeAux
    split
    · exact h
    · exact ih _ _ _ (EccMem.wf_writeWord _ _ _ h)

/-- R558: a write keeps the canonical form of a memory. -/
theorem EccMem.wf_write (m : EccMem) (a : Nat) (bs : List Byte) (h : Memory.wf m.bytes = true) :
    Memory.wf (m.write a bs).1.bytes = true := EccMem.wf_writeAux _ _ _ _ h

end Sys2Proof.Machine
end

