-- ==== Sys2Proof/Laws/FrameUnits.lean ====
section
/-! SUPPORT. What the operations of the core groups and their units keep: the whole store (_store), the queue and the fuses (_kept), the invariant (_inv). -/

namespace Sys2Proof.Machine

open Sys2Proof

@[simp] theorem State.setReg_store (s : State) (o : Nat) (v : Word) : (State.setReg s o v).store = s.store := by simp [State.setReg]
@[simp] theorem State.setFld_store (s : State) (o h l v : Nat) : (State.setFld s o h l v).store = s.store := by simp [State.setFld]
@[simp] theorem State.setBit_store (s : State) (o b : Nat) : (State.setBit s o b).store = s.store := by simp [State.setBit]
@[simp] theorem State.clearBit_store (s : State) (o b : Nat) : (State.clearBit s o b).store = s.store := by simp [State.clearBit]
@[simp] theorem State.inc_store (s : State) (o n : Nat) : (State.inc s o n).store = s.store := by simp [State.inc]
@[simp] theorem State.updJob_store (s : State) (i : Nat) (f : JobSlot → JobSlot) : (State.updJob s i f).store = s.store := by simp [State.updJob]
@[simp] theorem State.updPort_store (s : State) (p : Nat) (f : Port → Port) : (State.updPort s p f).store = s.store := by simp [State.updPort]
@[simp] theorem State.updMc_store (s : State) (st : Nat) (f : MemController → MemController) : (State.updMc s st f).store = s.store := by simp [State.updMc]
@[simp] theorem State.updRing_store (s : State) (r : Nat) (f : Ring → Ring) : (State.updRing s r f).store = s.store := by simp [State.updRing]
@[simp] theorem State.setStage_store (s : State) (v : Nat) : (State.setStage s v).store = s.store := by simp [State.setStage]
@[simp] theorem State.free_store (s : State) : (State.free s).2.store = s.store := by simp [State.free]
@[simp] theorem State.emit_store (s : State) (e : OutEvent) : (State.emit s e).store = s.store := by simp [State.emit]
@[simp] theorem State.writePlain_store (s : State) (o : Nat) (v : Word) : (State.writePlain s o v).store = s.store := by simp [State.writePlain]
@[simp] theorem State.raiseInt_store (s : State) (v : Nat) : (State.raiseInt s v).store = s.store := by simp [State.raiseInt]
@[simp] theorem State.refreshPins_store (s : State) : (State.refreshPins s).store = s.store := by simp [State.refreshPins]
@[simp] theorem State.jqueue_store (s : State) (e : JEntry) : (State.jqueue s e).store = s.store := by simp [State.jqueue]
@[simp] theorem State.setRegs_store (s : State) (o : Nat) (ws : List Word) : (s.setRegs o ws).store = s.store := by
  induction ws generalizing s o with
  | nil => rfl
  | cons w ws ih => rw [State.setRegs, ih]; simp
@[simp] theorem State.writeRecord_store (s : State) (e : ErrInfo) : (s.writeRecord e).store = s.store := by
  simp [State.writeRecord]
@[simp] theorem State.quarantine_store (s : State) (cause : Nat) : (State.quarantine s cause).store = s.store := by simp [State.quarantine]
@[simp] theorem State.expireStrikes_store (s : State) : (State.expireStrikes s).store = s.store := by simp [State.expireStrikes]
@[simp] theorem State.strike_store (s : State) (code : Nat) : (State.strike s code).store = s.store := by simp [State.strike]
@[simp] theorem State.raiseError_store (s : State) (e : ErrInfo) : (State.raiseError s e).store = s.store := by simp [State.raiseError]
@[simp] theorem State.voteCause_store (s : State) (slot cause : Nat) : (State.voteCause s slot cause).store = s.store := by simp [State.voteCause]
@[simp] theorem State.stopEffect_store (s : State) (slot phase : Nat) (next either : Bool) : (State.stopEffect s slot phase next either).2.store = s.store := by unfold State.stopEffect; extract_lets; (repeat' split) <;> simp +zetaDelta
@[simp] theorem State.entryError_store (s : State) (code c slot : Nat) (q : QEntry) (either : Bool) (d5 d6 d7 : Nat) : (State.entryError s code c slot q either d5 d6 d7).store = s.store := by simp [State.entryError]
@[simp] theorem State.serviceError_store (s : State) (code unit index slot step phase d5 d6 d7 : Nat) : (State.serviceError s code unit index slot step phase d5 d6 d7).store = s.store := by simp [State.serviceError]
@[simp] theorem State.inputsLost_store (s : State) (code unit index slot step phase d5 d6 d7 : Nat) : (State.inputsLost s code unit index slot step phase d5 d6 d7).store = s.store := by simp [State.inputsLost]
@[simp] theorem State.send_store (s : State) (m : Message) : (State.send s m).store = s.store := by simp [State.send]
@[simp] theorem State.sendTo_store (s : State) (kind slot rank step tag object offset : Nat) (body : List Word) : (State.sendTo s kind slot rank step tag object offset body).store = s.store := by simp [State.sendTo]
/-- What a sink does of its own leaves the store alone. -/
theorem State.sink_rule (s : State) (kind : Nat) (m : Message) (f : State → State) (P : Store → Prop) (h : P s.store)
    (hf : ∀ t : State, t.store = s.store → P (f t).store) : P (s.sink kind m f).store := by
  unfold State.sink
  split
  · exact h
  · extract_lets u
    have hu : u.store = s.store := by simp [u]
    clear_value u
    repeat' split
    · exact (congrArg P (by simp +zetaDelta [hu])).mpr h
    · exact (congrArg P (by simp [hu])).mpr h
    · exact hf _ (by simp [hu])
@[simp] theorem State.sink_inv (s : State) (kind : Nat) (m : Message) (f : State → State) (h : s.store.Inv)
    (hf : ∀ t : State, t.store.Inv → (f t).store.Inv) : (s.sink kind m f).store.Inv :=
  s.sink_rule kind m f Store.Inv h (fun t ht => hf t (ht ▸ h))
@[simp] theorem State.sink_kept (s : State) (kind : Nat) (m : Message) (f : State → State)
    (hf : ∀ t : State, (f t).store.kept = t.store.kept) : (s.sink kind m f).store.kept = s.store.kept :=
  s.sink_rule kind m f (fun x => x.kept = s.store.kept) rfl (fun t ht => by rw [hf, ht])
@[simp] theorem State.sink_store (s : State) (kind : Nat) (m : Message) (f : State → State)
    (hf : ∀ t : State, (f t).store = t.store) : (s.sink kind m f).store = s.store :=
  s.sink_rule kind m f (fun x => x = s.store) rfl (fun t ht => by rw [hf, ht])
@[simp] theorem State.hazardEffect_store (s : State) (c slot : Nat) (q : QEntry) (x : CsRange × CsRange) : (State.hazardEffect s c slot q x).store = s.store := by simp [State.hazardEffect]
theorem CoreSlot.setToken_queues (k : CoreSlot) (t v : Nat) : (k.setToken t v).queues = k.queues := rfl
theorem CoreSlot.foldl_queues {α : Type} (f : CoreSlot → α → CoreSlot) (h : ∀ k a, (f k a).queues = k.queues) (l : List α) (k : CoreSlot) :
    (l.foldl f k).queues = k.queues := by
  induction l generalizing k with
  | nil => rfl
  | cons a l ih => rw [List.foldl_cons, ih, h]
@[simp] theorem CoreSlot.takeWaits_queues (k : CoreSlot) (e : Entry) : (k.takeWaits e).queues = k.queues := by
  unfold CoreSlot.takeWaits; apply CoreSlot.foldl_queues; intros; rfl
@[simp] theorem CoreSlot.signal_queues (k : CoreSlot) (ts : List Nat) : (k.signal ts).queues = k.queues := by
  unfold CoreSlot.signal; apply CoreSlot.foldl_queues; intros; rfl
@[simp] theorem CoreSlot.signalUpTo_queues (k : CoreSlot) (t n : Nat) : (k.signalUpTo t n).1.queues = k.queues := rfl
@[simp] theorem CoreSlot.next_queues (k : CoreSlot) : k.next.queues = k.queues := rfl
@[simp] theorem CoreSlot.goTo_queues (k : CoreSlot) (pc : Nat) : (k.goTo pc).queues = k.queues := rfl
@[simp] theorem CoreSlot.enterLoop_queues (k : CoreSlot) (count body : Nat) (mb : Bool) : (k.enterLoop count body mb).queues = k.queues := by
  unfold CoreSlot.enterLoop; split <;> rfl
/-- A queue that loses its head keeps its size. -/
theorem CoreState.inv_pop (k : CoreState) (slot u : Nat) (f : CoreSlot → CoreSlot) (h : k.Inv)
    (hf : ∀ c, (f c).queues = SMap.put c.queues u ((c.queue u).drop 1)) : (k.updSlot slot f).Inv := by
  refine CoreState.inv_updSlot_at k slot f h (fun v => ?_)
  unfold CoreSlot.queue
  rw [hf, SMap.getD_put]
  split
  · rename_i hv
    have := h.2.2.2 slot u
    simp only [List.length_drop]
    unfold CoreSlot.queue at this
    show ((k.slot slot).queue u).length - 1 ≤ 8
    unfold CoreSlot.queue
    have e : SMap.getD k.slots slot {} = k.slot slot := rfl
    rw [e] at this
    omega
  · exact h.2.2.2 slot v
theorem State.launch_inv (s : State) (c u slot : Nat) (q : QEntry) (rs : List CsRange) (work : QEntry → State → Work) (h : s.store.Inv)
    (hw : ∀ t : State, t.store.Inv → (work q t).st.store.Inv) : (s.launch c u slot q rs work).store.Inv := by
  unfold State.launch
  refine State.inv_updCore _ _ _ (hw _ (State.inv_updCore _ _ _ h (fun k hk => ?_))) (fun k hk => hk)
  have hp : (k.updSlot slot (fun cs => ({ cs with queues := SMap.put cs.queues u ((cs.queue u).drop 1) }).takeWaits q.entry)).Inv :=
    CoreState.inv_pop k slot u _ hk (fun c => by simp)
  dsimp only
  split
  · simpa using hp
  · exact hp
theorem State.launch_kept (s : State) (c u slot : Nat) (q : QEntry) (rs : List CsRange) (work : QEntry → State → Work)
    (hw : ∀ t : State, (work q t).st.store.kept = t.store.kept) : (s.launch c u slot q rs work).store.kept = s.store.kept := by
  unfold State.launch
  simp [hw]
@[simp] theorem State.slopeHold_store (s : State) (c u slot : Nat) : (State.slopeHold s c u slot).store = s.store := by simp [State.slopeHold]
@[simp] theorem State.slopeRelease_store (s : State) (c u slot : Nat) : (State.slopeRelease s c u slot).store = s.store := by simp [State.slopeRelease]
/-- R44, R48, R54: a start keeps what its hold and its work keep. -/
theorem State.startEntry_inv (s : State) (c u slot : Nat) (isOp : Entry → Bool) (unitFree : UnitState → QEntry → Bool)
    (hold : QEntry → State → Option State) (ranges : QEntry → List CsRange) (work : QEntry → State → Work) (h : s.store.Inv)
    (hh : ∀ q t, hold q s = some t → t.store.Inv) (hw : ∀ q, ∀ t : State, t.store.Inv → (work q t).st.store.Inv) :
    (s.startEntry c u slot isOp unitFree hold ranges work).store.Inv := by
  unfold State.startEntry
  repeat' split
  · exact h
  · exact h
  · rename_i t ht; exact hh _ t ht
  · simpa using h
  · simpa using h
  · exact State.launch_inv _ _ _ _ _ _ _ (by simpa using h) (hw _)
theorem State.startEntry_kept (s : State) (c u slot : Nat) (isOp : Entry → Bool) (unitFree : UnitState → QEntry → Bool)
    (hold : QEntry → State → Option State) (ranges : QEntry → List CsRange) (work : QEntry → State → Work)
    (hh : ∀ q t, hold q s = some t → t.store.kept = s.store.kept) (hw : ∀ q, ∀ t : State, (work q t).st.store.kept = t.store.kept) :
    (s.startEntry c u slot isOp unitFree hold ranges work).store.kept = s.store.kept := by
  unfold State.startEntry
  repeat' split
  · rfl
  · rfl
  · rename_i t ht; exact hh _ t ht
  · simp
  · simp
  · rw [State.launch_kept _ _ _ _ _ _ _ (hw _)]; simp
@[simp] theorem State.countBusy_kept (s : State) (c u slot beats : Nat) : (State.countBusy s c u slot beats).store.kept = s.store.kept := by simp [State.countBusy]
@[simp] theorem State.countBusy_inv (s : State) (c u slot beats : Nat) (h : s.store.Inv) : (State.countBusy s c u slot beats).store.Inv := by simp [State.countBusy, h]
@[simp] theorem State.countConversions_store (s : State) (slot : Nat) (late : Bool) (keys : List Nat) (n above vanish : Nat) : (State.countConversions s slot late keys n above vanish).store = s.store := by simp [State.countConversions]
@[simp] theorem State.updChannel_store (s : State) (p : Place) (f : Channel → Channel) : (State.updChannel s p f).store = s.store := by unfold State.updChannel; split <;> simp
@[simp] theorem State.setMode_store (s : State) (p : Place) (write : Bool) : (State.setMode s p write).store = s.store := by simp [State.setMode]
@[simp] theorem State.serve_store (s : State) (p : Place) (write : Bool) : (State.serve s p write).store = s.store := by unfold State.serve; split <;> simp
@[simp] theorem State.countLine_store (s : State) (p : Place) (cls : Nat) (write : Bool) : (State.countLine s p cls write).store = s.store := by unfold State.countLine; split <;> simp
@[simp] theorem State.countPage_store (s : State) (a : Nat) : (State.countPage s a).store = s.store := by unfold State.countPage; extract_lets; (repeat' split) <;> simp +zetaDelta
@[simp] theorem State.touchPage_store (s : State) (a : Nat) (write : Bool) : (State.touchPage s a write).store = s.store := by
  unfold State.touchPage
  extract_lets u
  have hu : u.store = s.store := by simp [u]
  clear_value u
  split
  · exact (State.store_with ..).trans hu
  · exact hu
@[simp] theorem State.noteStall_store (s : State) (a n : Nat) : (State.noteStall s a n).store = s.store := by simp [State.noteStall]
@[simp] theorem State.addrFault_store (s : State) (k : Asker) (a : Nat) : (State.addrFault s k a).store = s.store := by simp [State.addrFault]
@[simp] theorem State.checkLine_store (s : State) (k : Asker) (a : Nat) : (State.checkLine s k a).2.store = s.store := by unfold State.checkLine; (repeat' split) <;> simp
@[simp] theorem State.readLine_store (s : State) (k : Asker) (a : Nat) : (State.readLine s k a).2.store = s.store := by simp [State.readLine]
@[simp] theorem State.memRead_store (s : State) (k : Asker) (a n : Nat) : (s.memRead k a n).st.store = s.store := by
  unfold State.memRead
  extract_lets u
  have hu : u.store = s.store := by simp [u]
  clear_value u
  split
  · simp [hu]
  · exact (State.store_foldl_snd _ _ _ (fun s a => by simp)).trans hu
/-- A line write merges its bytes into a state of the same store. -/
theorem State.mergeLine_store (s : State) (k : Asker) (a : Nat) (bs : List Byte) :
    (s.mergeLine k a bs).2.store = s.store ∨
    ∃ u : State, u.store = s.store ∧ ∃ e, (s.mergeLine k a bs).2 = { u with mem := Mem.putBytes u.mem a bs, memErr := e } := by
  unfold State.mergeLine
  extract_lets l s1 r
  have h1 : s1.store = s.store := by simp only [s1]; split <;> simp
  clear_value s1
  have hr : r.2.store = s.store := by simp only [r]; split <;> simp [h1]
  clear_value r
  split
  · exact .inl hr
  · exact .inr ⟨r.2, hr, _, rfl⟩
@[simp] theorem State.mergeLine_kept (s : State) (k : Asker) (a : Nat) (bs : List Byte) : (s.mergeLine k a bs).2.store.kept = s.store.kept := by
  rcases s.mergeLine_store k a bs with h | ⟨u, hu, e, h⟩
  · rw [h]
  · rw [h]; exact (State.kept_mk ..).trans (by rw [hu])
@[simp] theorem State.mergeLine_inv (s : State) (k : Asker) (a : Nat) (bs : List Byte) (h : s.store.Inv) : (s.mergeLine k a bs).2.store.Inv := by
  rcases s.mergeLine_store k a bs with h' | ⟨u, hu, e, h'⟩
  · rw [h']; exact h
  · rw [h']; exact State.inv_mem u _ (hu ▸ h) (Memory.wf_putBytes _ _ _ (hu ▸ h).1) ..
@[simp] theorem State.writeLine_kept (s : State) (k : Asker) (a : Nat) (bs : List Byte) : (s.writeLine k a bs).2.store.kept = s.store.kept := by
  unfold State.writeLine
  extract_lets p r
  split <;> simp [r]
@[simp] theorem State.writeLine_inv (s : State) (k : Asker) (a : Nat) (bs : List Byte) (h : s.store.Inv) : (s.writeLine k a bs).2.store.Inv := by
  unfold State.writeLine
  extract_lets p r
  split <;> simp [r, h]
@[simp] theorem State.writeLines_kept (n : Nat) (s : State) (k : Asker) (a : Nat) (bs : List Byte) :
    (State.writeLines n s k a bs).2.store.kept = s.store.kept := by
  induction n generalizing s a bs with
  | zero => rfl
  | succ n ih => unfold State.writeLines; split <;> simp [ih]
@[simp] theorem State.writeLines_inv (n : Nat) (s : State) (k : Asker) (a : Nat) (bs : List Byte) (h : s.store.Inv) :
    (State.writeLines n s k a bs).2.store.Inv := by
  induction n generalizing s a bs with
  | zero => exact h
  | succ n ih => unfold State.writeLines; split <;> simp [ih, h]
@[simp] theorem State.memWrite_kept (s : State) (k : Asker) (a : Nat) (bs : List Byte) : (s.memWrite k a bs).2.store.kept = s.store.kept := by
  unfold State.memWrite
  extract_lets u
  split <;> simp [u]
@[simp] theorem State.memWrite_inv (s : State) (k : Asker) (a : Nat) (bs : List Byte) (h : s.store.Inv) : (s.memWrite k a bs).2.store.Inv := by
  unfold State.memWrite
  extract_lets u
  split <;> simp [u, h]
@[simp] theorem State.holdSlate_store (s : State) (r : SlateRequest) : (State.holdSlate s r).store = s.store := by simp [State.holdSlate]
@[simp] theorem State.slateFail_store (s : State) (q : MemRequest) (write : Bool) (bs : List Byte) : (State.slateFail s q write bs).store = s.store := by
  unfold State.slateFail; extract_lets; (repeat' split) <;> simp
@[simp] theorem State.stallUnit_store (s : State) (unit c slot a : Nat) : (State.stallUnit s unit c slot a).store = s.store := by
  unfold State.stallUnit; extract_lets q bad u; split
  · rfl
  · simp only [State.holdSlate_store, u]; split <;> simp
/-- A hold for stalled memory keeps what the unit's own hold keeps. -/
theorem stallHold_rule (c u slot : Nat) (work : QEntry → State → Work) (hold : QEntry → State → Option State) (q : QEntry) (s t : State)
    (P : Store → Prop) (hs : P s.store) (hh : ∀ t, hold q s = some t → P t.store) (h : stallHold c u slot work hold q s = some t) : P t.store := by
  unfold stallHold at h
  split at h
  · rename_i t' ht; cases h; exact hh _ ht
  · rw [Option.map_eq_some_iff] at h
    obtain ⟨a, -, rfl⟩ := h
    exact (State.stallUnit_store ..).symm ▸ hs
/-- Work that waits while it meets a stalled line keeps what the work keeps. -/
theorem State.unlessStalled_rule (s : State) (unit slot : Nat) (f : State → State) (P : Store → Prop) (hs : P s.store)
    (hf : ∀ t : State, t.store = s.store → P (f t).store) : P (s.unlessStalled unit slot f).store := by
  unfold State.unlessStalled
  extract_lets t
  split
  · exact (State.stallUnit_store ..).symm ▸ hs
  · exact hf _ (by simp)
@[simp] theorem State.creditHold_store (s t : State) (slot ofs : Nat) (h : s.creditHold slot ofs = some t) : t.store = s.store := by
  unfold State.creditHold at h
  split at h
  · cases h; simp
  · cases h
theorem State.signalSteps_inv (n : Nat) (s : State) (slot : Nat) (h : s.store.Inv) : (State.signalSteps n s slot).store.Inv := by
  induction n generalizing s with
  | zero => exact h
  | succ n ih =>
    unfold State.signalSteps
    extract_lets j
    repeat' split
    · exact h
    · exact ih _ (by simpa using h)
    · exact h
    · refine ih _ ?_
      simp only [State.updJob_store]
      exact State.inv_foldl _ _ _ h (fun t c ht => State.inv_updCore _ _ _ ht (fun k hk => CoreState.inv_updSlot _ _ _ hk (by simp)))
    · exact h
theorem State.signalSteps_kept (n : Nat) (s : State) (slot : Nat) : (State.signalSteps n s slot).store.kept = s.store.kept := by
  induction n generalizing s with
  | zero => rfl
  | succ n ih =>
    unfold State.signalSteps
    extract_lets j
    repeat' split
    · rfl
    · rw [ih]; simp
    · rfl
    · rw [ih]
      simp only [State.updJob_store]
      exact State.kept_foldl _ _ _ (fun t c => rfl)
    · rfl
@[simp] theorem State.signalIngest_inv (s : State) (slot : Nat) (h : s.store.Inv) : (s.signalIngest slot).store.Inv :=
  State.signalSteps_inv _ _ _ h
@[simp] theorem State.signalIngest_kept (s : State) (slot : Nat) : (s.signalIngest slot).store.kept = s.store.kept :=
  State.signalSteps_kept _ _ _
@[simp] theorem State.requestDrain_kept (s : State) (c a t : Nat) : (State.requestDrain s c a t).store.kept = s.store.kept := by simp [State.requestDrain]
@[simp] theorem State.requestDrain_inv (s : State) (c a t : Nat) (h : s.store.Inv) : (State.requestDrain s c a t).store.Inv := by simp [State.requestDrain, h]
@[simp] theorem State.setPoison_store (s : State) (c a t v : Nat) : (State.setPoison s c a t v).store = s.store := by simp [State.setPoison]
@[simp] theorem maStreamFault_store (c a slot : Nat) (q : QEntry) (t : Nat) (x : Nat × Nat × Nat) (s : State) : (maStreamFault c a slot q t x s).store = s.store := by simp [maStreamFault]
@[simp] theorem maPassRun_kept (c a : Nat) (p : PassIn) (s : State) : (maPassRun c a p s).st.store.kept = s.store.kept := by simp [maPassRun]
@[simp] theorem maPassRun_inv (c a : Nat) (p : PassIn) (s : State) (h : s.store.Inv) : (maPassRun c a p s).st.store.Inv := by simp [maPassRun, h]
@[simp] theorem maPassWork_kept (c a slot : Nat) (q : QEntry) (s : State) : (maPassWork c a slot q s).st.store.kept = s.store.kept := by unfold maPassWork; simp; (repeat' split) <;> simp
@[simp] theorem maPassWork_inv (c a slot : Nat) (q : QEntry) (s : State) (h : s.store.Inv) : (maPassWork c a slot q s).st.store.Inv := by unfold maPassWork; simp [h]; (repeat' split) <;> simp [h]
@[simp] theorem maClearWork_kept (c a : Nat) (q : QEntry) (s : State) : (maClearWork c a q s).st.store.kept = s.store.kept := by simp [maClearWork]
@[simp] theorem maClearWork_inv (c a : Nat) (q : QEntry) (s : State) (h : s.store.Inv) : (maClearWork c a q s).st.store.Inv := by simp [maClearWork, h]
@[simp] theorem maDrainWork_kept (c a : Nat) (q : QEntry) (s : State) : (maDrainWork c a q s).st.store.kept = s.store.kept := by simp [maDrainWork]
@[simp] theorem maDrainWork_inv (c a : Nat) (q : QEntry) (s : State) (h : s.store.Inv) : (maDrainWork c a q s).st.store.Inv := by simp [maDrainWork, h]
@[simp] theorem veHold_store (c : Nat) (q : QEntry) (s t : State) (h : veHold c q s = some t) : t.store = s.store := by
  unfold veHold at h
  split at h
  · split at h
    · split at h
      · cases h; simp
      · cases h
    · cases h
  · cases h
theorem tqWithin_sublist (l l' : List TileEntry) (h : l'.Sublist l) (hl : tqWithin l) : tqWithin l' := by
  unfold tqWithin at *
  have h0 := h.countP_le (p := fun e : TileEntry => decide (e.producer = 0))
  have h1 := h.countP_le (p := fun e : TileEntry => decide (e.producer = 1))
  omega
/-- A tile queue that loses entries. -/
theorem CoreState.inv_tq (k : CoreState) (l : List TileEntry) (u a v p g ph) (h : k.Inv) (hl : l.Sublist k.tq) :
    CoreState.Inv (CoreState.mk k.cs k.table k.slots u a l v p g ph) :=
  ⟨h.1, h.2.1, tqWithin_sublist _ _ hl h.2.2.1, h.2.2.2⟩
@[simp] theorem State.takeTile_inv (s : State) (c : Nat) (e : Entry) (h : s.store.Inv) : (s.takeTile c e).store.Inv := by
  unfold State.takeTile
  repeat' split
  · exact State.inv_updCore _ _ _ h (fun k hk => CoreState.inv_tq k _ _ _ _ _ _ _ hk (List.erase_sublist ..))
  · exact h
  · exact h
@[simp] theorem State.takeTile_kept (s : State) (c : Nat) (e : Entry) : (s.takeTile c e).store.kept = s.store.kept := by
  unfold State.takeTile
  (repeat' split) <;> simp
theorem State.takeTile_core_cs (s : State) (c : Nat) (e : Entry) : ((s.takeTile c e).core c).cs = (s.core c).cs := by
  unfold State.takeTile
  (repeat' split) <;> simp [State.updCore, State.core]
/-! The vector engine's writes keep the core store canonical. -/
theorem EccMem.wf_writeRuns (m : EccMem) (a : Nat) (bs : List (Option Byte)) (h : Memory.wf m.bytes = true) :
    Memory.wf (m.writeRuns a bs).1.bytes = true := by
  unfold EccMem.writeRuns
  extract_lets flush step fin
  have hflush : ∀ (st : EccMem × Bool) (start : Nat) (rev : List Byte), Memory.wf st.1.bytes = true →
      Memory.wf (flush st start rev).1.bytes = true := by
    intro st start rev hst
    simp only [flush]
    split
    · exact hst
    · exact EccMem.wf_write _ _ _ hst
  have hfold : ∀ (l : List (Option Byte)) (st : (EccMem × Bool) × Nat × Nat × List Byte), Memory.wf st.1.1.bytes = true →
      Memory.wf (l.foldl step st).1.1.bytes = true := by
    intro l
    induction l with
    | nil => intro st hst; exact hst
    | cons b l ih =>
      intro st hst
      refine ih _ ?_
      cases b
      · exact hflush _ _ _ hst
      · exact hst
  exact hflush _ _ _ (hfold bs _ h)
theorem EccMem.wf_writeMask (m : EccMem) (a : Nat) (bs : List (Option Bool)) (h : Memory.wf m.bytes = true) :
    Memory.wf (m.writeMask a bs).1.bytes = true := by
  unfold EccMem.writeMask
  extract_lets old word full
  repeat' split
  · exact h
  · exact h
  · exact EccMem.wf_write _ _ _ h
theorem VeIn.wf_writeVec (v : VeIn) (cs : EccMem) (r c0 : Nat) (ls : List (Option Nat)) (h : Memory.wf cs.bytes = true) :
    Memory.wf (v.writeVec cs r c0 ls).1.bytes = true := by
  unfold VeIn.writeVec
  split
  · exact EccMem.wf_writeMask _ _ _ h
  · exact EccMem.wf_writeRuns _ _ _ h
/-- A fold whose every step keeps a property keeps it. -/
theorem foldl_keeps {α β : Type} (P : β → Prop) (f : β → α → β) (l : List α) (b : β) (h : P b) (hf : ∀ b a, P b → P (f b a)) :
    P (l.foldl f b) := by
  induction l generalizing b with
  | nil => exact h
  | cons a l ih => exact ih _ (hf b a h)
/-- The store of a data path's answer is canonical. -/
def VeOut.Ok (o : VeOut) : Prop := Memory.wf o.cs.bytes = true
theorem veElementwise_ok (op : LaneOp) (every : Bool) (v : VeIn) (cs : EccMem) (h : Memory.wf cs.bytes = true) :
    (veElementwise op every v cs).Ok := by
  unfold veElementwise
  exact foldl_keeps VeOut.Ok _ _ _ h (fun o r ho => foldl_keeps VeOut.Ok _ _ _ ho (fun o cn ho => VeIn.wf_writeVec _ _ _ _ _ ho))
theorem veAdd64_ok (v : VeIn) (cs : EccMem) (h : Memory.wf cs.bytes = true) : (veAdd64 v cs).Ok := by
  unfold veAdd64
  exact foldl_keeps VeOut.Ok _ _ _ h (fun o r ho => foldl_keeps VeOut.Ok _ _ _ ho (fun o cn ho => VeIn.wf_writeVec _ _ _ _ _ ho))
theorem veRowReduce_ok (f : W32 → W32 → W32 × Flags) (a : Bool) (i : W32) (v : VeIn) (cs : EccMem) (h : Memory.wf cs.bytes = true) :
    (veRowReduce f a i v cs).Ok := by
  unfold veRowReduce
  exact foldl_keeps VeOut.Ok _ _ _ h (fun o r ho => VeIn.wf_writeVec _ _ _ _ _ ho)
theorem veColReduce_ok (f : W32 → W32 → W32 × Flags) (a : Bool) (i : W32) (v : VeIn) (cs : EccMem) (h : Memory.wf cs.bytes = true) :
    (veColReduce f a i v cs).Ok := by
  unfold veColReduce
  exact foldl_keeps VeOut.Ok _ _ _ h (fun o r ho => VeIn.wf_writeVec _ _ _ _ _ ho)
theorem veSoftmax_ok (v : VeIn) (cs : EccMem) (h : Memory.wf cs.bytes = true) : (veSoftmax v cs).Ok := by
  unfold veSoftmax
  extract_lets step fin words w
  have hfin : fin.1.Ok := by
    refine foldl_keeps (fun st : VeOut × List Bool => st.1.Ok) step _ _ h (fun st r hst => ?_)
    exact foldl_keeps VeOut.Ok _ _ _ hst (fun o cn ho => VeIn.wf_writeVec _ _ _ _ _ ho)
  split
  · exact EccMem.wf_write _ _ _ hfin
  · exact hfin
theorem veHist_ok (v : VeIn) (cs : EccMem) (h : Memory.wf cs.bytes = true) : (veHist v cs).Ok := EccMem.wf_write _ _ _ h
theorem veToSB_ok (v : VeIn) (cs : EccMem) (h : Memory.wf cs.bytes = true) : (veToSB v cs).Ok := by
  unfold veToSB
  extract_lets step
  refine foldl_keeps (fun st : VeOut × List Nat => st.1.Ok) step _ _ h (fun st b hst => ?_)
  have h2 := fun m a b (hm : Memory.wf m.bytes = true) => EccMem.wf_write m a b hm
  simp only [step]
  show Memory.wf _ = true
  dsimp only
  split
  · exact h2 _ _ _ (h2 _ _ _ (h2 _ _ _ hst))
  · exact h2 _ _ _ (h2 _ _ _ hst)
theorem veFromSB_ok (v : VeIn) (cs : EccMem) (h : Memory.wf cs.bytes = true) : (veFromSB v cs).Ok := by
  unfold veFromSB
  refine foldl_keeps VeOut.Ok _ _ _ h (fun o b ho => ?_)
  dsimp only
  (repeat' split) <;> first | exact ho | exact VeIn.wf_writeVec _ _ _ _ _ ho
theorem veBI32_ok (v : VeIn) (cs : EccMem) (h : Memory.wf cs.bytes = true) : (veBI32 v cs).Ok := by
  unfold veBI32
  refine foldl_keeps VeOut.Ok _ _ _ h (fun o b ho => ?_)
  dsimp only
  (repeat' split) <;> first | exact ho | exact VeIn.wf_writeVec _ _ _ _ _ ho
@[simp] theorem State.veFlags_store (s : State) (c : Nat) (f : Flags) (rowEmpty : Nat) : (State.veFlags s c f rowEmpty).store = s.store := by simp [State.veFlags]
@[simp] theorem State.veCounts_store (s : State) (slot : Nat) (q : QEntry) (v : VeIn) (o : VeOut) : (State.veCounts s slot q v o).store = s.store := by simp [State.veCounts]
@[simp] theorem State.veGuard_store (s : State) (c slot : Nat) (q : QEntry) (v : VeIn) (o : VeOut) : (State.veGuard s c slot q v o).store = s.store := by simp [State.veGuard]
@[simp] theorem State.veStreamFault_store (s : State) (c slot : Nat) (q : QEntry) (d : Nat × Nat × Nat) : (State.veStreamFault s c slot q d).store = s.store := by simp [State.veStreamFault]
/-- A data path that keeps its core store canonical. -/
def VeOp.Sound (o : VeOp) : Prop := ∀ v cs, Memory.wf cs.bytes = true → (o.run v cs).Ok
theorem veWork_inv (o : VeOp) (ho : o.Sound) (c slot : Nat) (q : QEntry) (s : State) (h : s.store.Inv) :
    (veWork o c slot q s).st.store.Inv := by
  unfold veWork
  extract_lets v cs bad r t u w
  have hcs : Memory.wf r.cs.bytes = true := ho v cs (h.2.2.2 c).1
  refine ite_keeps (fun w : Work => w.st.store.Inv) ?_ ?_
  · simpa using h
  · refine ite_keeps (fun w : Work => w.st.store.Inv) ?_ ?_
    · simp [h]
    · have hu : u.store.Inv := by
        simp only [u, State.veGuard_store, State.veCounts_store, State.veFlags_store, t]
        refine State.inv_updCore _ _ _ (by simp [h]) (fun k hk => CoreState.inv_cs k _ _ _ _ _ _ _ hk hcs)
      clear_value u
      refine ite_keeps (fun w : Work => w.st.store.Inv) ?_ ?_
      · simpa using hu
      · simp only [w]
        split
        · simpa using hu
        · exact hu
@[simp] theorem veWork_kept (o : VeOp) (c slot : Nat) (q : QEntry) (s : State) : (veWork o c slot q s).st.store.kept = s.store.kept := by
  unfold veWork
  extract_lets v cs bad r t u w
  refine ite_keeps (fun w : Work => w.st.store.kept = s.store.kept) ?_ ?_
  · simp
  · refine ite_keeps (fun w : Work => w.st.store.kept = s.store.kept) ?_ ?_
    · simp
    · have hu : u.store.kept = s.store.kept := by simp [u, t]
      clear_value u
      refine ite_keeps (fun w : Work => w.st.store.kept = s.store.kept) ?_ ?_
      · simpa using hu
      · simp only [w]
        split
        · simpa using hu
        · exact hu
theorem State.veStart_inv (s : State) (c slot op : Nat) (dv : Bool) (ranges : QEntry → List CsRange) (work : QEntry → State → Work)
    (h : s.store.Inv) (hw : ∀ q, ∀ t : State, t.store.Inv → (work q t).st.store.Inv) : (s.veStart c slot op dv ranges work).store.Inv :=
  State.startEntry_inv _ _ _ _ _ _ _ _ _ h (fun q t ht => by rw [veHold_store _ _ _ _ ht]; exact h) hw
theorem State.veStart_kept (s : State) (c slot op : Nat) (dv : Bool) (ranges : QEntry → List CsRange) (work : QEntry → State → Work)
    (hw : ∀ q, ∀ t : State, (work q t).st.store.kept = t.store.kept) : (s.veStart c slot op dv ranges work).store.kept = s.store.kept :=
  State.startEntry_kept _ _ _ _ _ _ _ _ _ (fun q t ht => by rw [veHold_store _ _ _ _ ht]) hw
theorem State.veTensor_inv (s : State) (c slot op : Nat) (o : VeOp) (ho : o.Sound) (h : s.store.Inv) : (s.veTensor c slot op o).store.Inv :=
  State.veStart_inv _ _ _ _ _ _ _ h (fun q t ht => veWork_inv o ho _ _ _ _ ht)
@[simp] theorem State.veTensor_kept (s : State) (c slot op : Nat) (o : VeOp) : (s.veTensor c slot op o).store.kept = s.store.kept :=
  State.veStart_kept _ _ _ _ _ _ _ (fun q t => veWork_kept o _ _ _ _)
theorem regWork_inv (z : Bool) (f : RegIn → SMap W32 → SMap W32 × Flags) (cost c slot : Nat) (q : QEntry) (s : State) (h : s.store.Inv) :
    (regWork z f cost c slot q s).st.store.Inv := by
  unfold regWork
  extract_lets x
  refine ite_keeps (fun w : Work => w.st.store.Inv) ?_ ?_ <;> simp +zetaDelta [h]
@[simp] theorem regWork_kept (z : Bool) (f : RegIn → SMap W32 → SMap W32 × Flags) (cost c slot : Nat) (q : QEntry) (s : State) :
    (regWork z f cost c slot q s).st.store.kept = s.store.kept := by
  unfold regWork
  extract_lets x
  refine ite_keeps (fun w : Work => w.st.store.kept = s.store.kept) ?_ ?_ <;> simp +zetaDelta
@[simp] theorem State.veReg_inv (s : State) (c slot op : Nat) (z : Bool) (f : RegIn → SMap W32 → SMap W32 × Flags) (cost : Nat) (h : s.store.Inv) :
    (s.veReg c slot op z f cost).store.Inv := State.veStart_inv _ _ _ _ _ _ _ h (fun q t ht => regWork_inv _ _ _ _ _ _ _ ht)
@[simp] theorem State.veReg_kept (s : State) (c slot op : Nat) (z : Bool) (f : RegIn → SMap W32 → SMap W32 × Flags) (cost : Nat) :
    (s.veReg c slot op z f cost).store.kept = s.store.kept := State.veStart_kept _ _ _ _ _ _ _ (fun q t => regWork_kept _ _ _ _ _ _ _)
@[simp] theorem State.veBoth_inv (s : State) (c slot op : Nat) (l : LaneOp) (useZ : Bool) (cost : Nat) (h : s.store.Inv) :
    (s.veBoth c slot op l useZ cost).store.Inv := by
  unfold State.veBoth
  repeat' split
  · exact State.veTensor_inv _ _ _ _ _ (fun v cs hc => veElementwise_ok _ _ _ _ hc) h
  · simp [h]
  · exact h
@[simp] theorem State.veBoth_kept (s : State) (c slot op : Nat) (l : LaneOp) (useZ : Bool) (cost : Nat) :
    (s.veBoth c slot op l useZ cost).store.kept = s.store.kept := by
  unfold State.veBoth
  (repeat' split) <;> simp
@[simp] theorem State.veInt_kept (s : State) (c slot op : Nat) (f : Nat → Nat → Nat → Nat × Nat) (useZ : Bool) : (State.veInt s c slot op f useZ).store.kept = s.store.kept := by simp [State.veInt]
@[simp] theorem State.veInt_inv (s : State) (c slot op : Nat) (f : Nat → Nat → Nat → Nat × Nat) (useZ : Bool) (h : s.store.Inv) : (State.veInt s c slot op f useZ).store.Inv := by simp [State.veInt, h]
@[simp] theorem State.measure_store (s : State) (c slot : Nat) (q : QEntry) : (State.measure s c slot q).store = s.store := by simp [State.measure]
theorem State.store_jobs (s : State) (j : SMap JobSlot) : State.store { s with jobs := j } = s.store := by simp
@[simp] theorem State.veRowOp_inv (s : State) (c slot op : Nat) (f : W32 → W32 → W32 × Flags) (a m : Bool) (i : W32) (h : s.store.Inv) :
    (s.veRowOp c slot op f a m i).store.Inv := by
  unfold State.veRowOp
  extract_lets o
  split
  · refine ite_keeps (fun t : State => t.store.Inv) ?_ ?_
    · exact State.veStart_inv _ _ _ _ _ _ _ h (fun q t ht => veWork_inv o (fun v cs hc => veRowReduce_ok _ _ _ _ _ hc) _ _ _ _
        (by rw [State.store_jobs]; exact ht))
    · simp [h]
  · exact h
@[simp] theorem State.veRowOp_kept (s : State) (c slot op : Nat) (f : W32 → W32 → W32 × Flags) (a m : Bool) (i : W32) :
    (s.veRowOp c slot op f a m i).store.kept = s.store.kept := by
  unfold State.veRowOp
  extract_lets o
  split
  · refine ite_keeps (fun t : State => t.store.kept = s.store.kept) ?_ ?_
    · exact State.veStart_kept _ _ _ _ _ _ _ (fun q t => by rw [veWork_kept, State.store_jobs])
    · simp
  · rfl
@[simp] theorem State.veColOp_inv (s : State) (c slot op : Nat) (f : W32 → W32 → W32 × Flags) (a m : Bool) (i : W32) (h : s.store.Inv) :
    (s.veColOp c slot op f a m i).store.Inv := by
  unfold State.veColOp
  extract_lets o
  exact State.veStart_inv _ _ _ _ _ _ _ h (fun q t ht => veWork_inv o (fun v cs hc => veColReduce_ok _ _ _ _ _ hc) _ _ _ _
      (by rw [State.store_jobs]; exact ht))
@[simp] theorem State.veColOp_kept (s : State) (c slot op : Nat) (f : W32 → W32 → W32 × Flags) (a m : Bool) (i : W32) :
    (s.veColOp c slot op f a m i).store.kept = s.store.kept := by
  unfold State.veColOp
  extract_lets o
  exact State.veStart_kept _ _ _ _ _ _ _ (fun q t => by rw [veWork_kept, State.store_jobs])
theorem histWork_inv (c slot : Nat) (q : QEntry) (s : State) (h : s.store.Inv) : (histWork c slot q s).st.store.Inv := by
  unfold histWork
  extract_lets v before w
  simp only [State.updJob_store]
  exact veWork_inv histVe (fun v cs hc => veHist_ok _ _ hc) _ _ _ _ h
@[simp] theorem histWork_kept (c slot : Nat) (q : QEntry) (s : State) : (histWork c slot q s).st.store.kept = s.store.kept := by
  unfold histWork
  extract_lets v before w
  simp only [State.updJob_store]
  exact veWork_kept histVe _ _ _ _
@[simp] theorem vloadWork_kept (c slot : Nat) (q : QEntry) (s : State) : (vloadWork c slot q s).st.store.kept = s.store.kept := by unfold vloadWork; extract_lets; (repeat' split) <;> simp +zetaDelta
@[simp] theorem vloadWork_inv (c slot : Nat) (q : QEntry) (s : State) (h : s.store.Inv) : (vloadWork c slot q s).st.store.Inv := by unfold vloadWork; extract_lets; (repeat' split) <;> simp +zetaDelta [h]
@[simp] theorem vstoreWork_inv (c slot : Nat) (q : QEntry) (s : State) (h : s.store.Inv) : (vstoreWork c slot q s).st.store.Inv := by
  unfold vstoreWork
  extract_lets x a
  refine ite_keeps (fun w : Work => w.st.store.Inv) ?_ ?_
  · simpa using h
  · simp only [State.veFlags_store]
    exact State.inv_updCore _ _ _ h (fun k hk => CoreState.inv_cs k _ _ _ _ _ _ _ hk (EccMem.wf_write _ _ _ (h.2.2.2 c).1))
@[simp] theorem vstoreWork_kept (c slot : Nat) (q : QEntry) (s : State) : (vstoreWork c slot q s).st.store.kept = s.store.kept := by
  unfold vstoreWork
  extract_lets x
  refine ite_keeps (fun w : Work => w.st.store.kept = s.store.kept) ?_ ?_ <;> simp +zetaDelta
@[simp] theorem skSource_store (c slot : Nat) (q : QEntry) (s : State) : (skSource c slot q s).2.2.store = s.store := by
  unfold skSource
  split
  · dsimp only; split <;> simp
  · exact foldl_keeps (fun acc : Bool × State => acc.2.store = s.store) _ _ _ rfl (fun acc x ha => by
      dsimp only
      split
      · exact ha
      · simpa using ha)
theorem skSource_wf (c slot : Nat) (q : QEntry) (s : State) (h : s.store.Inv) : Memory.wf (skSource c slot q s).1.bytes = true := by
  have hm := (skSource_store c slot q s) ▸ h
  unfold skSource at hm ⊢
  split
  · dsimp only; split <;> exact (h.2.2.2 _).1
  · exact (foldl_keeps (fun acc : Bool × State => acc.2.store.Inv) _ _ _ h (fun acc x ha => by
      dsimp only
      split
      · exact ha
      · simpa using ha)).1
theorem EccMem.wf_putElem (m : EccMem) (h a c v : Nat) (hm : Memory.wf m.bytes = true) : Memory.wf (m.putElem h a c v).1.bytes = true := by
  unfold EccMem.putElem EccMem.putNum
  split <;> exact EccMem.wf_write _ _ _ hm
theorem skStore_wf (h : Nat) (dst : EccMem) (ws : List (Nat × List Nat)) (hm : Memory.wf dst.bytes = true) :
    Memory.wf (skStore h dst ws).1.bytes = true := by
  unfold skStore
  refine foldl_keeps (fun acc : EccMem × Bool => Memory.wf acc.1.bytes = true) _ _ _ hm (fun acc w ha => ?_)
  dsimp only
  split
  · exact EccMem.wf_putElem _ _ _ _ _ (EccMem.wf_write _ _ _ ha)
  · exact EccMem.wf_write _ _ _ ha
theorem skSink_inv (c slot : Nat) (q : QEntry) (ws : List (Nat × List Nat)) (s : State) (h : s.store.Inv) :
    (skSink c slot q ws s).2.store.Inv := by
  unfold skSink
  extract_lets k
  split
  · extract_lets r t
    have ht : t.store.Inv := State.inv_updCore _ _ _ h (fun k hk => CoreState.inv_cs k _ _ _ _ _ _ _ hk (skStore_wf _ _ _ (h.2.2.2 _).1))
    clear_value t
    split
    · simpa using ht
    · exact ht
  · refine foldl_keeps (fun acc : Bool × State => acc.2.store.Inv) _ _ _ h (fun acc w ha => ?_)
    dsimp only
    split
    · exact ha
    · simp [ha]
theorem skSink_kept (c slot : Nat) (q : QEntry) (ws : List (Nat × List Nat)) (s : State) :
    (skSink c slot q ws s).2.store.kept = s.store.kept := by
  unfold skSink
  extract_lets k
  split
  · extract_lets r t
    have ht : t.store.kept = s.store.kept := by simp [t]
    clear_value t
    split
    · simpa using ht
    · exact ht
  · refine foldl_keeps (fun acc : Bool × State => acc.2.store.kept = s.store.kept) _ _ _ rfl (fun acc w ha => ?_)
    dsimp only
    split
    · exact ha
    · simp [ha]
theorem skHold_store (c slot : Nat) (q : QEntry) (s t : State) (h : skHold c slot q s = some t) : t.store = s.store := by
  unfold skHold at h
  dsimp only at h
  split at h
  · cases h; simp
  · split at h
    · cases h
    · split at h <;> cases h <;> simp
@[simp] theorem skWork_inv (c slot : Nat) (q : QEntry) (s : State) (h : s.store.Inv) : (skWork c slot q s).st.store.Inv := by
  unfold skWork
  extract_lets q' src ws r n
  refine ite_keeps (fun w : Work => w.st.store.Inv) ?_ ?_
  · simp [src, h]
  · exact skSink_inv _ _ _ _ _ (by simp [src, h])
@[simp] theorem skWork_kept (c slot : Nat) (q : QEntry) (s : State) : (skWork c slot q s).st.store.kept = s.store.kept := by
  unfold skWork
  extract_lets q' src ws r n
  refine ite_keeps (fun w : Work => w.st.store.kept = s.store.kept) ?_ ?_
  · simp [src]
  · exact (skSink_kept _ _ _ _ _).trans (by simp [src])
@[simp] theorem State.updGcSlot_inv (s : State) (c slot : Nat) (f : GcSlot → GcSlot) (h : s.store.Inv) : (s.updGcSlot c slot f).store.Inv :=
  State.inv_updCore _ _ _ h (fun k hk => hk)
@[simp] theorem State.updGcSlot_kept (s : State) (c slot : Nat) (f : GcSlot → GcSlot) : (s.updGcSlot c slot f).store.kept = s.store.kept := rfl
@[simp] theorem State.scanBag_inv (s : State) (c slot : Nat) (q : QEntry) (t : Nat) (r : SampleRef) (h : s.store.Inv) :
    (s.scanBag c slot q t r).store.Inv := by
  unfold State.scanBag
  extract_lets seq fb kept occ w gs s1 s2 s3 s4 bag s5 stage cnt put s6
  have h4 : s4.store.Inv := by simp only [s4]; split <;> simp [s3, s2, s1, h]
  clear_value s4
  exact State.inv_foldl _ _ _ (by simp [s6, put, s5, h4]) (fun t a ht => by simp [ht])
@[simp] theorem State.scanBag_kept (s : State) (c slot : Nat) (q : QEntry) (t : Nat) (r : SampleRef) :
    (s.scanBag c slot q t r).store.kept = s.store.kept := by
  unfold State.scanBag
  extract_lets seq fb kept occ w gs s1 s2 s3 s4 bag s5 stage cnt put s6
  have h4 : s4.store.kept = s.store.kept := by simp only [s4]; split <;> simp [s3, s2, s1]
  clear_value s4
  exact (State.kept_foldl _ _ _ (fun t a => by simp)).trans (by simp [s6, put, s5, h4])
@[simp] theorem bagScanWork_inv (c slot : Nat) (l : List SampleRef) (q : QEntry) (s : State) (h : s.store.Inv) :
    (bagScanWork c slot l q s).st.store.Inv :=
  State.inv_foldl _ _ _ h (fun t a ht => State.inv_foldl _ _ _ ht (fun t a ht => by simp [ht]))
@[simp] theorem bagScanWork_kept (c slot : Nat) (l : List SampleRef) (q : QEntry) (s : State) :
    (bagScanWork c slot l q s).st.store.kept = s.store.kept :=
  State.kept_foldl _ _ _ (fun t a => State.kept_foldl _ _ _ (fun t a => by simp))
@[simp] theorem State.sendBatch_store (s : State) (c slot step : Nat) (b : ReqBatch) : (State.sendBatch s c slot step b).store = s.store := by simp [State.sendBatch]
@[simp] theorem State.releaseCore_kept (s : State) (slot c : Nat) : (State.releaseCore s slot c).store.kept = s.store.kept := by unfold State.releaseCore; apply State.kept_foldl; intro s a; simp
@[simp] theorem State.releaseCore_inv (s : State) (slot c : Nat) (h : s.store.Inv) : (State.releaseCore s slot c).store.Inv := by unfold State.releaseCore; apply State.inv_foldl _ _ _ h; intro s a h; simp [h]
@[simp] theorem State.releaseRequests_kept (s : State) (slot : Nat) : (State.releaseRequests s slot).store.kept = s.store.kept := by unfold State.releaseRequests; apply State.kept_foldl; intro s a; simp
@[simp] theorem State.releaseRequests_inv (s : State) (slot : Nat) (h : s.store.Inv) : (State.releaseRequests s slot).store.Inv := by unfold State.releaseRequests; apply State.inv_foldl _ _ _ h; intro s a h; simp [h]
@[simp] theorem State.spillKeys_kept (s : State) (c slot : Nat) (q : QEntry) (keys : List Key) :
    (s.spillKeys c slot q keys).store.kept = s.store.kept :=
  (State.kept_foldl _ _ _ (fun t a => by simp)).trans (State.kept_foldl _ _ _ (fun t a => by simp))
@[simp] theorem State.spillKeys_inv (s : State) (c slot : Nat) (q : QEntry) (keys : List Key) (h : s.store.Inv) :
    (s.spillKeys c slot q keys).store.Inv :=
  State.inv_foldl _ _ _ (State.inv_foldl _ _ _ h (fun t a ht => by simp [ht])) (fun t a ht => by simp [ht])
@[simp] theorem keyMergeWork_kept (c slot : Nat) (q : QEntry) (s : State) : (keyMergeWork c slot q s).st.store.kept = s.store.kept := by simp [keyMergeWork]
@[simp] theorem keyMergeWork_inv (c slot : Nat) (q : QEntry) (s : State) (h : s.store.Inv) : (keyMergeWork c slot q s).st.store.Inv := by
  unfold keyMergeWork
  extract_lets recs keys spilled u batches nk ng multi u1 u2 u3 u4
  have h3 : u3.store.Inv := by simp only [u3]; split <;> simp [u2, u1, u, h]
  clear_value u3
  simp [u4, h3]
@[simp] theorem State.putPartial_kept (s : State) (c slot : Nat) (q : QEntry) (d : BagSlot) (p : List W32) : (State.putPartial s c slot q d p).store.kept = s.store.kept := by simp [State.putPartial]
@[simp] theorem State.putPartial_inv (s : State) (c slot : Nat) (q : QEntry) (d : BagSlot) (p : List W32) (h : s.store.Inv) : (State.putPartial s c slot q d p).store.Inv := by simp [State.putPartial, h]
@[simp] theorem State.expandRow_inv (s : State) (c slot : Nat) (q : QEntry) (k : KeyOut) (ws : List Byte) (h : s.store.Inv) :
    (s.expandRow c slot q k ws).store.Inv := by
  unfold State.expandRow
  extract_lets n f
  split
  · exact State.inv_foldl _ _ _ h (fun t a ht => by simp [ht])
  · simpa using h
@[simp] theorem State.expandRow_kept (s : State) (c slot : Nat) (q : QEntry) (k : KeyOut) (ws : List Byte) :
    (s.expandRow c slot q k ws).store.kept = s.store.kept := by
  unfold State.expandRow
  extract_lets n f
  split
  · exact State.kept_foldl _ _ _ (fun t a => by simp)
  · simp
@[simp] theorem State.expandBatch_inv (s : State) (c slot : Nat) (q : QEntry) (b : ReqBatch) (h : s.store.Inv) :
    (s.expandBatch c slot q b).store.Inv :=
  State.inv_foldl _ _ _ (State.inv_foldl _ _ _ h (fun t a ht => by simp [ht]))
    (fun t a ht => State.inv_foldl _ _ _ ht (fun t a ht => by simp [ht]))
@[simp] theorem State.expandBatch_kept (s : State) (c slot : Nat) (q : QEntry) (b : ReqBatch) :
    (s.expandBatch c slot q b).store.kept = s.store.kept :=
  (State.kept_foldl _ _ _ (fun t a => State.kept_foldl _ _ _ (fun t a => by simp))).trans
    (State.kept_foldl _ _ _ (fun t a => by simp))
@[simp] theorem respExpandWork_inv (c slot : Nat) (q : QEntry) (s : State) (h : s.store.Inv) : (respExpandWork c slot q s).st.store.Inv :=
  State.updGcSlot_inv _ _ _ _ (State.inv_foldl _ _ _ h (fun t a ht => by simp [ht]))
@[simp] theorem respExpandWork_kept (c slot : Nat) (q : QEntry) (s : State) : (respExpandWork c slot q s).st.store.kept = s.store.kept :=
  (State.updGcSlot_kept _ _ _ _).trans (State.kept_foldl _ _ _ (fun t a => by simp))
@[simp] theorem State.bagGrad_store (s : State) (c slot : Nat) (q : QEntry) (area : Nat) (b : Bag) : (State.bagGrad s c slot q area b).2.store = s.store := by simp [State.bagGrad]
@[simp] theorem State.countSat_store (s : State) (c slot t : Nat) (q : QEntry) (l : List Nat) : (State.countSat s c slot t q l).store = s.store := by unfold State.countSat; split <;> simp
@[simp] theorem State.takeOcc_kept (s : State) (c slot : Nat) (q : QEntry) (b : Bag) (pos : Nat) (k : Key) (o : OccConv) : (State.takeOcc s c slot q b pos k o).store.kept = s.store.kept := by
  unfold State.takeOcc; extract_lets; (repeat' split) <;> simp +zetaDelta
@[simp] theorem State.takeOcc_inv (s : State) (c slot : Nat) (q : QEntry) (b : Bag) (pos : Nat) (k : Key) (o : OccConv) (h : s.store.Inv) : (State.takeOcc s c slot q b pos k o).store.Inv := by
  unfold State.takeOcc; extract_lets; (repeat' split) <;> simp +zetaDelta [h]
@[simp] theorem State.scanOcc_kept (s : State) (c slot : Nat) (q : QEntry) (b : Bag) (g : List W32) (o : Occ × Nat) : (State.scanOcc s c slot q b g o).store.kept = s.store.kept := by simp [State.scanOcc]
@[simp] theorem State.scanOcc_inv (s : State) (c slot : Nat) (q : QEntry) (b : Bag) (g : List W32) (o : Occ × Nat) (h : s.store.Inv) : (State.scanOcc s c slot q b g o).store.Inv := by simp [State.scanOcc, h]
@[simp] theorem State.scanGrad_inv (s : State) (c slot : Nat) (q : QEntry) (b : Bag) (h : s.store.Inv) : (s.scanGrad c slot q b).store.Inv := by
  unfold State.scanGrad
  split
  · exact h
  · exact State.inv_foldl _ _ _ (by simpa using h) (fun t a ht => by simp [ht])
@[simp] theorem State.scanGrad_kept (s : State) (c slot : Nat) (q : QEntry) (b : Bag) : (s.scanGrad c slot q b).store.kept = s.store.kept := by
  unfold State.scanGrad
  split
  · rfl
  · exact (State.kept_foldl _ _ _ (fun t a => by simp)).trans (by simp)
@[simp] theorem State.storeAccs_kept (s : State) (c slot : Nat) (q : QEntry) : (s.storeAccs c slot q).store.kept = s.store.kept := by simp [State.storeAccs]
@[simp] theorem State.storeAccs_inv (s : State) (c slot : Nat) (q : QEntry) (h : s.store.Inv) : (s.storeAccs c slot q).store.Inv :=
  State.inv_updCore _ _ _ h (fun k hk => CoreState.inv_cs k _ _ _ _ _ _ _ hk (EccMem.wf_write _ _ _ hk.1))
@[simp] theorem accFault_store (c slot : Nat) (q : QEntry) (s : State) : (accFault c slot q s).st.store = s.store := by simp [accFault]
@[simp] theorem gradScanWork_inv (c slot : Nat) (q : QEntry) (s : State) (h : s.store.Inv) : (gradScanWork c slot q s).st.store.Inv := by
  unfold gradScanWork
  split
  · simpa using h
  · extract_lets before bags u t v
    have ht : t.store.Inv := State.storeAccs_inv _ _ _ _ (State.inv_foldl _ _ _ (by simp [u, h]) (fun t a ht => by simp [ht]))
    clear_value t
    simp [v, ht]
@[simp] theorem gradScanWork_kept (c slot : Nat) (q : QEntry) (s : State) : (gradScanWork c slot q s).st.store.kept = s.store.kept := by
  unfold gradScanWork
  split
  · simp
  · extract_lets before bags u t v
    have ht : t.store.kept = s.store.kept :=
      (State.storeAccs_kept _ _ _ _).trans ((State.kept_foldl _ _ _ (fun t a => by simp)).trans (by simp [u]))
    clear_value t
    simp [v, ht]
@[simp] theorem State.unspill_store (c slot : Nat) (q : QEntry) (acc : List GradAcc × State) (r : SpillRec) :
    (State.unspill c slot q acc r).2.store = acc.2.store := by
  unfold State.unspill
  split
  · rfl
  · dsimp only
    split <;> simp
@[simp] theorem State.readSpill_store (s : State) (c slot : Nat) (q : QEntry) (n : Nat) : (s.readSpill c slot q n).store = s.store :=
  State.store_foldl _ _ _ (fun s a => by simp)
@[simp] theorem gradFlushWork_inv (c slot : Nat) (q : QEntry) (s : State) (h : s.store.Inv) : (gradFlushWork c slot q s).st.store.Inv := by
  unfold gradFlushWork
  split
  · simpa using h
  · extract_lets k spill r recs t
    have hr : r.2.store = s.store := (State.store_foldl_snd _ _ _ (fun a b => by simp)).trans (by simp)
    exact State.inv_foldl _ _ _ (by simp [t, hr, h]) (fun t a ht => by simp [ht])
@[simp] theorem gradFlushWork_kept (c slot : Nat) (q : QEntry) (s : State) : (gradFlushWork c slot q s).st.store.kept = s.store.kept := by
  unfold gradFlushWork
  split
  · simp
  · extract_lets k spill r recs t
    have hr : r.2.store = s.store := (State.store_foldl_snd _ _ _ (fun a b => by simp)).trans (by simp)
    exact (State.kept_foldl _ _ _ (fun t a => by simp)).trans (by simp [t, hr])
@[simp] theorem State.sendGrad_store (s : State) (c slot : Nat) (q : QEntry) (flushed : List GradAcc) (b : ReqBatch) : (State.sendGrad s c slot q flushed b).store = s.store := by simp [State.sendGrad]
@[simp] theorem gradMergeWork_kept (c slot : Nat) (q : QEntry) (s : State) : (gradMergeWork c slot q s).st.store.kept = s.store.kept := by unfold gradMergeWork; extract_lets; (repeat' split) <;> simp +zetaDelta
@[simp] theorem gradMergeWork_inv (c slot : Nat) (q : QEntry) (s : State) (h : s.store.Inv) : (gradMergeWork c slot q s).st.store.Inv := by unfold gradMergeWork; extract_lets; (repeat' split) <;> simp +zetaDelta [h]
@[simp] theorem State.updOwner_store (s : State) (slot : Nat) (f : OwnerState → OwnerState) : (State.updOwner s slot f).store = s.store := by simp [State.updOwner]
@[simp] theorem State.batchInvalid_store (s : State) (m : Message) (core entry : Nat) : (State.batchInvalid s m core entry).store = s.store := by simp [State.batchInvalid]
@[simp] theorem State.rowDamage_store (s : State) (slot : Nat) : (State.rowDamage s slot).store = s.store := by simp [State.rowDamage]
@[simp] theorem State.readRecord_store (s : State) (a : Asker) (k : Key) : (State.readRecord s a k).2.store = s.store := by unfold State.readRecord; extract_lets; (repeat' split) <;> simp +zetaDelta
@[simp] theorem State.markHot_store (s : State) (slot : Nat) (b : OwnBatch) : (State.markHot s slot b).store = s.store := by simp [State.markHot]
@[simp] theorem State.lostInput_store (s : State) (slot st step phase kind addr : Nat) : (State.lostInput s slot st step phase kind addr).store = s.store := by simp [State.lostInput]
@[simp] theorem State.readGrad_store (s : State) (slot step phase : Nat) (g : GradSlot) : (State.readGrad s slot step phase g).2.store = s.store := by unfold State.readGrad; extract_lets; split <;> simp +zetaDelta
@[simp] theorem State.writeGrad_kept (s : State) (slot step phase : Nat) (g : GradSlot) (l : List Int) : (State.writeGrad s slot step phase g l).store.kept = s.store.kept := by simp [State.writeGrad]
@[simp] theorem State.writeGrad_inv (s : State) (slot step phase : Nat) (g : GradSlot) (l : List Int) (h : s.store.Inv) : (State.writeGrad s slot step phase g l).store.Inv := by simp [State.writeGrad, h]
@[simp] theorem State.enterUpdate_kept (s : State) (slot step : Nat) (k : Key) (bs : List Byte) : (State.enterUpdate s slot step k bs).store.kept = s.store.kept := by simp [State.enterUpdate]
@[simp] theorem State.enterUpdate_inv (s : State) (slot step : Nat) (k : Key) (bs : List Byte) (h : s.store.Inv) : (State.enterUpdate s slot step k bs).store.Inv := by
  unfold State.enterUpdate; extract_lets; (repeat' split) <;> simp +zetaDelta [h]
@[simp] theorem State.serveRow_kept (s : State) (slot step : Nat) (k : Key) : (State.serveRow s slot step k).2.store.kept = s.store.kept := by unfold State.serveRow; extract_lets; split <;> simp +zetaDelta
@[simp] theorem State.serveRow_inv (s : State) (slot step : Nat) (k : Key) (h : s.store.Inv) : (State.serveRow s slot step k).2.store.Inv := by unfold State.serveRow; extract_lets; split <;> simp +zetaDelta [h]
@[simp] theorem State.serveRows_kept (s : State) (slot step : Nat) (l : List OwnRow) : (s.serveRows slot step l).2.2.store.kept = s.store.kept := by
  induction l generalizing s with
  | nil => rfl
  | cons r l ih => unfold State.serveRows; split <;> simp [ih]
@[simp] theorem State.serveRows_inv (s : State) (slot step : Nat) (l : List OwnRow) (h : s.store.Inv) : (s.serveRows slot step l).2.2.store.Inv := by
  induction l generalizing s with
  | nil => exact h
  | cons r l ih => unfold State.serveRows; split <;> simp [ih, h]
@[simp] theorem State.countFold_store (s : State) (slot : Nat) (b : OwnBatch) (g : Bool × List (Nat × Nat × W32)) : (State.countFold s slot b g).store = s.store := by unfold State.countFold; split <;> simp
@[simp] theorem State.sendResponse_store (s : State) (slot : Nat) (b : OwnBatch) (items : List (List Byte)) : (State.sendResponse s slot b items).store = s.store := by simp [State.sendResponse]
@[simp] theorem State.keepBatch_store (s : State) (slot : Nat) (b : OwnBatch) (rows : List OwnRow) (a : Bool) : (State.keepBatch s slot b rows a).store = s.store := by simp [State.keepBatch]
/-- Serving a batch leaves the store of its rows' service. -/
theorem State.serveBatch_store (s : State) (slot : Nat) (b : OwnBatch) : (s.serveBatch slot b).store = (s.serveRows slot b.step b.rows).2.2.store := by
  unfold State.serveBatch
  extract_lets r vals t u
  have ht : t.store = r.2.2.store := by simp [t]
  clear_value t
  split <;> simp [u, ht, r]
@[simp] theorem State.serveReady_kept (s : State) (slot : Nat) : (s.serveReady slot).store.kept = s.store.kept :=
  State.kept_foldl _ _ _ (fun s a => by split <;> simp [State.serveBatch_store])
@[simp] theorem State.serveReady_inv (s : State) (slot : Nat) (h : s.store.Inv) : (s.serveReady slot).store.Inv :=
  State.inv_foldl _ _ _ h (fun s a hs => by split <;> simp [State.serveBatch_store, hs])
@[simp] theorem State.joinRequest_kept (s : State) (m : Message) : (State.joinRequest s m).store.kept = s.store.kept := by unfold State.joinRequest; extract_lets; (repeat' split) <;> simp +zetaDelta
@[simp] theorem State.joinRequest_inv (s : State) (m : Message) (h : s.store.Inv) : (State.joinRequest s m).store.Inv := by unfold State.joinRequest; extract_lets; (repeat' split) <;> simp +zetaDelta [h]
@[simp] theorem State.takeResponse_kept (s : State) (m : Message) : (State.takeResponse s m).store.kept = s.store.kept := by unfold State.takeResponse; extract_lets; (repeat' split) <;> simp +zetaDelta
@[simp] theorem State.takeResponse_inv (s : State) (m : Message) (h : s.store.Inv) : (State.takeResponse s m).store.Inv := by unfold State.takeResponse; extract_lets; (repeat' split) <;> simp +zetaDelta [h]
@[simp] theorem State.addGrad_kept (s : State) (slot : Nat) (b : OwnBatch) (entry nf : Nat) (q : List Int) : (State.addGrad s slot b entry nf q).store.kept = s.store.kept := by
  unfold State.addGrad
  extract_lets r cur k u
  have hu : u.store = s.store := by simp [u]
  clear_value u
  split
  · simp
  · split
    · rw [hu]
    · extract_lets x
      split <;> simp [x, hu]
@[simp] theorem State.addGrad_inv (s : State) (slot : Nat) (b : OwnBatch) (entry nf : Nat) (q : List Int) (h : s.store.Inv) : (State.addGrad s slot b entry nf q).store.Inv := by
  unfold State.addGrad
  extract_lets r cur k u
  have hu : u.store = s.store := by simp [u]
  clear_value u
  split
  · simpa using h
  · split
    · exact hu ▸ h
    · extract_lets x
      split <;> simp [x, hu, h]
@[simp] theorem State.takeGrads_kept (s : State) (m : Message) (b : OwnBatch) (n : Nat) (ws : List Word) :
    (s.takeGrads m b n ws).store.kept = s.store.kept := by
  induction n generalizing s ws with
  | zero => rfl
  | succ n ih =>
    unfold State.takeGrads
    extract_lets
    split
    · simp
    · split
      · simp
      · simp [ih]
@[simp] theorem State.takeGrads_inv (s : State) (m : Message) (b : OwnBatch) (n : Nat) (ws : List Word) (h : s.store.Inv) :
    (s.takeGrads m b n ws).store.Inv := by
  induction n generalizing s ws with
  | zero => exact h
  | succ n ih =>
    unfold State.takeGrads
    extract_lets
    split
    · simpa using h
    · split
      · simpa using h
      · exact ih _ _ (by simp [h])
@[simp] theorem State.takeGradSegment_kept (s : State) (m : Message) (b : OwnBatch) (x : SegHead) (ws : List Word) :
    (s.takeGradSegment m b x ws).store.kept = s.store.kept := by unfold State.takeGradSegment; extract_lets; (repeat' split) <;> simp +zetaDelta
@[simp] theorem State.takeGradSegment_inv (s : State) (m : Message) (b : OwnBatch) (x : SegHead) (ws : List Word) (h : s.store.Inv) :
    (s.takeGradSegment m b x ws).store.Inv := by unfold State.takeGradSegment; extract_lets; (repeat' split) <;> simp +zetaDelta [h]
@[simp] theorem State.joinGrad_kept (s : State) (m : Message) : (s.joinGrad m).store.kept = s.store.kept := by
  unfold State.joinGrad; extract_lets; (repeat' split) <;> simp +zetaDelta
@[simp] theorem State.joinGrad_inv (s : State) (m : Message) (h : s.store.Inv) : (s.joinGrad m).store.Inv := by
  unfold State.joinGrad; extract_lets; (repeat' split) <;> simp +zetaDelta [h]
@[simp] theorem State.updRow_store (s : State) (slot : Nat) (k : Key) (step : Nat) (f : UpdateRow → UpdateRow) : (State.updRow s slot k step f).store = s.store := by simp [State.updRow]
@[simp] theorem State.rowSums_store (s : State) (slot : Nat) (u : UpdateRow) : (State.rowSums s slot u).2.store = s.store := by unfold State.rowSums; extract_lets; (repeat' split) <;> simp +zetaDelta
@[simp] theorem State.updateFrom_store (s : State) (slot : Nat) (u : UpdateRow) (a : GradAcc) : (State.updateFrom s slot u a).store = s.store := by unfold State.updateFrom; extract_lets; (repeat' split) <;> simp +zetaDelta
@[simp] theorem State.updateRow_store (s : State) (slot : Nat) (u : UpdateRow) : (State.updateRow s slot u).store = s.store := by unfold State.updateRow; extract_lets; (repeat' split) <;> simp +zetaDelta
@[simp] theorem State.takeRow_store (s : State) (slot e : Nat) : (State.takeRow s slot e).store = s.store := by unfold State.takeRow; split <;> simp
@[simp] theorem State.addRatio_store (s : State) (r : RecordWrite) : (State.addRatio s r).store = s.store := by simp [State.addRatio]
@[simp] theorem State.acceptRecord_inv (s : State) (st : Nat) (r : RecordWrite) (h : s.store.Inv) : (s.acceptRecord st r).store.Inv := by
  simp [State.acceptRecord, h]
@[simp] theorem State.acceptRecord_kept (s : State) (st : Nat) (r : RecordWrite) : (s.acceptRecord st r).store.kept = s.store.kept := by
  simp [State.acceptRecord]
@[simp] theorem State.rewalk_store (s : State) (slot step : Nat) : (State.rewalk s slot step).store = s.store := by simp [State.rewalk]

end Sys2Proof.Machine
end

