-- ==== Sys2Proof/Laws/FrameModule.lean ====
section
/-! SUPPORT. What the operations of the module around the cores keep: exchange, settings, images, journal, host link, fabric links, start-up, rounds and step statistics. -/

namespace Sys2Proof.Machine

open Sys2Proof

@[simp] theorem State.sendCounts_store (s : State) (slot step : Nat) : (State.sendCounts s slot step).store = s.store := by simp [State.sendCounts]
@[simp] theorem State.putColl_store (s : State) (k : Collective) : (State.putColl s k).store = s.store := by simp [State.putColl]
@[simp] theorem State.deliverCodes_kept (s : State) (k : Collective) (total : List Int) : (State.deliverCodes s k total).store.kept = s.store.kept := by simp [State.deliverCodes]
@[simp] theorem State.deliverCodes_inv (s : State) (k : Collective) (total : List Int) (h : s.store.Inv) : (State.deliverCodes s k total).store.Inv := by simp [State.deliverCodes, h]
@[simp] theorem State.deliverSums_inv (s : State) (k : Collective) (mirror : Bool) (total : List Int) (h : s.store.Inv) :
    (s.deliverSums k mirror total).store.Inv := by
  unfold State.deliverSums
  extract_lets e0 g fast r t ex vals at_ u
  have ht : t.store.Inv := by simp [t, r, h]
  clear_value t
  have hu : u.store.Inv := State.inv_updCore _ _ _ ht (fun k hk => CoreState.inv_cs _ _ _ _ _ _ _ _ hk (EccMem.wf_write _ _ _ hk.1))
  clear_value u
  simpa using hu
@[simp] theorem State.deliverSums_kept (s : State) (k : Collective) (mirror : Bool) (total : List Int) :
    (s.deliverSums k mirror total).store.kept = s.store.kept := by
  simp [State.deliverSums]
@[simp] theorem State.bcastColl_store (s : State) (k : Collective) (body : List Word) : (State.bcastColl s k body).store = s.store := by simp [State.bcastColl]
@[simp] theorem State.advanceColl_inv (s : State) (k : Collective) (h : s.store.Inv) : (s.advanceColl k).store.Inv := by
  unfold State.advanceColl
  (repeat' split) <;> simp +zetaDelta [h]
@[simp] theorem State.advanceColl_kept (s : State) (k : Collective) : (s.advanceColl k).store.kept = s.store.kept := by
  unfold State.advanceColl
  (repeat' split) <;> simp +zetaDelta
@[simp] theorem State.openColl_inv (s : State) (c slot op : Nat) (q : QEntry) (off : Nat) (own : List Int) (h : s.store.Inv) :
    (s.openColl c slot op q off own).store.Inv := State.advanceColl_inv _ _ h
@[simp] theorem State.openColl_kept (s : State) (c slot op : Nat) (q : QEntry) (off : Nat) (own : List Int) :
    (s.openColl c slot op q off own).store.kept = s.store.kept := State.advanceColl_kept _ _
@[simp] theorem State.collOwn_store (s : State) (c slot op : Nat) (q : QEntry) (n : Nat) : (State.collOwn s c slot op q n).2.store = s.store := by unfold State.collOwn; split <;> simp
@[simp] theorem collWork_inv (c slot op : Nat) (q : QEntry) (s : State) (h : s.store.Inv) : (collWork c slot op q s).st.store.Inv := by
  unfold collWork
  extract_lets n count r fe t
  have ht : t.store.Inv := by simp only [t]; split <;> simp [r, h]
  clear_value t
  exact State.inv_foldl _ _ _ ht (fun t a h => State.openColl_inv _ _ _ _ _ _ _ h)
@[simp] theorem collWork_kept (c slot op : Nat) (q : QEntry) (s : State) : (collWork c slot op q s).st.store.kept = s.store.kept := by
  unfold collWork
  extract_lets n count r fe t
  have ht : t.store.kept = s.store.kept := by simp only [t]; split <;> simp [r]
  clear_value t
  exact (State.kept_foldl _ _ _ (fun t a => State.openColl_kept _ _ _ _ _ _ _)).trans ht
@[simp] theorem State.takeReduce_inv (s : State) (m : Message) (h : s.store.Inv) : (s.takeReduce m).store.Inv := by
  unfold State.takeReduce
  extract_lets
  split
  · exact h
  · split
    · simpa using h
    · exact State.advanceColl_inv _ _ h
@[simp] theorem State.takeReduce_kept (s : State) (m : Message) : (s.takeReduce m).store.kept = s.store.kept := by
  unfold State.takeReduce
  extract_lets
  split
  · rfl
  · split
    · simp
    · exact State.advanceColl_kept _ _
@[simp] theorem State.updGather_store (s : State) (slot step tag tid : Nat) (f : GatherState → GatherState) : (State.updGather s slot step tag tid f).store = s.store := by simp [State.updGather]
@[simp] theorem State.placeLines_inv (s : State) (slot : Nat) (g : GatherState) (off : Nat) (bs : List Byte) (h : s.store.Inv) :
    (s.placeLines slot g off bs).store.Inv := by
  unfold State.placeLines
  extract_lets l0 new t u x y
  have hu : u.store.Inv := State.inv_foldl _ _ _ (by simpa [t] using h) (fun t a h => by simp [h])
  clear_value u
  simpa [y] using hu
@[simp] theorem State.placeLines_kept (s : State) (slot : Nat) (g : GatherState) (off : Nat) (bs : List Byte) :
    (s.placeLines slot g off bs).store.kept = s.store.kept := by
  unfold State.placeLines
  extract_lets l0 new t u x y
  have hu : u.store.kept = s.store.kept := (State.kept_foldl _ _ _ (fun t a => by simp)).trans (by simp [t])
  clear_value u
  simpa [y] using hu
@[simp] theorem State.forwardLines_store (s : State) (slot step tag tid off : Nat) (body : List Word) : (State.forwardLines s slot step tag tid off body).store = s.store := by simp [State.forwardLines]
@[simp] theorem gatherWork_inv (c slot : Nat) (q : QEntry) (s : State) (h : s.store.Inv) : (gatherWork c slot q s).st.store.Inv :=
  State.inv_foldl _ _ _ (by simpa using h) (fun t a h => State.placeLines_inv _ _ _ _ _ h)
@[simp] theorem gatherWork_kept (c slot : Nat) (q : QEntry) (s : State) : (gatherWork c slot q s).st.store.kept = s.store.kept :=
  (State.kept_foldl _ _ _ (fun t a => State.placeLines_kept _ _ _ _ _)).trans (by simp)
@[simp] theorem State.sendSlice_inv (s : State) (slot : Nat) (g : GatherState) (n : Nat) (x : SliceState) (h : s.store.Inv) :
    (s.sendSlice slot g n x).store.Inv :=
  State.inv_foldl _ _ _ (by simpa using h) (fun t a h => State.inv_foldl _ _ _ h (fun t a h => by
    dsimp only; split <;> simp [h]))
@[simp] theorem State.sendSlice_kept (s : State) (slot : Nat) (g : GatherState) (n : Nat) (x : SliceState) :
    (s.sendSlice slot g n x).store.kept = s.store.kept :=
  (State.kept_foldl _ _ _ (fun t a => State.kept_foldl _ _ _ (fun t a => by dsimp only; split <;> simp))).trans (by simp)
@[simp] theorem State.takeGather_inv (s : State) (m : Message) (h : s.store.Inv) : (s.takeGather m).store.Inv := by
  unfold State.takeGather
  extract_lets st t
  have ht : t.store.Inv := by simpa [t] using h
  clear_value t
  split
  · split <;> simp [ht]
  · simpa using ht
@[simp] theorem State.takeGather_kept (s : State) (m : Message) : (s.takeGather m).store.kept = s.store.kept := by
  unfold State.takeGather
  extract_lets st t
  have ht : t.store.kept = s.store.kept := by simp [t]
  clear_value t
  split
  · split <;> simp [ht]
  · simpa using ht
@[simp] theorem State.takeResult_inv (s : State) (m : Message) (k : Collective) (h : s.store.Inv) : (s.takeResult m k).store.Inv := by
  unfold State.takeResult
  split
  · exact h
  · split
    · simpa using h
    · dsimp only
      split <;> simp [h]
@[simp] theorem State.takeResult_kept (s : State) (m : Message) (k : Collective) : (s.takeResult m k).store.kept = s.store.kept := by
  unfold State.takeResult
  split
  · rfl
  · split
    · simp
    · dsimp only
      split <;> simp
@[simp] theorem State.updCs_kept (s : State) (c slot : Nat) (f : CoreSlot → CoreSlot) : (s.updCs c slot f).store.kept = s.store.kept := rfl
@[simp] theorem State.updCs_inv (s : State) (c slot : Nat) (f : CoreSlot → CoreSlot) (h : s.store.Inv)
    (hf : ∀ c, (f c).queues = c.queues) : (s.updCs c slot f).store.Inv :=
  State.inv_updCore _ _ _ h (fun _ hk => CoreState.inv_updSlot _ _ _ hk hf)
@[simp] theorem State.countEntry_kept (s : State) (c u : Nat) (r : RunEntry) : (State.countEntry s c u r).store.kept = s.store.kept := by simp [State.countEntry]
@[simp] theorem State.countEntry_inv (s : State) (c u : Nat) (r : RunEntry) (h : s.store.Inv) : (State.countEntry s c u r).store.Inv := by simp [State.countEntry, h]
@[simp] theorem State.writeSlice_store (s : State) (slot n g : Nat) (l : List Nat) : (State.writeSlice s slot n g l).store = s.store := by simp [State.writeSlice]
@[simp] theorem State.stampSlice_store (s : State) (u : Nat) (r : RunEntry) : (State.stampSlice s u r).store = s.store := by
  unfold State.stampSlice; extract_lets; (repeat' split) <;> simp +zetaDelta
@[simp] theorem State.refreshPace_store (s : State) : (State.refreshPace s).store = s.store := by simp [State.refreshPace]
@[simp] theorem State.paceEvent_store (s : State) : (State.paceEvent s).store = s.store := by simp [State.paceEvent]
@[simp] theorem State.governDomain_store (p : Nat) (s : State) (d : Nat) : (State.governDomain p s d).store = s.store := by unfold State.governDomain; split <;> simp
@[simp] theorem State.slopeDomain_store (s : State) (d : Nat) : (State.slopeDomain s d).store = s.store := by simp [State.slopeDomain]
@[simp] theorem State.setPow_store (s : State) (p : Nat) : (State.setPow s p).store = s.store := by simp [State.setPow]
@[simp] theorem State.calibrate_store (s : State) (x : CalReading × Nat) : (State.calibrate s x).store = s.store := by simp [State.calibrate]
@[simp] theorem State.domTemps_store (s : State) (junction hbm : List Int) : (State.domTemps s junction hbm).store = s.store := by unfold State.domTemps; exact (State.store_foldl _ _ _ (fun t a => by (repeat' split) <;> simp +zetaDelta)).trans (by simp)
@[simp] theorem State.thermalCondition_store (s : State) (k sensor : Nat) (reading : Int) : (State.thermalCondition s k sensor reading).store = s.store := by simp [State.thermalCondition]
@[simp] theorem State.thermalBits_store (s : State) : (State.thermalBits s).store = s.store := by simp [State.thermalBits]
@[simp] theorem State.refreshPending_store (s : State) : (State.refreshPending s).store = s.store := by simp [State.refreshPending]
@[simp] theorem State.applyLive_store (s : State) (o : Nat) : (State.applyLive s o).store = s.store := by unfold State.applyLive; split <;> simp
@[simp] theorem State.commitGroup_store (s : State) (step : Option Nat) (g : List Nat) : (State.commitGroup s step g).store = s.store := by unfold State.commitGroup; (repeat' split) <;> simp
@[simp] theorem State.liveCommit_store (s : State) (step : Option Nat) : (State.liveCommit s step).store = s.store := by simp [State.liveCommit]
@[simp] theorem State.stageLive_store (s : State) (o : Nat) (v : Word) : (State.stageLive s o v).store = s.store := by simp [State.stageLive]
@[simp] theorem State.writeHold_store (s : State) (v : Word) : (State.writeHold s v).store = s.store := by simp [State.writeHold]
@[simp] theorem State.mboxDone_store (s : State) (status : Nat) (resp : List Byte) : (State.mboxDone s status resp).store = s.store := by unfold State.mboxDone; split <;> simp
@[simp] theorem State.mboxStart_store (s : State) : (State.mboxStart s).store = s.store := by simp [State.mboxStart]
@[simp] theorem State.mboxRun_inv (s : State) (cmd : Nat) (f : List Byte → State → State) (h : s.store.Inv)
    (hf : ∀ a, (f a s).store.Inv) : (s.mboxRun cmd f).store.Inv := by
  unfold State.mboxRun
  split
  · exact h
  · split
    · simpa using h
    · exact hf _
@[simp] theorem State.mboxRun_kept (s : State) (cmd : Nat) (f : List Byte → State → State)
    (hf : ∀ a, (f a s).store.kept = s.store.kept) : (s.mboxRun cmd f).store.kept = s.store.kept := by
  unfold State.mboxRun
  split
  · rfl
  · split
    · simp
    · exact hf _
theorem SMap.sorted_filter {α : Type} (m : SMap α) (p : Nat × α → Bool) (h : SMap.sorted m = true) : SMap.sorted (m.filter p) = true := by
  induction m with
  | nil => exact h
  | cons f m ih =>
    obtain ⟨k, v⟩ := f
    have h' := (SMap.sorted_cons k v m).1 h
    rw [List.filter_cons]
    split
    · rw [SMap.sorted_cons]
      exact ⟨fun e he => h'.1 e ((List.mem_filter.1 he).1), ih h'.2⟩
    · exact ih h'.2
theorem Mem.wfF_filter (fill : Byte) (m : Mem) (p : Nat × Byte → Bool) (h : Mem.wfF fill m = true) : Mem.wfF fill (m.filter p) = true := by
  simp only [Mem.wfF, Bool.and_eq_true, List.all_eq_true, decide_eq_true_eq] at h ⊢
  exact ⟨SMap.sorted_filter m p h.1, fun e he => h.2 e ((List.mem_filter.1 he).1)⟩
theorem Mem.wfF_putErased (m : Mem) (a : Nat) (bs : List Byte) (h : Mem.wfF 0xFF m = true) : Mem.wfF 0xFF (Mem.putErased m a bs) = true := by
  induction bs generalizing m a with
  | nil => exact h
  | cons x bs ih => exact ih _ _ (Mem.wfF_setF 0xFF m a x h)
@[simp] theorem FlashDevice.wf_write (d : FlashDevice) (a : Nat) (bs : List Byte) (h : Mem.wfF 0xFF d.bytes = true) :
    Mem.wfF 0xFF (d.write a bs).bytes = true := Mem.wfF_putErased _ _ _ h
@[simp] theorem FlashDevice.wf_erase (d : FlashDevice) (a n : Nat) (h : Mem.wfF 0xFF d.bytes = true) :
    Mem.wfF 0xFF (d.erase a n).bytes = true := Mem.wfF_filter _ _ _ h
@[simp] theorem State.updFlash_kept (s : State) (x : Nat) (f : FlashDevice → FlashDevice) : (s.updFlash x f).store.kept = s.store.kept := by
  unfold State.updFlash
  split <;> exact State.kept_mk ..
@[simp] theorem State.updFlash_inv (s : State) (x : Nat) (f : FlashDevice → FlashDevice) (h : s.store.Inv)
    (hf : ∀ d : FlashDevice, Mem.wfF 0xFF d.bytes = true → Mem.wfF 0xFF (f d).bytes = true) : (s.updFlash x f).store.Inv := by
  unfold State.updFlash
  split
  · exact ⟨h.1, hf _ h.2.1, h.2.2⟩
  · exact ⟨h.1, h.2.1, hf _ h.2.2.1, h.2.2.2⟩
@[simp] theorem State.updFlash_write_inv (s : State) (x a : Nat) (bs : List Byte) (h : s.store.Inv) :
    (s.updFlash x (fun d => d.write a bs)).store.Inv := State.updFlash_inv _ _ _ h (fun _ hd => FlashDevice.wf_write _ _ _ hd)
@[simp] theorem State.updFlash_erase_inv (s : State) (x a n : Nat) (h : s.store.Inv) :
    (s.updFlash x (fun d => d.erase a n)).store.Inv := State.updFlash_inv _ _ _ h (fun _ hd => FlashDevice.wf_erase _ _ _ hd)
@[simp] theorem State.putCb_kept (s : State) (x : Nat) (f : ControlBlock → ControlBlock) : (s.putCb x f).store.kept = s.store.kept := by
  unfold State.putCb
  (repeat' split) <;> simp +zetaDelta
@[simp] theorem State.putCb_inv (s : State) (x : Nat) (f : ControlBlock → ControlBlock) (h : s.store.Inv) : (s.putCb x f).store.Inv := by
  unfold State.putCb
  (repeat' split) <;> simp +zetaDelta +contextual [h]
@[simp] theorem State.reject_store (s : State) (e : Reject) (x : Nat) : (State.reject s e x).store = s.store := by simp [State.reject]
@[simp] theorem State.markBad_kept (s : State) (x reason : Nat) : (State.markBad s x reason).store.kept = s.store.kept := by simp [State.markBad]
@[simp] theorem State.markBad_inv (s : State) (x reason : Nat) (h : s.store.Inv) : (State.markBad s x reason).store.Inv := by simp [State.markBad, h]
@[simp] theorem State.flashFault_store (s : State) (x : Nat) : (State.flashFault s x).store = s.store := by simp [State.flashFault]
@[simp] theorem State.flashCheck_store (s : State) (x : Nat) : (State.flashCheck s x).store = s.store := by simp [State.flashCheck]
@[simp] theorem State.refreshWindow_store (s : State) : (State.refreshWindow s).store = s.store := by simp [State.refreshWindow]
@[simp] theorem State.boot_store (s : State) (x : Nat) : (State.boot s x).store = s.store := by simp [State.boot]
@[simp] theorem State.restoreItems_store (s : State) (items : List JEntry) : (State.restoreItems s items).store = s.store := by simp [State.restoreItems]
@[simp] theorem State.refreshJournal_store (s : State) : (State.refreshJournal s).store = s.store := by simp [State.refreshJournal]
@[simp] theorem State.takeJournal_store (s : State) (r : JRead) : (State.takeJournal s r).store = s.store := by simp [State.takeJournal]
@[simp] theorem State.restoreRecovery_store (s : State) : (State.restoreRecovery s).store = s.store := by simp [State.restoreRecovery]
@[simp] theorem State.enterRecovery_store (s : State) : (State.enterRecovery s).store = s.store := by simp [State.enterRecovery]
@[simp] theorem State.trialLimit_kept (s : State) (x : Nat) : (State.trialLimit s x).store.kept = s.store.kept := by simp [State.trialLimit]
@[simp] theorem State.trialLimit_inv (s : State) (x : Nat) (h : s.store.Inv) : (State.trialLimit s x).store.Inv := by simp [State.trialLimit, h]
@[simp] theorem State.identity_store (s : State) : (State.identity s).store = s.store := by simp [State.identity]
@[simp] theorem State.imageWrite_kept (s : State) (w : WriteArg) (bs : List Byte) : (s.imageWrite w bs).store.kept = s.store.kept := by
  unfold State.imageWrite
  (repeat' split) <;> simp +zetaDelta
@[simp] theorem State.imageWrite_inv (s : State) (w : WriteArg) (bs : List Byte) (h : s.store.Inv) : (s.imageWrite w bs).store.Inv := by
  unfold State.imageWrite
  (repeat' split) <;> simp (maxDischargeDepth := 9) +zetaDelta [h]
@[simp] theorem State.trySlots_inv (s : State) (l : List Nat) (h : s.store.Inv) : (s.trySlots l).store.Inv := by
  induction l generalizing s with
  | nil => simpa [State.trySlots] using h
  | cons x l ih =>
    unfold State.trySlots
    extract_lets t
    have ht : t.store.Inv := by
      simp only [t]
      split
      · exact State.putCb_inv _ _ _ h
      · exact h
    clear_value t
    split
    · simpa using ht
    · exact ih _ (State.markBad_inv _ _ _ (by simpa using ht))
@[simp] theorem State.trySlots_kept (s : State) (l : List Nat) : (s.trySlots l).store.kept = s.store.kept := by
  induction l generalizing s with
  | nil => simp [State.trySlots]
  | cons x l ih =>
    unfold State.trySlots
    extract_lets t
    have ht : t.store.kept = s.store.kept := by
      simp only [t]
      split <;> simp
    clear_value t
    split
    · simpa using ht
    · rw [ih]
      simpa using ht
@[simp] theorem State.imageAction_inv (s : State) (act : Nat) (f : State → State) (h : s.store.Inv) (hf : (f s).store.Inv) :
    (s.imageAction act f).store.Inv := by
  unfold State.imageAction
  refine State.mboxRun_inv _ _ _ h (fun a => ?_)
  split
  · simpa using h
  · split
    · exact hf
    · exact h
@[simp] theorem State.imageAction_kept (s : State) (act : Nat) (f : State → State) (hf : (f s).store.kept = s.store.kept) :
    (s.imageAction act f).store.kept = s.store.kept := by
  unfold State.imageAction
  refine State.mboxRun_kept _ _ _ (fun a => ?_)
  split
  · simp
  · split
    · exact hf
    · rfl
@[simp] theorem State.enrol_inv (s : State) (h' : List Byte) (h : s.store.Inv) : (s.enrol h').store.Inv := by
  unfold State.enrol
  extract_lets
  split
  · exact h
  · split
    · exact (State.setBit_store _ _ _).symm ▸ h
    · simpa using h
@[simp] theorem State.bootEntry_store (s : State) : (State.bootEntry s).store = s.store := by simp [State.bootEntry]
@[simp] theorem State.onFlash_kept (s : State) (f : FlashDevice → FlashDevice) : (s.onFlash f).store.kept = s.store.kept := State.kept_mk ..
@[simp] theorem State.onFlash_inv (s : State) (f : FlashDevice → FlashDevice) (h : s.store.Inv)
    (hf : ∀ d : FlashDevice, Mem.wfF 0xFF d.bytes = true → Mem.wfF 0xFF (f d).bytes = true) : (s.onFlash f).store.Inv := by
  refine ⟨h.1, ?_, ?_, h.2.2.2⟩
  · show Mem.wfF 0xFF (FlashDevice.bytes (if s.flash0.answers then f s.flash0 else s.flash0)) = true
    split
    · exact hf _ h.2.1
    · exact h.2.1
  · show Mem.wfF 0xFF (FlashDevice.bytes (if s.flash1.answers then f s.flash1 else s.flash1)) = true
    split
    · exact hf _ h.2.2.1
    · exact h.2.2.1
@[simp] theorem State.onFlash_write_inv (s : State) (a : Nat) (bs : List Byte) (h : s.store.Inv) :
    (s.onFlash (fun d => d.write a bs)).store.Inv := State.onFlash_inv _ _ h (fun _ hd => FlashDevice.wf_write _ _ _ hd)
@[simp] theorem State.writeSnapshot_kept (s : State) : s.writeSnapshot.store.kept = s.store.kept := by simp [State.writeSnapshot]
@[simp] theorem State.writeSnapshot_inv (s : State) (h : s.store.Inv) : s.writeSnapshot.store.Inv := by
  unfold State.writeSnapshot
  extract_lets j k snap x b t u
  have ht : t.store.Inv := State.onFlash_inv _ _ h (fun _ hd =>
    FlashDevice.wf_write _ _ _ (FlashDevice.wf_write _ _ _ (FlashDevice.wf_erase _ _ _ hd)))
  clear_value t
  simp [u, ht]
@[simp] theorem State.programEntry_kept (s : State) : s.programEntry.store.kept = s.store.kept := by
  unfold State.programEntry
  (repeat' split) <;> simp +zetaDelta
@[simp] theorem State.programEntry_inv (s : State) (h : s.store.Inv) : s.programEntry.store.Inv := by
  unfold State.programEntry
  (repeat' split) <;> simp +zetaDelta +contextual [h]
@[simp] theorem State.programEntries_kept (s : State) (n : Nat) : (s.programEntries n).store.kept = s.store.kept := by
  induction n generalizing s with
  | zero => rfl
  | succ n ih => simp [State.programEntries, ih]
@[simp] theorem State.programEntries_inv (s : State) (n : Nat) (h : s.store.Inv) : (s.programEntries n).store.Inv := by
  induction n generalizing s with
  | zero => exact h
  | succ n ih => exact ih _ (State.programEntry_inv _ h)
@[simp] theorem State.journalFlush_kept (s : State) : (State.journalFlush s).store.kept = s.store.kept := by simp [State.journalFlush]
@[simp] theorem State.journalFlush_inv (s : State) (h : s.store.Inv) : (State.journalFlush s).store.Inv := by simp [State.journalFlush, h]
@[simp] theorem State.refreshGuidon_store (s : State) : (State.refreshGuidon s).store = s.store := by simp [State.refreshGuidon]
@[simp] theorem State.formJob_store (s : State) (slot : Nat) (ranks : List Nat) : (State.formJob s slot ranks).store = s.store := by simp [State.formJob]
@[simp] theorem State.formSlices_store (s : State) (slot : Nat) : (State.formSlices s slot).store = s.store := by simp [State.formSlices]
theorem CoreState.inv_loadSec (k : CoreState) (slot : Nat) (x : StepSec) (h : k.Inv) : (k.loadSec slot x).Inv :=
  CoreState.inv_updSlot _ _ _ ⟨h.1, EccMem.wf_write _ _ _ (EccMem.wf_write _ _ _ h.2.1), h.2.2⟩ (fun _ => rfl)
@[simp] theorem State.loadTables_kept (s : State) (slot : Nat) : (s.loadTables slot).store.kept = s.store.kept := by
  unfold State.loadTables
  split
  · rfl
  · exact State.kept_foldl _ _ _ (fun t a => State.kept_foldl _ _ _ (fun t a => by simp))
@[simp] theorem State.loadTables_inv (s : State) (slot : Nat) (h : s.store.Inv) : (s.loadTables slot).store.Inv := by
  unfold State.loadTables
  split
  · exact h
  · exact State.inv_foldl _ _ _ h (fun t a h => State.inv_foldl _ _ _ h (fun t a h =>
      State.inv_updCore _ _ _ h (fun k hk => CoreState.inv_loadSec k _ _ hk)))
theorem CoreState.inv_clearSlot (k : CoreState) (slot tiles regs : Nat) (tok : List Nat) (h : k.Inv) : (k.clearSlot slot tiles regs tok).Inv := by
  unfold CoreState.clearSlot
  refine CoreState.inv_updSlot_at _ _ _ (CoreState.inv_tq k _ _ _ _ _ _ _ h List.filter_sublist) (fun u => ?_)
  simp [CoreSlot.queue, SMap.getD]
@[simp] theorem State.restartCores_kept (s : State) (slot step : Nat) : (s.restartCores slot step).store.kept = s.store.kept :=
  State.kept_foldl _ _ _ (fun t a => by split <;> simp)
@[simp] theorem State.restartCores_inv (s : State) (slot step : Nat) (h : s.store.Inv) : (s.restartCores slot step).store.Inv :=
  State.inv_foldl _ _ _ h (fun t a h => by
    split
    · exact State.inv_updCore _ _ _ h (fun k hk => CoreState.inv_updSlot _ _ _ (CoreState.inv_clearSlot k _ _ _ _ hk) (fun _ => rfl))
    · exact h)
theorem CoreState.inv_dropSlot (k : CoreState) (i : Nat) (h : k.Inv) : CoreState.Inv { k with slots := SMap.del k.slots i } := by
  refine ⟨h.1, h.2.1, h.2.2.1, fun j u => ?_⟩
  show ((SMap.getD (SMap.del k.slots i) j {}).queue u).length ≤ 8
  rw [SMap.getD_del]
  split
  · simp [CoreSlot.queue, SMap.getD]
  · exact h.2.2.2 j u
@[simp] theorem State.unloadCores_kept (s : State) (slot : Nat) : (s.unloadCores slot).store.kept = s.store.kept :=
  State.kept_foldl _ _ _ (fun t a => by split <;> simp)
@[simp] theorem State.unloadCores_inv (s : State) (slot : Nat) (h : s.store.Inv) : (s.unloadCores slot).store.Inv :=
  State.inv_foldl _ _ _ h (fun t a h => by
    split
    · exact State.inv_updCore _ _ _ h (fun k hk => CoreState.inv_dropSlot _ _ (CoreState.inv_clearSlot k _ _ _ _ hk))
    · exact h)
@[simp] theorem State.ringFault_store (s : State) (r code : Nat) : (State.ringFault s r code).store = s.store := by simp [State.ringFault]
@[simp] theorem State.ringCheck_store (s : State) (r : Nat) : (State.ringCheck s r).store = s.store := by simp [State.ringCheck]
@[simp] theorem State.ringFailure_store (s : State) (r code : Nat) : (State.ringFailure s r code).store = s.store := by simp [State.ringFailure]
@[simp] theorem State.ringDoorbell_store (s : State) (r : Nat) (v : Word) : (State.ringDoorbell s r v).store = s.store := by simp [State.ringDoorbell]
@[simp] theorem State.ringConfig_store (s : State) (r : Nat) (v : Word) : (State.ringConfig s r v).store = s.store := by simp [State.ringConfig]
@[simp] theorem State.ringResume_store (s : State) (r : Nat) (v : Word) : (State.ringResume s r v).store = s.store := by simp [State.ringResume]
@[simp] theorem State.acceptFrame_store (s : State) (r len : Nat) (bs : List Byte) : (State.acceptFrame s r len bs).store = s.store := by simp [State.acceptFrame]
@[simp] theorem State.refreshIngest_store (s : State) : (State.refreshIngest s).store = s.store := by simp [State.refreshIngest]
@[simp] theorem State.ringAdvance_store (s : State) (r : Nat) : (State.ringAdvance s r).store = s.store := by simp [State.ringAdvance]
@[simp] theorem State.landFrame_kept (s : State) (r slot : Nat) (p : FramePlace) (f : List Byte) : (State.landFrame s r slot p f).store.kept = s.store.kept := by simp [State.landFrame]
@[simp] theorem State.landFrame_inv (s : State) (r slot : Nat) (p : FramePlace) (f : List Byte) (h : s.store.Inv) : (State.landFrame s r slot p f).store.Inv := by simp [State.landFrame, h]
@[simp] theorem State.dropFrame_store (s : State) (r off : Nat) : (State.dropFrame s r off).store = s.store := by simp [State.dropFrame]
@[simp] theorem State.takeLanding_kept (s : State) (r : Nat) (f : List Byte) : (State.takeLanding s r f).store.kept = s.store.kept := by unfold State.takeLanding; extract_lets; (repeat' split) <;> simp +zetaDelta
@[simp] theorem State.takeLanding_inv (s : State) (r : Nat) (f : List Byte) (h : s.store.Inv) : (State.takeLanding s r f).store.Inv := by unfold State.takeLanding; extract_lets; (repeat' split) <;> simp (maxDischargeDepth := 9) +zetaDelta [h]
@[simp] theorem State.updExp_store (s : State) (slot : Nat) (f : ExportSlot → ExportSlot) : (State.updExp s slot f).store = s.store := by simp [State.updExp]
@[simp] theorem State.expPut_store (s : State) (bs : List Byte) : (State.expPut s bs).store = s.store := by simp [State.expPut]
@[simp] theorem State.exportRecord_store (s : State) (kind slot step w2 w3 : Nat) (body : List Byte) : (State.exportRecord s kind slot step w2 w3 body).1.store = s.store := by unfold State.exportRecord; extract_lets; (repeat' split) <;> simp +zetaDelta
@[simp] theorem State.densePages_store (s : State) (slot g n : Nat) (x : SliceState) : (State.densePages s slot g n x).2.store = s.store := by unfold State.densePages; apply State.store_foldl_snd; intro s a; split <;> simp
@[simp] theorem State.refreshExport_store (s : State) : (State.refreshExport s).store = s.store := by simp [State.refreshExport]
@[simp] theorem State.queueCounters_store (s : State) (slot : Nat) : (State.queueCounters s slot).store = s.store := by simp [State.queueCounters]
@[simp] theorem State.ackStep_store (s : State) (slot : Nat) (v : Word) : (State.ackStep s slot v).store = s.store := by simp [State.ackStep]
@[simp] theorem State.updRestore_store (s : State) (slot : Nat) (f : RestoreState → RestoreState) : (State.updRestore s slot f).store = s.store := by simp [State.updRestore]
@[simp] theorem State.refreshNeeds_store (s : State) (slot : Nat) : (State.refreshNeeds s slot).store = s.store := by simp [State.refreshNeeds]
@[simp] theorem State.addNeeds_store (s : State) (slot : Nat) (l : List (Nat × Nat × Nat)) (whole : Bool) : (State.addNeeds s slot l whole).store = s.store := by simp [State.addNeeds]
@[simp] theorem State.settle_store (s : State) (slot c : Nat) : (State.settle s slot c).store = s.store := by simp [State.settle]
@[simp] theorem State.openRestore_store (s : State) (slot : Nat) (admission : Bool) (c : Nat) : (State.openRestore s slot admission c).store = s.store := by simp [State.openRestore]
@[simp] theorem State.badRecord_store (s : State) : (State.badRecord s).store = s.store := by simp [State.badRecord]
@[simp] theorem State.supply_store (s : State) (slot : Nat) (x : Nat × Nat × Nat) : (State.supply s slot x).store = s.store := by simp [State.supply]
@[simp] theorem State.placeRestoredRow_kept (s : State) (slot : Nat) (x : RecHead) (body : List Byte) :
    (s.placeRestoredRow slot x body).store.kept = s.store.kept := by
  unfold State.placeRestoredRow
  extract_lets
  split
  · simp
  · simp +zetaDelta
@[simp] theorem State.placeRestoredRow_inv (s : State) (slot : Nat) (x : RecHead) (body : List Byte) (h : s.store.Inv) :
    (s.placeRestoredRow slot x body).store.Inv := by
  unfold State.placeRestoredRow
  extract_lets
  split
  · simp [h]
  · simp +zetaDelta [h]
@[simp] theorem State.placeSlicePart_kept (s : State) (slot g c part : Nat) (x : SliceState) (body : List Byte) : (State.placeSlicePart s slot g c part x body).store.kept = s.store.kept := by simp [State.placeSlicePart]
@[simp] theorem State.placeSlicePart_inv (s : State) (slot g c part : Nat) (x : SliceState) (body : List Byte) (h : s.store.Inv) : (State.placeSlicePart s slot g c part x body).store.Inv := by simp [State.placeSlicePart, h]
@[simp] theorem State.placeRestoredSlice_kept (s : State) (slot : Nat) (x : RecHead) (body : List Byte) :
    (s.placeRestoredSlice slot x body).store.kept = s.store.kept := by
  unfold State.placeRestoredSlice
  extract_lets
  split
  · simp
  · split
    · simp
    · dsimp only
      split <;> simp
@[simp] theorem State.placeRestoredSlice_inv (s : State) (slot : Nat) (x : RecHead) (body : List Byte) (h : s.store.Inv) :
    (s.placeRestoredSlice slot x body).store.Inv := by
  unfold State.placeRestoredSlice
  extract_lets
  split
  · simp [h]
  · split
    · simp [h]
    · dsimp only
      split <;> simp [h]
@[simp] theorem State.placeRestoredMap_store (s : State) (slot : Nat) (h : RecHead) (body : List Byte) : (State.placeRestoredMap s slot h body).store = s.store := by simp [State.placeRestoredMap]
@[simp] theorem State.placeRestoredNumerics_store (s : State) (slot : Nat) (h : RecHead) (body : List Byte) : (State.placeRestoredNumerics s slot h body).store = s.store := by unfold State.placeRestoredNumerics; split <;> simp
@[simp] theorem State.placeRecord_inv (s : State) (slot : Nat) (x : RecHead) (body : List Byte) (h : s.store.Inv) :
    (s.placeRecord slot x body).store.Inv := by
  unfold State.placeRecord
  extract_lets r kind
  clear_value kind
  split
  · exact h
  · split
    · simp [h]
    · split <;> simp [h]
@[simp] theorem State.placeRecord_kept (s : State) (slot : Nat) (x : RecHead) (body : List Byte) :
    (s.placeRecord slot x body).store.kept = s.store.kept := by
  unfold State.placeRecord
  extract_lets r kind
  clear_value kind
  split
  · rfl
  · split
    · simp
    · split <;> simp
@[simp] theorem State.resyncRecords_store (s : State) : (State.resyncRecords s).store = s.store := by simp [State.resyncRecords]
@[simp] theorem State.restoreChecked_kept (s : State) (slot : Nat) : (State.restoreChecked s slot).store.kept = s.store.kept := by unfold State.restoreChecked; extract_lets; (repeat' split) <;> simp +zetaDelta
@[simp] theorem State.restoreChecked_inv (s : State) (slot : Nat) (h : s.store.Inv) : (State.restoreChecked s slot).store.Inv := by unfold State.restoreChecked; extract_lets; (repeat' split) <;> simp (maxDischargeDepth := 9) +zetaDelta [h]
@[simp] theorem State.restoreDone_kept (s : State) (v : Word) : (State.restoreDone s v).store.kept = s.store.kept := by unfold State.restoreDone; extract_lets; (repeat' split) <;> simp +zetaDelta
@[simp] theorem State.restoreDone_inv (s : State) (v : Word) (h : s.store.Inv) : (State.restoreDone s v).store.Inv := by unfold State.restoreDone; extract_lets; (repeat' split) <;> simp (maxDischargeDepth := 9) +zetaDelta [h]
@[simp] theorem State.skipRing_store (s : State) (r : Nat) : (State.skipRing s r).store = s.store := by simp [State.skipRing]
@[simp] theorem State.replayAck_store (s : State) (v : Word) : (State.replayAck s v).store = s.store := by simp [State.replayAck]
@[simp] theorem State.sendFlit_store (s : State) (p : Nat) (f : Flit) : (State.sendFlit s p f).store = s.store := by simp [State.sendFlit]
@[simp] theorem State.txIdle_store (s : State) (p : Nat) : (State.txIdle s p).store = s.store := by simp [State.txIdle]
@[simp] theorem State.txFlit_store (s : State) (p type vl : Nat) (payload : List Byte) : (State.txFlit s p type vl payload).store = s.store := by simp [State.txFlit]
@[simp] theorem State.txControl_store (s : State) (p : Nat) (payload : List Byte) : (State.txControl s p payload).store = s.store := by simp [State.txControl]
@[simp] theorem State.txAck_store (s : State) (p : Nat) : (State.txAck s p).store = s.store := by simp [State.txAck]
@[simp] theorem State.txMessage_store (s : State) (p vl : Nat) (m : Message) : (State.txMessage s p vl m).store = s.store := by simp [State.txMessage]
@[simp] theorem State.flushWait_store (n : Nat) (s : State) (p : Nat) : (State.flushWait n s p).store = s.store := by
  induction n generalizing s with
  | zero => rfl
  | succ n ih =>
    unfold State.flushWait
    split
    · rfl
    · split
      · rw [ih]; simp
      · rfl
@[simp] theorem State.flushPort_store (s : State) (p : Nat) : (s.flushPort p).store = s.store := State.flushWait_store _ _ _
@[simp] theorem State.resend_store (s : State) (p : Nat) : (State.resend s p).store = s.store := by simp [State.resend]
@[simp] theorem State.messageLost_store (s : State) (p : Nat) (m : Message) : (State.messageLost s p m).store = s.store := by simp [State.messageLost]
@[simp] theorem State.dropPort_store (s : State) (p : Nat) : (State.dropPort s p).store = s.store := by simp [State.dropPort]
@[simp] theorem State.sendBeacon_store (s : State) (b : BeaconEntry) (p : Nat) : (State.sendBeacon s b p).store = s.store := by simp [State.sendBeacon]
@[simp] theorem State.queueFabric_store (s : State) : (State.queueFabric s).store = s.store := by simp [State.queueFabric]
@[simp] theorem State.refreshFrozen_store (s : State) : (State.refreshFrozen s).store = s.store := by simp [State.refreshFrozen]
@[simp] theorem State.announce_store (s : State) : (State.announce s).store = s.store := by
  unfold State.announce
  extract_lets b old noisy f u b' g v
  have hu : u.store = s.store := State.store_with ..
  clear_value u
  have hv : v.store = s.store := (State.refreshFrozen_store _).trans ((State.store_with ..).trans hu)
  clear_value v
  split <;> simp [hv]
@[simp] theorem State.linksChanged_store (s : State) : (State.linksChanged s).store = s.store := by simp [State.linksChanged]
@[simp] theorem State.computeRoutes_store (s : State) : (State.computeRoutes s).store = s.store := by simp [State.computeRoutes]
@[simp] theorem State.refreshRank_store (s : State) : (State.refreshRank s).store = s.store := by simp [State.refreshRank]
@[simp] theorem State.reformRanks_store (s : State) (serials : List Nat) : (State.reformRanks s serials).store = s.store := by simp [State.reformRanks]
@[simp] theorem State.learnRanks_store (s : State) : (State.learnRanks s).store = s.store := by simp [State.learnRanks]
@[simp] theorem State.loseRank_store (s : State) (other : Nat) : (State.loseRank s other).store = s.store := by simp [State.loseRank]
@[simp] theorem State.refuseBuild_store (s : State) : (State.refuseBuild s).store = s.store := by simp [State.refuseBuild]
@[simp] theorem State.openAdmission_store (s : State) : (State.openAdmission s).store = s.store := by simp [State.openAdmission]
@[simp] theorem State.startFlint_store (s : State) : (State.startFlint s).store = s.store := by simp [State.startFlint]
@[simp] theorem State.reachReady_store (s : State) : (State.reachReady s).store = s.store := by simp [State.reachReady]
@[simp] theorem State.mapMoved_store (s : State) (before : List Nat) : (State.mapMoved s before).store = s.store := by simp [State.mapMoved]
@[simp] theorem State.rejoin_store (s : State) (frozen : Bool) : (State.rejoin s frozen).store = s.store := by simp [State.rejoin]
@[simp] theorem State.adoptMap_store (s : State) : (State.adoptMap s).store = s.store := by unfold State.adoptMap; simp only []; (repeat' split) <;> simp
@[simp] theorem State.tryAdopt_store (s : State) : (State.tryAdopt s).store = s.store := by unfold State.tryAdopt; split <;> simp
@[simp] theorem State.takeBeacon_store (s : State) (p : Nat) (b : BeaconEntry) : (State.takeBeacon s p b).store = s.store := by simp [State.takeBeacon]
@[simp] theorem State.setPort_store (s : State) (p st reason : Nat) : (State.setPort s p st reason).store = s.store := by simp [State.setPort]
@[simp] theorem State.leaveUp_store (s : State) (p : Nat) : (State.leaveUp s p).store = s.store := by simp [State.leaveUp]
@[simp] theorem State.takeDown_store (s : State) (p st reason : Nat) : (State.takeDown s p st reason).store = s.store := by simp [State.takeDown]
@[simp] theorem State.exclude_store (s : State) (p reason : Nat) : (State.exclude s p reason).store = s.store := by simp [State.exclude]
@[simp] theorem State.enterRetrain_store (s : State) (p : Nat) : (State.enterRetrain s p).store = s.store := by simp [State.enterRetrain]
@[simp] theorem State.journalCalib_store (s : State) (p : Nat) : (State.journalCalib s p).store = s.store := by simp [State.journalCalib]
@[simp] theorem State.journalNeighbour_store (s : State) (p : Nat) : (State.journalNeighbour s p).store = s.store := by unfold State.journalNeighbour; split <;> simp
@[simp] theorem State.enterUp_store (s : State) (p : Nat) : (State.enterUp s p).store = s.store := by simp [State.enterUp]
@[simp] theorem State.train_store (s : State) (p st : Nat) : (State.train s p st).store = s.store := by simp [State.train]
@[simp] theorem State.setPowers_store (s : State) (p : Nat) (l tx : List Int) : (State.setPowers s p l tx).store = s.store := by simp [State.setPowers]
@[simp] theorem State.freeCredits_store (s : State) (p vl n : Nat) : (State.freeCredits s p vl n).store = s.store := by simp [State.freeCredits]
@[simp] theorem State.deliver_store (s : State) (p vl : Nat) (m : Message) : (State.deliver s p vl m).store = s.store := by simp [State.deliver]
@[simp] theorem State.takeFlit_store (s : State) (p : Nat) (f : Flit) : (State.takeFlit s p f).store = s.store := by unfold State.takeFlit; split <;> simp
@[simp] theorem State.takeAck_store (s : State) (p a : Nat) : (State.takeAck s p a).store = s.store := by simp [State.takeAck]
@[simp] theorem State.takeCredit_store (s : State) (p : Nat) (f : Flit) : (State.takeCredit s p f).store = s.store := by simp [State.takeCredit]
@[simp] theorem State.discardFlit_store (s : State) (p : Nat) : (State.discardFlit s p).store = s.store := by simp [State.discardFlit]
@[simp] theorem State.leaveRouter_store (s : State) (k : Nat) (w : Waiting) : (State.leaveRouter s k w).store = s.store := by unfold State.leaveRouter; split <;> simp
@[simp] theorem State.countWait_store (s : State) (k : Nat) (w : Waiting) : (State.countWait s k w).store = s.store := by simp [State.countWait]
/-- A machine whose memories are empty and whose flash devices are canonical meets the invariant. -/
theorem Store.inv_empty (x : Store) (hm : x.mem = []) (hc : x.cores = []) (h0 : Mem.wfF 0xFF x.flash0.bytes = true)
    (h1 : Mem.wfF 0xFF x.flash1.bytes = true) : x.Inv := by
  refine ⟨by rw [hm]; rfl, h0, h1, fun c => ?_⟩
  rw [hc]
  refine ⟨rfl, rfl, ?_, fun i u => ?_⟩
  · simp [tqWithin, SMap.getD]
  · simp [SMap.getD, CoreSlot.queue]
@[simp] theorem State.kept_kept (s : State) (on up : List Nat) : (s.kept on up).store.kept = s.store.kept := State.kept_mk ..
@[simp] theorem State.kept_inv (s : State) (on up : List Nat) (h : s.store.Inv) : (s.kept on up).store.Inv :=
  Store.inv_empty _ rfl rfl h.2.1 h.2.2.1
@[simp] theorem State.powerRow_store (s : State) (l : List Nat) : (State.powerRow s l).store = s.store := by simp [State.powerRow]
@[simp] theorem State.raiseOrOwe_store (s : State) (e : ErrInfo) : (State.raiseOrOwe s e).store = s.store := by simp [State.raiseOrOwe]
@[simp] theorem State.rowOneUp_store (s : State) : (State.rowOneUp s).store = s.store := by simp [State.rowOneUp]
@[simp] theorem State.startPorts_store (s : State) : (State.startPorts s).store = s.store := by simp [State.startPorts]
@[simp] theorem State.memoryStage_store (s : State) : (State.memoryStage s).store = s.store := by simp [State.memoryStage]
@[simp] theorem State.domainsStage_store (s : State) : (State.domainsStage s).store = s.store := by simp [State.domainsStage]
@[simp] theorem State.advanceStart_store (s : State) : (State.advanceStart s).store = s.store := by simp [State.advanceStart]
@[simp] theorem State.beginStart_kept (s : State) (cause : Nat) (on up : List Nat) : (s.beginStart cause on up).store.kept = s.store.kept := by
  simp [State.beginStart]
@[simp] theorem State.beginStart_inv (s : State) (cause : Nat) (on up : List Nat) (h : s.store.Inv) : (s.beginStart cause on up).store.Inv := by
  simp [State.beginStart, h]
@[simp] theorem State.tryStart_kept (s : State) : (State.tryStart s).store.kept = s.store.kept := by simp [State.tryStart]
@[simp] theorem State.tryStart_inv (s : State) (h : s.store.Inv) : (State.tryStart s).store.Inv := by simp [State.tryStart, h]
@[simp] theorem State.domainsOff_store (s : State) (l : List Nat) : (s.domainsOff l).store = s.store := State.store_foldl _ _ _ (fun t d => by simp)
@[simp] theorem State.dropMain_kept (s : State) : s.dropMain.store.kept = s.store.kept := by
  simp [State.dropMain, State.kept_mk]
@[simp] theorem State.dropMain_inv (s : State) (h : s.store.Inv) : s.dropMain.store.Inv := by
  have k : (s.domainsOff (s.start.domainsOn.filter (fun d => decide (d < 47)))).store.Inv := by rw [State.domainsOff_store]; exact h
  simp only [State.dropMain, State.refreshGuidon_store, State.clearBit_store]
  exact Store.inv_empty _ rfl rfl k.2.1 k.2.2.1
@[simp] theorem State.aoOnly_kept (s : State) : s.aoOnly.store.kept = s.store.kept := by
  simp [State.aoOnly]
@[simp] theorem State.aoOnly_inv (s : State) (h : s.store.Inv) : s.aoOnly.store.Inv := by
  simp [State.aoOnly, h]
@[simp] theorem State.failDomain_store (s : State) (d : Nat) : (State.failDomain s d).store = s.store := by simp [State.failDomain]
@[simp] theorem State.raiseDomain_store (s : State) (d : Nat) (r : RailReading) : (State.raiseDomain s d r).store = s.store := by simp [State.raiseDomain]
@[simp] theorem State.restoreLive_store (s : State) (items : List JEntry) (image : Bool) : (State.restoreLive s items image).store = s.store := by simp [State.restoreLive]
@[simp] theorem State.putBar2_kept (s : State) (off : Nat) (bs : List Byte) : (s.putBar2 off bs).store.kept = s.store.kept :=
  (State.kept_mk ..).trans (by rw [State.store_foldl _ _ _ (fun t l => by simp)])
@[simp] theorem State.putBar2_inv (s : State) (off : Nat) (bs : List Byte) (h : s.store.Inv) : (s.putBar2 off bs).store.Inv := by
  unfold State.putBar2
  extract_lets u
  have hu : u.store = s.store := State.store_foldl _ _ _ (fun t l => by simp)
  exact State.inv_mem u _ (hu ▸ h) (Memory.wf_putBytes _ _ _ (hu ▸ h).1) ..
@[simp] theorem State.inputFault_kept (s : State) : (State.inputFault s).store.kept = s.store.kept := by simp [State.inputFault]
@[simp] theorem State.inputFault_inv (s : State) (h : s.store.Inv) : (State.inputFault s).store.Inv := by simp [State.inputFault, h]
@[simp] theorem State.linkDown_store (s : State) : (State.linkDown s).store = s.store := by simp [State.linkDown]
@[simp] theorem State.selfReset_kept (s : State) : (State.selfReset s).store.kept = s.store.kept := by simp [State.selfReset]
@[simp] theorem State.selfReset_inv (s : State) (h : s.store.Inv) : (State.selfReset s).store.Inv := by simp [State.selfReset, h]
@[simp] theorem State.finishShutdown_kept (s : State) (mode status : Nat) : (s.finishShutdown mode status).store.kept = s.store.kept := by
  unfold State.finishShutdown
  (repeat' split) <;> simp +zetaDelta
@[simp] theorem State.finishShutdown_inv (s : State) (mode status : Nat) (h : s.store.Inv) : (s.finishShutdown mode status).store.Inv := by
  unfold State.finishShutdown
  (repeat' split) <;> simp (maxDischargeDepth := 9) +zetaDelta [h]
@[simp] theorem State.smbReply_store (s : State) (code : Nat) (w : List Byte) (b : Bool) (bs : List Byte) : (State.smbReply s code w b bs).store = s.store := by simp [State.smbReply]
@[simp] theorem State.smbAnswer_store (s : State) (code : Nat) (bs : List Byte) : (State.smbAnswer s code bs).store = s.store := by simp [State.smbAnswer]
@[simp] theorem State.smbNeeds48_store (s : State) (code : Nat) (ws : List Word) : (State.smbNeeds48 s code ws).store = s.store := by simp [State.smbNeeds48]
@[simp] theorem State.smbRegister_store (s : State) (off : Nat) (w : Word) : (State.smbRegister s off w).store = s.store := by simp [State.smbRegister]
@[simp] theorem State.smbHeld_store (s : State) : (State.smbHeld s).store = s.store := by simp [State.smbHeld]
@[simp] theorem State.jtagSelect_inv (s : State) (code : Nat) (f : State → State) (h : s.store.Inv)
    (hf : ∀ t : State, t.store = s.store → (f t).store.Inv) : (s.jtagSelect code f).store.Inv := by
  unfold State.jtagSelect
  split
  · exact hf _ (by simp)
  · exact h
@[simp] theorem State.jtagSelect_kept (s : State) (code : Nat) (f : State → State)
    (hf : ∀ t : State, t.store = s.store → (f t).store.kept = s.store.kept) : (s.jtagSelect code f).store.kept = s.store.kept := by
  unfold State.jtagSelect
  split
  · exact hf _ (by simp)
  · rfl
@[simp] theorem State.jtagBypass_store (s : State) : (State.jtagBypass s).store = s.store := by simp [State.jtagBypass]
@[simp] theorem State.debugRead_store (s : State) (space : DebugSpace) (off : Nat) : (State.debugRead s space off).2.store = s.store := by unfold State.debugRead; extract_lets; (repeat' split) <;> simp +zetaDelta
@[simp] theorem State.writeRing_store (s : State) (r off : Nat) (v : Word) : (State.writeRing s r off v).store = s.store := by simp [State.writeRing]
@[simp] theorem State.writeReg_kept (s : State) (off : Nat) (v : Word) : (State.writeReg s off v).store.kept = s.store.kept := by simp [State.writeReg]
@[simp] theorem State.writeReg_inv (s : State) (off : Nat) (v : Word) (h : s.store.Inv) : (State.writeReg s off v).store.Inv := by simp [State.writeReg, h]
@[simp] theorem State.setStalled_store (s : State) (x : Crossing) (on : Bool) : (State.setStalled s x on).store = s.store := by simp [State.setStalled]
@[simp] theorem State.islandDead_store (s : State) (x : Crossing) : (State.islandDead s x).store = s.store := by simp [State.islandDead]
@[simp] theorem State.partnerDead_kept (s : State) (x : Crossing) : (State.partnerDead s x).store.kept = s.store.kept := by unfold State.partnerDead; (repeat' split) <;> simp
@[simp] theorem State.partnerDead_inv (s : State) (x : Crossing) (h : s.store.Inv) : (State.partnerDead s x).store.Inv := by unfold State.partnerDead; (repeat' split) <;> simp [h]
@[simp] theorem State.flintFail_store (s : State) (point : Nat) : (State.flintFail s point).store = s.store := by simp [State.flintFail]
@[simp] theorem State.flintRun_store (s : State) (passed : Bool) : (State.flintRun s passed).store = s.store := by simp [State.flintRun]
@[simp] theorem State.flintClear_store (s : State) : (State.flintClear s).store = s.store := by simp [State.flintClear]
@[simp] theorem State.flintEnd_kept (s : State) : s.flintEnd.store.kept = s.store.kept := by
  simp [State.flintEnd, State.kept_mk]
@[simp] theorem State.flintEnd_inv (s : State) (h : s.store.Inv) : s.flintEnd.store.Inv := by
  simp only [State.flintEnd, State.flintClear_store, State.flintRun_store, State.clearBit_store]
  exact ⟨rfl, h.2⟩
@[simp] theorem State.dropRound_store (s : State) (slot : Nat) (r : Round) : (State.dropRound s slot r).store = s.store := by simp [State.dropRound]
@[simp] theorem State.putRound_store (s : State) (slot : Nat) (r : Round) : (State.putRound s slot r).store = s.store := by simp [State.putRound]
@[simp] theorem State.sendRecord_store (s : State) (slot kind dst : Nat) (r : Round) (rec_ : SMap (List Byte)) : (State.sendRecord s slot kind dst r rec_).store = s.store := by simp [State.sendRecord]
theorem State.advanceRound_inv (s : State) (slot : Nat) (r : Round) (apply : State → Round → SMap (List Byte) → State) (h : s.store.Inv)
    (hf : ∀ t r v, t.store.Inv → (apply t r v).store.Inv) : (s.advanceRound slot r apply).store.Inv := by
  unfold State.advanceRound
  split
  · simpa using h
  · extract_lets ranks lay kids
    split
    · simpa using h
    · split
      · simpa using h
      · exact hf _ _ _ (State.inv_foldl _ _ _ (by simp +zetaDelta [h]) (fun t a h => by simpa using h))
theorem State.advanceRound_kept (s : State) (slot : Nat) (r : Round) (apply : State → Round → SMap (List Byte) → State)
    (hf : ∀ t r v, (apply t r v).store.kept = t.store.kept) : (s.advanceRound slot r apply).store.kept = s.store.kept := by
  unfold State.advanceRound
  split
  · simp
  · extract_lets ranks lay kids
    split
    · simp
    · split
      · simp
      · rw [hf]
        exact (State.kept_foldl _ _ _ (fun t a => by simp)).trans (by simp +zetaDelta)
@[simp] theorem State.adoptLower_store (s : State) (slot : Nat) (r : Round) (lo : Nat) : (s.adoptLower slot r lo).1.store = s.store := by
  unfold State.adoptLower
  split <;> simp
theorem State.takeVote_inv (s : State) (m : Message) (apply : State → Round → SMap (List Byte) → State) (h : s.store.Inv)
    (hf : ∀ t r v, t.store.Inv → (apply t r v).store.Inv) : (s.takeVote m apply).store.Inv := by
  unfold State.takeVote
  extract_lets r a f r' x
  split
  · refine State.advanceRound_inv _ _ _ _ ?_ hf
    simp only [x]
    split
    · simpa using h
    · exact h
  · split
    · simpa using h
    · exact State.advanceRound_inv _ _ _ _ h hf
theorem State.takeVote_kept (s : State) (m : Message) (apply : State → Round → SMap (List Byte) → State)
    (hf : ∀ t r v, (apply t r v).store.kept = t.store.kept) : (s.takeVote m apply).store.kept = s.store.kept := by
  unfold State.takeVote
  extract_lets r a f r' x
  split
  · rw [State.advanceRound_kept _ _ _ _ hf]
    simp only [x]
    split
    · simp
    · rfl
  · split
    · simp
    · exact State.advanceRound_kept _ _ _ _ hf
theorem State.takeRoundResult_inv (s : State) (m : Message) (apply : State → Round → SMap (List Byte) → State) (h : s.store.Inv)
    (hf : ∀ t r v, t.store.Inv → (apply t r v).store.Inv) : (s.takeRoundResult m apply).store.Inv := by
  unfold State.takeRoundResult
  extract_lets r a
  split
  · exact h
  · split
    · simpa using h
    · rename_i kids t r' x _ _
      have ht : t.store.Inv := State.inv_foldl _ _ _ h (fun t a h => by simpa using h)
      clear_value t
      have hx : x.1.store.Inv := by
        simp only [x]
        split
        · simpa using ht
        · exact ht
      clear_value x
      split
      · exact hf _ _ _ (by simpa using hx)
      · simpa using hx
theorem State.takeRoundResult_kept (s : State) (m : Message) (apply : State → Round → SMap (List Byte) → State)
    (hf : ∀ t r v, (apply t r v).store.kept = t.store.kept) : (s.takeRoundResult m apply).store.kept = s.store.kept := by
  unfold State.takeRoundResult
  extract_lets r a
  split
  · rfl
  · split
    · simp
    · rename_i kids t r' x _ _
      have ht : t.store.kept = s.store.kept := State.kept_foldl _ _ _ (fun t a => by simp)
      clear_value t
      have hx : x.1.store.kept = s.store.kept := by
        simp only [x]
        split
        · simpa using ht
        · exact ht
      clear_value x
      split
      · rw [hf]
        simpa using hx
      · simpa using hx
@[simp] theorem State.writeScales_kept (s : State) (slot : Nat) : (State.writeScales s slot).store.kept = s.store.kept := by simp [State.writeScales]
@[simp] theorem State.writeScales_inv (s : State) (slot : Nat) (h : s.store.Inv) : (State.writeScales s slot).store.Inv := by simp [State.writeScales, h]
@[simp] theorem State.writeScalars_kept (s : State) (slot n : Nat) (kappa : W32) : (s.writeScalars slot n kappa).store.kept = s.store.kept :=
  State.kept_foldl _ _ _ (fun t a => by simp)
@[simp] theorem State.writeScalars_inv (s : State) (slot n : Nat) (kappa : W32) (h : s.store.Inv) : (s.writeScalars slot n kappa).store.Inv :=
  State.inv_foldl _ _ _ h (fun t a h => State.inv_updCore _ _ _ h (fun k hk => CoreState.inv_cs _ _ _ _ _ _ _ _ hk (EccMem.wf_write _ _ _ hk.1)))
@[simp] theorem State.takeStats_kept (s : State) (slot n : Nat) (t : SMap (List Byte)) : (s.takeStats slot n t).store.kept = s.store.kept := by
  simp [State.takeStats]
@[simp] theorem State.takeStats_inv (s : State) (slot n : Nat) (t : SMap (List Byte)) (h : s.store.Inv) : (s.takeStats slot n t).store.Inv := by
  simp only [State.takeStats]
  exact State.writeScalars_inv _ _ _ _ (State.writeScales_inv _ _ (by simpa using h))
@[simp] theorem State.watchEvent_store (s : State) (code slot n d5 d6 d7 : Nat) : (State.watchEvent s code slot n d5 d6 d7).store = s.store := by simp [State.watchEvent]
@[simp] theorem State.watchPair_store (s : State) (slot n : Nat) (t : SMap (List Byte)) (p i : Nat) : (State.watchPair s slot n t p i).store = s.store := by simp [State.watchPair]
@[simp] theorem State.watchRatioOf_store (s : State) (slot n : Nat) (t : SMap (List Byte)) (name i : Nat) : (State.watchRatioOf s slot n t name i).store = s.store := by simp [State.watchRatioOf]
@[simp] theorem State.watch_store (s : State) (slot n : Nat) : (State.watch s slot n).store = s.store := by simp [State.watch]
@[simp] theorem State.mirrorMismatch_store (s : State) (slot n a b : Nat) : (State.mirrorMismatch s slot n a b).store = s.store := by simp [State.mirrorMismatch]
@[simp] theorem State.compareMirror_store (s : State) (slot n : Nat) : (State.compareMirror s slot n).store = s.store := by unfold State.compareMirror; split <;> simp
@[simp] theorem State.mirrorExchange_store (s : State) (slot n : Nat) : (State.mirrorExchange s slot n).store = s.store := by simp [State.mirrorExchange]
@[simp] theorem State.denseRatios_store (s : State) (slot n : Nat) : (State.denseRatios s slot n).store = s.store := by simp [State.denseRatios]
@[simp] theorem State.oweRecords_store (s : State) (slot n : Nat) : (State.oweRecords s slot n).store = s.store := by simp [State.oweRecords]

end Sys2Proof.Machine
end

