-- ==== Sys2Proof/Laws/State.lean ====
section
/-! SUPPORT. One lemma for each field of `State` and each plain update of it, so that no proof unfolds a record update; the
reads of cores, job slots, ports and registers after their updates. -/

namespace Sys2Proof.Machine

open Sys2Proof

/-! Fields that `State.withPending` leaves alone. -/

@[simp] theorem State.withPending_freeCtr (s : State) (q : List Instr) : (s.withPending q).freeCtr = s.freeCtr := id rfl
@[simp] theorem State.withPending_out (s : State) (q : List Instr) : (s.withPending q).out = s.out := id rfl
@[simp] theorem State.withPending_regs (s : State) (q : List Instr) : (s.withPending q).regs = s.regs := id rfl
@[simp] theorem State.withPending_staged (s : State) (q : List Instr) : (s.withPending q).staged = s.staged := id rfl
@[simp] theorem State.withPending_cores (s : State) (q : List Instr) : (s.withPending q).cores = s.cores := id rfl
@[simp] theorem State.withPending_mem (s : State) (q : List Instr) : (s.withPending q).mem = s.mem := id rfl
@[simp] theorem State.withPending_memErr (s : State) (q : List Instr) : (s.withPending q).memErr = s.memErr := id rfl
@[simp] theorem State.withPending_controllers (s : State) (q : List Instr) : (s.withPending q).controllers = s.controllers := id rfl
@[simp] theorem State.withPending_slate (s : State) (q : List Instr) : (s.withPending q).slate = s.slate := id rfl
@[simp] theorem State.withPending_jobs (s : State) (q : List Instr) : (s.withPending q).jobs = s.jobs := id rfl
@[simp] theorem State.withPending_inbox (s : State) (q : List Instr) : (s.withPending q).inbox = s.inbox := id rfl
@[simp] theorem State.withPending_router (s : State) (q : List Instr) : (s.withPending q).router = s.router := id rfl
@[simp] theorem State.withPending_collectives (s : State) (q : List Instr) : (s.withPending q).collectives = s.collectives := id rfl
@[simp] theorem State.withPending_ports (s : State) (q : List Instr) : (s.withPending q).ports = s.ports := id rfl
@[simp] theorem State.withPending_lasers (s : State) (q : List Instr) : (s.withPending q).lasers = s.lasers := id rfl
@[simp] theorem State.withPending_fabric (s : State) (q : List Instr) : (s.withPending q).fabric = s.fabric := id rfl
@[simp] theorem State.withPending_link (s : State) (q : List Instr) : (s.withPending q).link = s.link := id rfl
@[simp] theorem State.withPending_flash0 (s : State) (q : List Instr) : (s.withPending q).flash0 = s.flash0 := id rfl
@[simp] theorem State.withPending_flash1 (s : State) (q : List Instr) : (s.withPending q).flash1 = s.flash1 := id rfl
@[simp] theorem State.withPending_fuses (s : State) (q : List Instr) : (s.withPending q).fuses = s.fuses := id rfl
@[simp] theorem State.withPending_image (s : State) (q : List Instr) : (s.withPending q).image = s.image := id rfl
@[simp] theorem State.withPending_cfg (s : State) (q : List Instr) : (s.withPending q).cfg = s.cfg := id rfl
@[simp] theorem State.withPending_journal (s : State) (q : List Instr) : (s.withPending q).journal = s.journal := id rfl
@[simp] theorem State.withPending_start (s : State) (q : List Instr) : (s.withPending q).start = s.start := id rfl
@[simp] theorem State.withPending_faults (s : State) (q : List Instr) : (s.withPending q).faults = s.faults := id rfl
@[simp] theorem State.withPending_pace (s : State) (q : List Instr) : (s.withPending q).pace = s.pace := id rfl
@[simp] theorem State.withPending_pins (s : State) (q : List Instr) : (s.withPending q).pins = s.pins := id rfl

/-! Fields that `State.updCore` leaves alone. -/

@[simp] theorem State.updCore_pending (s : State) (c : Nat) (f : CoreState → CoreState) : (s.updCore c f).pending = s.pending := id rfl
@[simp] theorem State.updCore_freeCtr (s : State) (c : Nat) (f : CoreState → CoreState) : (s.updCore c f).freeCtr = s.freeCtr := id rfl
@[simp] theorem State.updCore_out (s : State) (c : Nat) (f : CoreState → CoreState) : (s.updCore c f).out = s.out := id rfl
@[simp] theorem State.updCore_regs (s : State) (c : Nat) (f : CoreState → CoreState) : (s.updCore c f).regs = s.regs := id rfl
@[simp] theorem State.updCore_staged (s : State) (c : Nat) (f : CoreState → CoreState) : (s.updCore c f).staged = s.staged := id rfl
@[simp] theorem State.updCore_mem (s : State) (c : Nat) (f : CoreState → CoreState) : (s.updCore c f).mem = s.mem := id rfl
@[simp] theorem State.updCore_memErr (s : State) (c : Nat) (f : CoreState → CoreState) : (s.updCore c f).memErr = s.memErr := id rfl
@[simp] theorem State.updCore_controllers (s : State) (c : Nat) (f : CoreState → CoreState) : (s.updCore c f).controllers = s.controllers := id rfl
@[simp] theorem State.updCore_slate (s : State) (c : Nat) (f : CoreState → CoreState) : (s.updCore c f).slate = s.slate := id rfl
@[simp] theorem State.updCore_jobs (s : State) (c : Nat) (f : CoreState → CoreState) : (s.updCore c f).jobs = s.jobs := id rfl
@[simp] theorem State.updCore_inbox (s : State) (c : Nat) (f : CoreState → CoreState) : (s.updCore c f).inbox = s.inbox := id rfl
@[simp] theorem State.updCore_router (s : State) (c : Nat) (f : CoreState → CoreState) : (s.updCore c f).router = s.router := id rfl
@[simp] theorem State.updCore_collectives (s : State) (c : Nat) (f : CoreState → CoreState) : (s.updCore c f).collectives = s.collectives := id rfl
@[simp] theorem State.updCore_ports (s : State) (c : Nat) (f : CoreState → CoreState) : (s.updCore c f).ports = s.ports := id rfl
@[simp] theorem State.updCore_lasers (s : State) (c : Nat) (f : CoreState → CoreState) : (s.updCore c f).lasers = s.lasers := id rfl
@[simp] theorem State.updCore_fabric (s : State) (c : Nat) (f : CoreState → CoreState) : (s.updCore c f).fabric = s.fabric := id rfl
@[simp] theorem State.updCore_link (s : State) (c : Nat) (f : CoreState → CoreState) : (s.updCore c f).link = s.link := id rfl
@[simp] theorem State.updCore_flash0 (s : State) (c : Nat) (f : CoreState → CoreState) : (s.updCore c f).flash0 = s.flash0 := id rfl
@[simp] theorem State.updCore_flash1 (s : State) (c : Nat) (f : CoreState → CoreState) : (s.updCore c f).flash1 = s.flash1 := id rfl
@[simp] theorem State.updCore_fuses (s : State) (c : Nat) (f : CoreState → CoreState) : (s.updCore c f).fuses = s.fuses := id rfl
@[simp] theorem State.updCore_image (s : State) (c : Nat) (f : CoreState → CoreState) : (s.updCore c f).image = s.image := id rfl
@[simp] theorem State.updCore_cfg (s : State) (c : Nat) (f : CoreState → CoreState) : (s.updCore c f).cfg = s.cfg := id rfl
@[simp] theorem State.updCore_journal (s : State) (c : Nat) (f : CoreState → CoreState) : (s.updCore c f).journal = s.journal := id rfl
@[simp] theorem State.updCore_start (s : State) (c : Nat) (f : CoreState → CoreState) : (s.updCore c f).start = s.start := id rfl
@[simp] theorem State.updCore_faults (s : State) (c : Nat) (f : CoreState → CoreState) : (s.updCore c f).faults = s.faults := id rfl
@[simp] theorem State.updCore_pace (s : State) (c : Nat) (f : CoreState → CoreState) : (s.updCore c f).pace = s.pace := id rfl
@[simp] theorem State.updCore_pins (s : State) (c : Nat) (f : CoreState → CoreState) : (s.updCore c f).pins = s.pins := id rfl

/-! Fields that `State.updJob` leaves alone. -/

@[simp] theorem State.updJob_pending (s : State) (i : Nat) (f : JobSlot → JobSlot) : (s.updJob i f).pending = s.pending := id rfl
@[simp] theorem State.updJob_freeCtr (s : State) (i : Nat) (f : JobSlot → JobSlot) : (s.updJob i f).freeCtr = s.freeCtr := id rfl
@[simp] theorem State.updJob_out (s : State) (i : Nat) (f : JobSlot → JobSlot) : (s.updJob i f).out = s.out := id rfl
@[simp] theorem State.updJob_regs (s : State) (i : Nat) (f : JobSlot → JobSlot) : (s.updJob i f).regs = s.regs := id rfl
@[simp] theorem State.updJob_staged (s : State) (i : Nat) (f : JobSlot → JobSlot) : (s.updJob i f).staged = s.staged := id rfl
@[simp] theorem State.updJob_cores (s : State) (i : Nat) (f : JobSlot → JobSlot) : (s.updJob i f).cores = s.cores := id rfl
@[simp] theorem State.updJob_mem (s : State) (i : Nat) (f : JobSlot → JobSlot) : (s.updJob i f).mem = s.mem := id rfl
@[simp] theorem State.updJob_memErr (s : State) (i : Nat) (f : JobSlot → JobSlot) : (s.updJob i f).memErr = s.memErr := id rfl
@[simp] theorem State.updJob_controllers (s : State) (i : Nat) (f : JobSlot → JobSlot) : (s.updJob i f).controllers = s.controllers := id rfl
@[simp] theorem State.updJob_slate (s : State) (i : Nat) (f : JobSlot → JobSlot) : (s.updJob i f).slate = s.slate := id rfl
@[simp] theorem State.updJob_inbox (s : State) (i : Nat) (f : JobSlot → JobSlot) : (s.updJob i f).inbox = s.inbox := id rfl
@[simp] theorem State.updJob_router (s : State) (i : Nat) (f : JobSlot → JobSlot) : (s.updJob i f).router = s.router := id rfl
@[simp] theorem State.updJob_collectives (s : State) (i : Nat) (f : JobSlot → JobSlot) : (s.updJob i f).collectives = s.collectives := id rfl
@[simp] theorem State.updJob_ports (s : State) (i : Nat) (f : JobSlot → JobSlot) : (s.updJob i f).ports = s.ports := id rfl
@[simp] theorem State.updJob_lasers (s : State) (i : Nat) (f : JobSlot → JobSlot) : (s.updJob i f).lasers = s.lasers := id rfl
@[simp] theorem State.updJob_fabric (s : State) (i : Nat) (f : JobSlot → JobSlot) : (s.updJob i f).fabric = s.fabric := id rfl
@[simp] theorem State.updJob_link (s : State) (i : Nat) (f : JobSlot → JobSlot) : (s.updJob i f).link = s.link := id rfl
@[simp] theorem State.updJob_flash0 (s : State) (i : Nat) (f : JobSlot → JobSlot) : (s.updJob i f).flash0 = s.flash0 := id rfl
@[simp] theorem State.updJob_flash1 (s : State) (i : Nat) (f : JobSlot → JobSlot) : (s.updJob i f).flash1 = s.flash1 := id rfl
@[simp] theorem State.updJob_fuses (s : State) (i : Nat) (f : JobSlot → JobSlot) : (s.updJob i f).fuses = s.fuses := id rfl
@[simp] theorem State.updJob_image (s : State) (i : Nat) (f : JobSlot → JobSlot) : (s.updJob i f).image = s.image := id rfl
@[simp] theorem State.updJob_cfg (s : State) (i : Nat) (f : JobSlot → JobSlot) : (s.updJob i f).cfg = s.cfg := id rfl
@[simp] theorem State.updJob_journal (s : State) (i : Nat) (f : JobSlot → JobSlot) : (s.updJob i f).journal = s.journal := id rfl
@[simp] theorem State.updJob_start (s : State) (i : Nat) (f : JobSlot → JobSlot) : (s.updJob i f).start = s.start := id rfl
@[simp] theorem State.updJob_faults (s : State) (i : Nat) (f : JobSlot → JobSlot) : (s.updJob i f).faults = s.faults := id rfl
@[simp] theorem State.updJob_pace (s : State) (i : Nat) (f : JobSlot → JobSlot) : (s.updJob i f).pace = s.pace := id rfl
@[simp] theorem State.updJob_pins (s : State) (i : Nat) (f : JobSlot → JobSlot) : (s.updJob i f).pins = s.pins := id rfl

/-! Fields that `State.updPort` leaves alone. -/

@[simp] theorem State.updPort_pending (s : State) (p : Nat) (f : Port → Port) : (s.updPort p f).pending = s.pending := id rfl
@[simp] theorem State.updPort_freeCtr (s : State) (p : Nat) (f : Port → Port) : (s.updPort p f).freeCtr = s.freeCtr := id rfl
@[simp] theorem State.updPort_out (s : State) (p : Nat) (f : Port → Port) : (s.updPort p f).out = s.out := id rfl
@[simp] theorem State.updPort_regs (s : State) (p : Nat) (f : Port → Port) : (s.updPort p f).regs = s.regs := id rfl
@[simp] theorem State.updPort_staged (s : State) (p : Nat) (f : Port → Port) : (s.updPort p f).staged = s.staged := id rfl
@[simp] theorem State.updPort_cores (s : State) (p : Nat) (f : Port → Port) : (s.updPort p f).cores = s.cores := id rfl
@[simp] theorem State.updPort_mem (s : State) (p : Nat) (f : Port → Port) : (s.updPort p f).mem = s.mem := id rfl
@[simp] theorem State.updPort_memErr (s : State) (p : Nat) (f : Port → Port) : (s.updPort p f).memErr = s.memErr := id rfl
@[simp] theorem State.updPort_controllers (s : State) (p : Nat) (f : Port → Port) : (s.updPort p f).controllers = s.controllers := id rfl
@[simp] theorem State.updPort_slate (s : State) (p : Nat) (f : Port → Port) : (s.updPort p f).slate = s.slate := id rfl
@[simp] theorem State.updPort_jobs (s : State) (p : Nat) (f : Port → Port) : (s.updPort p f).jobs = s.jobs := id rfl
@[simp] theorem State.updPort_inbox (s : State) (p : Nat) (f : Port → Port) : (s.updPort p f).inbox = s.inbox := id rfl
@[simp] theorem State.updPort_router (s : State) (p : Nat) (f : Port → Port) : (s.updPort p f).router = s.router := id rfl
@[simp] theorem State.updPort_collectives (s : State) (p : Nat) (f : Port → Port) : (s.updPort p f).collectives = s.collectives := id rfl
@[simp] theorem State.updPort_lasers (s : State) (p : Nat) (f : Port → Port) : (s.updPort p f).lasers = s.lasers := id rfl
@[simp] theorem State.updPort_fabric (s : State) (p : Nat) (f : Port → Port) : (s.updPort p f).fabric = s.fabric := id rfl
@[simp] theorem State.updPort_link (s : State) (p : Nat) (f : Port → Port) : (s.updPort p f).link = s.link := id rfl
@[simp] theorem State.updPort_flash0 (s : State) (p : Nat) (f : Port → Port) : (s.updPort p f).flash0 = s.flash0 := id rfl
@[simp] theorem State.updPort_flash1 (s : State) (p : Nat) (f : Port → Port) : (s.updPort p f).flash1 = s.flash1 := id rfl
@[simp] theorem State.updPort_fuses (s : State) (p : Nat) (f : Port → Port) : (s.updPort p f).fuses = s.fuses := id rfl
@[simp] theorem State.updPort_image (s : State) (p : Nat) (f : Port → Port) : (s.updPort p f).image = s.image := id rfl
@[simp] theorem State.updPort_cfg (s : State) (p : Nat) (f : Port → Port) : (s.updPort p f).cfg = s.cfg := id rfl
@[simp] theorem State.updPort_journal (s : State) (p : Nat) (f : Port → Port) : (s.updPort p f).journal = s.journal := id rfl
@[simp] theorem State.updPort_start (s : State) (p : Nat) (f : Port → Port) : (s.updPort p f).start = s.start := id rfl
@[simp] theorem State.updPort_faults (s : State) (p : Nat) (f : Port → Port) : (s.updPort p f).faults = s.faults := id rfl
@[simp] theorem State.updPort_pace (s : State) (p : Nat) (f : Port → Port) : (s.updPort p f).pace = s.pace := id rfl
@[simp] theorem State.updPort_pins (s : State) (p : Nat) (f : Port → Port) : (s.updPort p f).pins = s.pins := id rfl

/-! Fields that `State.updMc` leaves alone. -/

@[simp] theorem State.updMc_pending (s : State) (p : Nat) (f : MemController → MemController) : (s.updMc p f).pending = s.pending := id rfl
@[simp] theorem State.updMc_freeCtr (s : State) (p : Nat) (f : MemController → MemController) : (s.updMc p f).freeCtr = s.freeCtr := id rfl
@[simp] theorem State.updMc_out (s : State) (p : Nat) (f : MemController → MemController) : (s.updMc p f).out = s.out := id rfl
@[simp] theorem State.updMc_regs (s : State) (p : Nat) (f : MemController → MemController) : (s.updMc p f).regs = s.regs := id rfl
@[simp] theorem State.updMc_staged (s : State) (p : Nat) (f : MemController → MemController) : (s.updMc p f).staged = s.staged := id rfl
@[simp] theorem State.updMc_cores (s : State) (p : Nat) (f : MemController → MemController) : (s.updMc p f).cores = s.cores := id rfl
@[simp] theorem State.updMc_mem (s : State) (p : Nat) (f : MemController → MemController) : (s.updMc p f).mem = s.mem := id rfl
@[simp] theorem State.updMc_memErr (s : State) (p : Nat) (f : MemController → MemController) : (s.updMc p f).memErr = s.memErr := id rfl
@[simp] theorem State.updMc_slate (s : State) (p : Nat) (f : MemController → MemController) : (s.updMc p f).slate = s.slate := id rfl
@[simp] theorem State.updMc_jobs (s : State) (p : Nat) (f : MemController → MemController) : (s.updMc p f).jobs = s.jobs := id rfl
@[simp] theorem State.updMc_inbox (s : State) (p : Nat) (f : MemController → MemController) : (s.updMc p f).inbox = s.inbox := id rfl
@[simp] theorem State.updMc_router (s : State) (p : Nat) (f : MemController → MemController) : (s.updMc p f).router = s.router := id rfl
@[simp] theorem State.updMc_collectives (s : State) (p : Nat) (f : MemController → MemController) : (s.updMc p f).collectives = s.collectives := id rfl
@[simp] theorem State.updMc_ports (s : State) (p : Nat) (f : MemController → MemController) : (s.updMc p f).ports = s.ports := id rfl
@[simp] theorem State.updMc_lasers (s : State) (p : Nat) (f : MemController → MemController) : (s.updMc p f).lasers = s.lasers := id rfl
@[simp] theorem State.updMc_fabric (s : State) (p : Nat) (f : MemController → MemController) : (s.updMc p f).fabric = s.fabric := id rfl
@[simp] theorem State.updMc_link (s : State) (p : Nat) (f : MemController → MemController) : (s.updMc p f).link = s.link := id rfl
@[simp] theorem State.updMc_flash0 (s : State) (p : Nat) (f : MemController → MemController) : (s.updMc p f).flash0 = s.flash0 := id rfl
@[simp] theorem State.updMc_flash1 (s : State) (p : Nat) (f : MemController → MemController) : (s.updMc p f).flash1 = s.flash1 := id rfl
@[simp] theorem State.updMc_fuses (s : State) (p : Nat) (f : MemController → MemController) : (s.updMc p f).fuses = s.fuses := id rfl
@[simp] theorem State.updMc_image (s : State) (p : Nat) (f : MemController → MemController) : (s.updMc p f).image = s.image := id rfl
@[simp] theorem State.updMc_cfg (s : State) (p : Nat) (f : MemController → MemController) : (s.updMc p f).cfg = s.cfg := id rfl
@[simp] theorem State.updMc_journal (s : State) (p : Nat) (f : MemController → MemController) : (s.updMc p f).journal = s.journal := id rfl
@[simp] theorem State.updMc_start (s : State) (p : Nat) (f : MemController → MemController) : (s.updMc p f).start = s.start := id rfl
@[simp] theorem State.updMc_faults (s : State) (p : Nat) (f : MemController → MemController) : (s.updMc p f).faults = s.faults := id rfl
@[simp] theorem State.updMc_pace (s : State) (p : Nat) (f : MemController → MemController) : (s.updMc p f).pace = s.pace := id rfl
@[simp] theorem State.updMc_pins (s : State) (p : Nat) (f : MemController → MemController) : (s.updMc p f).pins = s.pins := id rfl

/-! Fields that `State.updRing` leaves alone. -/

@[simp] theorem State.updRing_pending (s : State) (r : Nat) (f : Ring → Ring) : (s.updRing r f).pending = s.pending := id rfl
@[simp] theorem State.updRing_freeCtr (s : State) (r : Nat) (f : Ring → Ring) : (s.updRing r f).freeCtr = s.freeCtr := id rfl
@[simp] theorem State.updRing_out (s : State) (r : Nat) (f : Ring → Ring) : (s.updRing r f).out = s.out := id rfl
@[simp] theorem State.updRing_regs (s : State) (r : Nat) (f : Ring → Ring) : (s.updRing r f).regs = s.regs := id rfl
@[simp] theorem State.updRing_staged (s : State) (r : Nat) (f : Ring → Ring) : (s.updRing r f).staged = s.staged := id rfl
@[simp] theorem State.updRing_cores (s : State) (r : Nat) (f : Ring → Ring) : (s.updRing r f).cores = s.cores := id rfl
@[simp] theorem State.updRing_mem (s : State) (r : Nat) (f : Ring → Ring) : (s.updRing r f).mem = s.mem := id rfl
@[simp] theorem State.updRing_memErr (s : State) (r : Nat) (f : Ring → Ring) : (s.updRing r f).memErr = s.memErr := id rfl
@[simp] theorem State.updRing_controllers (s : State) (r : Nat) (f : Ring → Ring) : (s.updRing r f).controllers = s.controllers := id rfl
@[simp] theorem State.updRing_slate (s : State) (r : Nat) (f : Ring → Ring) : (s.updRing r f).slate = s.slate := id rfl
@[simp] theorem State.updRing_jobs (s : State) (r : Nat) (f : Ring → Ring) : (s.updRing r f).jobs = s.jobs := id rfl
@[simp] theorem State.updRing_inbox (s : State) (r : Nat) (f : Ring → Ring) : (s.updRing r f).inbox = s.inbox := id rfl
@[simp] theorem State.updRing_router (s : State) (r : Nat) (f : Ring → Ring) : (s.updRing r f).router = s.router := id rfl
@[simp] theorem State.updRing_collectives (s : State) (r : Nat) (f : Ring → Ring) : (s.updRing r f).collectives = s.collectives := id rfl
@[simp] theorem State.updRing_ports (s : State) (r : Nat) (f : Ring → Ring) : (s.updRing r f).ports = s.ports := id rfl
@[simp] theorem State.updRing_lasers (s : State) (r : Nat) (f : Ring → Ring) : (s.updRing r f).lasers = s.lasers := id rfl
@[simp] theorem State.updRing_fabric (s : State) (r : Nat) (f : Ring → Ring) : (s.updRing r f).fabric = s.fabric := id rfl
@[simp] theorem State.updRing_flash0 (s : State) (r : Nat) (f : Ring → Ring) : (s.updRing r f).flash0 = s.flash0 := id rfl
@[simp] theorem State.updRing_flash1 (s : State) (r : Nat) (f : Ring → Ring) : (s.updRing r f).flash1 = s.flash1 := id rfl
@[simp] theorem State.updRing_fuses (s : State) (r : Nat) (f : Ring → Ring) : (s.updRing r f).fuses = s.fuses := id rfl
@[simp] theorem State.updRing_image (s : State) (r : Nat) (f : Ring → Ring) : (s.updRing r f).image = s.image := id rfl
@[simp] theorem State.updRing_cfg (s : State) (r : Nat) (f : Ring → Ring) : (s.updRing r f).cfg = s.cfg := id rfl
@[simp] theorem State.updRing_journal (s : State) (r : Nat) (f : Ring → Ring) : (s.updRing r f).journal = s.journal := id rfl
@[simp] theorem State.updRing_start (s : State) (r : Nat) (f : Ring → Ring) : (s.updRing r f).start = s.start := id rfl
@[simp] theorem State.updRing_faults (s : State) (r : Nat) (f : Ring → Ring) : (s.updRing r f).faults = s.faults := id rfl
@[simp] theorem State.updRing_pace (s : State) (r : Nat) (f : Ring → Ring) : (s.updRing r f).pace = s.pace := id rfl
@[simp] theorem State.updRing_pins (s : State) (r : Nat) (f : Ring → Ring) : (s.updRing r f).pins = s.pins := id rfl

/-! Fields that `State.emit` leaves alone. -/

@[simp] theorem State.emit_pending (s : State) (e : OutEvent) : (s.emit e).pending = s.pending := id rfl
@[simp] theorem State.emit_freeCtr (s : State) (e : OutEvent) : (s.emit e).freeCtr = s.freeCtr := id rfl
@[simp] theorem State.emit_regs (s : State) (e : OutEvent) : (s.emit e).regs = s.regs := id rfl
@[simp] theorem State.emit_staged (s : State) (e : OutEvent) : (s.emit e).staged = s.staged := id rfl
@[simp] theorem State.emit_cores (s : State) (e : OutEvent) : (s.emit e).cores = s.cores := id rfl
@[simp] theorem State.emit_mem (s : State) (e : OutEvent) : (s.emit e).mem = s.mem := id rfl
@[simp] theorem State.emit_memErr (s : State) (e : OutEvent) : (s.emit e).memErr = s.memErr := id rfl
@[simp] theorem State.emit_controllers (s : State) (e : OutEvent) : (s.emit e).controllers = s.controllers := id rfl
@[simp] theorem State.emit_slate (s : State) (e : OutEvent) : (s.emit e).slate = s.slate := id rfl
@[simp] theorem State.emit_jobs (s : State) (e : OutEvent) : (s.emit e).jobs = s.jobs := id rfl
@[simp] theorem State.emit_inbox (s : State) (e : OutEvent) : (s.emit e).inbox = s.inbox := id rfl
@[simp] theorem State.emit_router (s : State) (e : OutEvent) : (s.emit e).router = s.router := id rfl
@[simp] theorem State.emit_collectives (s : State) (e : OutEvent) : (s.emit e).collectives = s.collectives := id rfl
@[simp] theorem State.emit_ports (s : State) (e : OutEvent) : (s.emit e).ports = s.ports := id rfl
@[simp] theorem State.emit_lasers (s : State) (e : OutEvent) : (s.emit e).lasers = s.lasers := id rfl
@[simp] theorem State.emit_fabric (s : State) (e : OutEvent) : (s.emit e).fabric = s.fabric := id rfl
@[simp] theorem State.emit_link (s : State) (e : OutEvent) : (s.emit e).link = s.link := id rfl
@[simp] theorem State.emit_flash0 (s : State) (e : OutEvent) : (s.emit e).flash0 = s.flash0 := id rfl
@[simp] theorem State.emit_flash1 (s : State) (e : OutEvent) : (s.emit e).flash1 = s.flash1 := id rfl
@[simp] theorem State.emit_fuses (s : State) (e : OutEvent) : (s.emit e).fuses = s.fuses := id rfl
@[simp] theorem State.emit_image (s : State) (e : OutEvent) : (s.emit e).image = s.image := id rfl
@[simp] theorem State.emit_cfg (s : State) (e : OutEvent) : (s.emit e).cfg = s.cfg := id rfl
@[simp] theorem State.emit_journal (s : State) (e : OutEvent) : (s.emit e).journal = s.journal := id rfl
@[simp] theorem State.emit_start (s : State) (e : OutEvent) : (s.emit e).start = s.start := id rfl
@[simp] theorem State.emit_faults (s : State) (e : OutEvent) : (s.emit e).faults = s.faults := id rfl
@[simp] theorem State.emit_pace (s : State) (e : OutEvent) : (s.emit e).pace = s.pace := id rfl
@[simp] theorem State.emit_pins (s : State) (e : OutEvent) : (s.emit e).pins = s.pins := id rfl

/-! Fields that `State.setReg` leaves alone. -/

@[simp] theorem State.setReg_pending (s : State) (o : Nat) (v : Word) : (s.setReg o v).pending = s.pending := id rfl
@[simp] theorem State.setReg_freeCtr (s : State) (o : Nat) (v : Word) : (s.setReg o v).freeCtr = s.freeCtr := id rfl
@[simp] theorem State.setReg_out (s : State) (o : Nat) (v : Word) : (s.setReg o v).out = s.out := id rfl
@[simp] theorem State.setReg_staged (s : State) (o : Nat) (v : Word) : (s.setReg o v).staged = s.staged := id rfl
@[simp] theorem State.setReg_cores (s : State) (o : Nat) (v : Word) : (s.setReg o v).cores = s.cores := id rfl
@[simp] theorem State.setReg_mem (s : State) (o : Nat) (v : Word) : (s.setReg o v).mem = s.mem := id rfl
@[simp] theorem State.setReg_memErr (s : State) (o : Nat) (v : Word) : (s.setReg o v).memErr = s.memErr := id rfl
@[simp] theorem State.setReg_controllers (s : State) (o : Nat) (v : Word) : (s.setReg o v).controllers = s.controllers := id rfl
@[simp] theorem State.setReg_slate (s : State) (o : Nat) (v : Word) : (s.setReg o v).slate = s.slate := id rfl
@[simp] theorem State.setReg_jobs (s : State) (o : Nat) (v : Word) : (s.setReg o v).jobs = s.jobs := id rfl
@[simp] theorem State.setReg_inbox (s : State) (o : Nat) (v : Word) : (s.setReg o v).inbox = s.inbox := id rfl
@[simp] theorem State.setReg_router (s : State) (o : Nat) (v : Word) : (s.setReg o v).router = s.router := id rfl
@[simp] theorem State.setReg_collectives (s : State) (o : Nat) (v : Word) : (s.setReg o v).collectives = s.collectives := id rfl
@[simp] theorem State.setReg_ports (s : State) (o : Nat) (v : Word) : (s.setReg o v).ports = s.ports := id rfl
@[simp] theorem State.setReg_lasers (s : State) (o : Nat) (v : Word) : (s.setReg o v).lasers = s.lasers := id rfl
@[simp] theorem State.setReg_fabric (s : State) (o : Nat) (v : Word) : (s.setReg o v).fabric = s.fabric := id rfl
@[simp] theorem State.setReg_link (s : State) (o : Nat) (v : Word) : (s.setReg o v).link = s.link := id rfl
@[simp] theorem State.setReg_flash0 (s : State) (o : Nat) (v : Word) : (s.setReg o v).flash0 = s.flash0 := id rfl
@[simp] theorem State.setReg_flash1 (s : State) (o : Nat) (v : Word) : (s.setReg o v).flash1 = s.flash1 := id rfl
@[simp] theorem State.setReg_fuses (s : State) (o : Nat) (v : Word) : (s.setReg o v).fuses = s.fuses := id rfl
@[simp] theorem State.setReg_image (s : State) (o : Nat) (v : Word) : (s.setReg o v).image = s.image := id rfl
@[simp] theorem State.setReg_cfg (s : State) (o : Nat) (v : Word) : (s.setReg o v).cfg = s.cfg := id rfl
@[simp] theorem State.setReg_journal (s : State) (o : Nat) (v : Word) : (s.setReg o v).journal = s.journal := id rfl
@[simp] theorem State.setReg_start (s : State) (o : Nat) (v : Word) : (s.setReg o v).start = s.start := id rfl
@[simp] theorem State.setReg_faults (s : State) (o : Nat) (v : Word) : (s.setReg o v).faults = s.faults := id rfl
@[simp] theorem State.setReg_pace (s : State) (o : Nat) (v : Word) : (s.setReg o v).pace = s.pace := id rfl
@[simp] theorem State.setReg_pins (s : State) (o : Nat) (v : Word) : (s.setReg o v).pins = s.pins := id rfl

/-! Fields that `State.setFld` leaves alone. -/

@[simp] theorem State.setFld_pending (s : State) (o h l v : Nat) : (s.setFld o h l v).pending = s.pending := id rfl
@[simp] theorem State.setFld_freeCtr (s : State) (o h l v : Nat) : (s.setFld o h l v).freeCtr = s.freeCtr := id rfl
@[simp] theorem State.setFld_out (s : State) (o h l v : Nat) : (s.setFld o h l v).out = s.out := id rfl
@[simp] theorem State.setFld_staged (s : State) (o h l v : Nat) : (s.setFld o h l v).staged = s.staged := id rfl
@[simp] theorem State.setFld_cores (s : State) (o h l v : Nat) : (s.setFld o h l v).cores = s.cores := id rfl
@[simp] theorem State.setFld_mem (s : State) (o h l v : Nat) : (s.setFld o h l v).mem = s.mem := id rfl
@[simp] theorem State.setFld_memErr (s : State) (o h l v : Nat) : (s.setFld o h l v).memErr = s.memErr := id rfl
@[simp] theorem State.setFld_controllers (s : State) (o h l v : Nat) : (s.setFld o h l v).controllers = s.controllers := id rfl
@[simp] theorem State.setFld_slate (s : State) (o h l v : Nat) : (s.setFld o h l v).slate = s.slate := id rfl
@[simp] theorem State.setFld_jobs (s : State) (o h l v : Nat) : (s.setFld o h l v).jobs = s.jobs := id rfl
@[simp] theorem State.setFld_inbox (s : State) (o h l v : Nat) : (s.setFld o h l v).inbox = s.inbox := id rfl
@[simp] theorem State.setFld_router (s : State) (o h l v : Nat) : (s.setFld o h l v).router = s.router := id rfl
@[simp] theorem State.setFld_collectives (s : State) (o h l v : Nat) : (s.setFld o h l v).collectives = s.collectives := id rfl
@[simp] theorem State.setFld_ports (s : State) (o h l v : Nat) : (s.setFld o h l v).ports = s.ports := id rfl
@[simp] theorem State.setFld_lasers (s : State) (o h l v : Nat) : (s.setFld o h l v).lasers = s.lasers := id rfl
@[simp] theorem State.setFld_fabric (s : State) (o h l v : Nat) : (s.setFld o h l v).fabric = s.fabric := id rfl
@[simp] theorem State.setFld_link (s : State) (o h l v : Nat) : (s.setFld o h l v).link = s.link := id rfl
@[simp] theorem State.setFld_flash0 (s : State) (o h l v : Nat) : (s.setFld o h l v).flash0 = s.flash0 := id rfl
@[simp] theorem State.setFld_flash1 (s : State) (o h l v : Nat) : (s.setFld o h l v).flash1 = s.flash1 := id rfl
@[simp] theorem State.setFld_fuses (s : State) (o h l v : Nat) : (s.setFld o h l v).fuses = s.fuses := id rfl
@[simp] theorem State.setFld_image (s : State) (o h l v : Nat) : (s.setFld o h l v).image = s.image := id rfl
@[simp] theorem State.setFld_cfg (s : State) (o h l v : Nat) : (s.setFld o h l v).cfg = s.cfg := id rfl
@[simp] theorem State.setFld_journal (s : State) (o h l v : Nat) : (s.setFld o h l v).journal = s.journal := id rfl
@[simp] theorem State.setFld_start (s : State) (o h l v : Nat) : (s.setFld o h l v).start = s.start := id rfl
@[simp] theorem State.setFld_faults (s : State) (o h l v : Nat) : (s.setFld o h l v).faults = s.faults := id rfl
@[simp] theorem State.setFld_pace (s : State) (o h l v : Nat) : (s.setFld o h l v).pace = s.pace := id rfl
@[simp] theorem State.setFld_pins (s : State) (o h l v : Nat) : (s.setFld o h l v).pins = s.pins := id rfl

/-! Fields that `State.setBit` leaves alone. -/

@[simp] theorem State.setBit_pending (s : State) (o b : Nat) : (s.setBit o b).pending = s.pending := id rfl
@[simp] theorem State.setBit_freeCtr (s : State) (o b : Nat) : (s.setBit o b).freeCtr = s.freeCtr := id rfl
@[simp] theorem State.setBit_out (s : State) (o b : Nat) : (s.setBit o b).out = s.out := id rfl
@[simp] theorem State.setBit_staged (s : State) (o b : Nat) : (s.setBit o b).staged = s.staged := id rfl
@[simp] theorem State.setBit_cores (s : State) (o b : Nat) : (s.setBit o b).cores = s.cores := id rfl
@[simp] theorem State.setBit_mem (s : State) (o b : Nat) : (s.setBit o b).mem = s.mem := id rfl
@[simp] theorem State.setBit_memErr (s : State) (o b : Nat) : (s.setBit o b).memErr = s.memErr := id rfl
@[simp] theorem State.setBit_controllers (s : State) (o b : Nat) : (s.setBit o b).controllers = s.controllers := id rfl
@[simp] theorem State.setBit_slate (s : State) (o b : Nat) : (s.setBit o b).slate = s.slate := id rfl
@[simp] theorem State.setBit_jobs (s : State) (o b : Nat) : (s.setBit o b).jobs = s.jobs := id rfl
@[simp] theorem State.setBit_inbox (s : State) (o b : Nat) : (s.setBit o b).inbox = s.inbox := id rfl
@[simp] theorem State.setBit_router (s : State) (o b : Nat) : (s.setBit o b).router = s.router := id rfl
@[simp] theorem State.setBit_collectives (s : State) (o b : Nat) : (s.setBit o b).collectives = s.collectives := id rfl
@[simp] theorem State.setBit_ports (s : State) (o b : Nat) : (s.setBit o b).ports = s.ports := id rfl
@[simp] theorem State.setBit_lasers (s : State) (o b : Nat) : (s.setBit o b).lasers = s.lasers := id rfl
@[simp] theorem State.setBit_fabric (s : State) (o b : Nat) : (s.setBit o b).fabric = s.fabric := id rfl
@[simp] theorem State.setBit_link (s : State) (o b : Nat) : (s.setBit o b).link = s.link := id rfl
@[simp] theorem State.setBit_flash0 (s : State) (o b : Nat) : (s.setBit o b).flash0 = s.flash0 := id rfl
@[simp] theorem State.setBit_flash1 (s : State) (o b : Nat) : (s.setBit o b).flash1 = s.flash1 := id rfl
@[simp] theorem State.setBit_fuses (s : State) (o b : Nat) : (s.setBit o b).fuses = s.fuses := id rfl
@[simp] theorem State.setBit_image (s : State) (o b : Nat) : (s.setBit o b).image = s.image := id rfl
@[simp] theorem State.setBit_cfg (s : State) (o b : Nat) : (s.setBit o b).cfg = s.cfg := id rfl
@[simp] theorem State.setBit_journal (s : State) (o b : Nat) : (s.setBit o b).journal = s.journal := id rfl
@[simp] theorem State.setBit_start (s : State) (o b : Nat) : (s.setBit o b).start = s.start := id rfl
@[simp] theorem State.setBit_faults (s : State) (o b : Nat) : (s.setBit o b).faults = s.faults := id rfl
@[simp] theorem State.setBit_pace (s : State) (o b : Nat) : (s.setBit o b).pace = s.pace := id rfl
@[simp] theorem State.setBit_pins (s : State) (o b : Nat) : (s.setBit o b).pins = s.pins := id rfl

/-! Fields that `State.clearBit` leaves alone. -/

@[simp] theorem State.clearBit_pending (s : State) (o b : Nat) : (s.clearBit o b).pending = s.pending := id rfl
@[simp] theorem State.clearBit_freeCtr (s : State) (o b : Nat) : (s.clearBit o b).freeCtr = s.freeCtr := id rfl
@[simp] theorem State.clearBit_out (s : State) (o b : Nat) : (s.clearBit o b).out = s.out := id rfl
@[simp] theorem State.clearBit_staged (s : State) (o b : Nat) : (s.clearBit o b).staged = s.staged := id rfl
@[simp] theorem State.clearBit_cores (s : State) (o b : Nat) : (s.clearBit o b).cores = s.cores := id rfl
@[simp] theorem State.clearBit_mem (s : State) (o b : Nat) : (s.clearBit o b).mem = s.mem := id rfl
@[simp] theorem State.clearBit_memErr (s : State) (o b : Nat) : (s.clearBit o b).memErr = s.memErr := id rfl
@[simp] theorem State.clearBit_controllers (s : State) (o b : Nat) : (s.clearBit o b).controllers = s.controllers := id rfl
@[simp] theorem State.clearBit_slate (s : State) (o b : Nat) : (s.clearBit o b).slate = s.slate := id rfl
@[simp] theorem State.clearBit_jobs (s : State) (o b : Nat) : (s.clearBit o b).jobs = s.jobs := id rfl
@[simp] theorem State.clearBit_inbox (s : State) (o b : Nat) : (s.clearBit o b).inbox = s.inbox := id rfl
@[simp] theorem State.clearBit_router (s : State) (o b : Nat) : (s.clearBit o b).router = s.router := id rfl
@[simp] theorem State.clearBit_collectives (s : State) (o b : Nat) : (s.clearBit o b).collectives = s.collectives := id rfl
@[simp] theorem State.clearBit_ports (s : State) (o b : Nat) : (s.clearBit o b).ports = s.ports := id rfl
@[simp] theorem State.clearBit_lasers (s : State) (o b : Nat) : (s.clearBit o b).lasers = s.lasers := id rfl
@[simp] theorem State.clearBit_fabric (s : State) (o b : Nat) : (s.clearBit o b).fabric = s.fabric := id rfl
@[simp] theorem State.clearBit_link (s : State) (o b : Nat) : (s.clearBit o b).link = s.link := id rfl
@[simp] theorem State.clearBit_flash0 (s : State) (o b : Nat) : (s.clearBit o b).flash0 = s.flash0 := id rfl
@[simp] theorem State.clearBit_flash1 (s : State) (o b : Nat) : (s.clearBit o b).flash1 = s.flash1 := id rfl
@[simp] theorem State.clearBit_fuses (s : State) (o b : Nat) : (s.clearBit o b).fuses = s.fuses := id rfl
@[simp] theorem State.clearBit_image (s : State) (o b : Nat) : (s.clearBit o b).image = s.image := id rfl
@[simp] theorem State.clearBit_cfg (s : State) (o b : Nat) : (s.clearBit o b).cfg = s.cfg := id rfl
@[simp] theorem State.clearBit_journal (s : State) (o b : Nat) : (s.clearBit o b).journal = s.journal := id rfl
@[simp] theorem State.clearBit_start (s : State) (o b : Nat) : (s.clearBit o b).start = s.start := id rfl
@[simp] theorem State.clearBit_faults (s : State) (o b : Nat) : (s.clearBit o b).faults = s.faults := id rfl
@[simp] theorem State.clearBit_pace (s : State) (o b : Nat) : (s.clearBit o b).pace = s.pace := id rfl
@[simp] theorem State.clearBit_pins (s : State) (o b : Nat) : (s.clearBit o b).pins = s.pins := id rfl

/-! Fields that `State.setStage` leaves alone. -/

@[simp] theorem State.setStage_pending (s : State) (v : Nat) : (s.setStage v).pending = s.pending := id rfl
@[simp] theorem State.setStage_freeCtr (s : State) (v : Nat) : (s.setStage v).freeCtr = s.freeCtr := id rfl
@[simp] theorem State.setStage_out (s : State) (v : Nat) : (s.setStage v).out = s.out := id rfl
@[simp] theorem State.setStage_staged (s : State) (v : Nat) : (s.setStage v).staged = s.staged := id rfl
@[simp] theorem State.setStage_cores (s : State) (v : Nat) : (s.setStage v).cores = s.cores := id rfl
@[simp] theorem State.setStage_mem (s : State) (v : Nat) : (s.setStage v).mem = s.mem := id rfl
@[simp] theorem State.setStage_memErr (s : State) (v : Nat) : (s.setStage v).memErr = s.memErr := id rfl
@[simp] theorem State.setStage_controllers (s : State) (v : Nat) : (s.setStage v).controllers = s.controllers := id rfl
@[simp] theorem State.setStage_slate (s : State) (v : Nat) : (s.setStage v).slate = s.slate := id rfl
@[simp] theorem State.setStage_jobs (s : State) (v : Nat) : (s.setStage v).jobs = s.jobs := id rfl
@[simp] theorem State.setStage_inbox (s : State) (v : Nat) : (s.setStage v).inbox = s.inbox := id rfl
@[simp] theorem State.setStage_router (s : State) (v : Nat) : (s.setStage v).router = s.router := id rfl
@[simp] theorem State.setStage_collectives (s : State) (v : Nat) : (s.setStage v).collectives = s.collectives := id rfl
@[simp] theorem State.setStage_ports (s : State) (v : Nat) : (s.setStage v).ports = s.ports := id rfl
@[simp] theorem State.setStage_lasers (s : State) (v : Nat) : (s.setStage v).lasers = s.lasers := id rfl
@[simp] theorem State.setStage_fabric (s : State) (v : Nat) : (s.setStage v).fabric = s.fabric := id rfl
@[simp] theorem State.setStage_link (s : State) (v : Nat) : (s.setStage v).link = s.link := id rfl
@[simp] theorem State.setStage_flash0 (s : State) (v : Nat) : (s.setStage v).flash0 = s.flash0 := id rfl
@[simp] theorem State.setStage_flash1 (s : State) (v : Nat) : (s.setStage v).flash1 = s.flash1 := id rfl
@[simp] theorem State.setStage_fuses (s : State) (v : Nat) : (s.setStage v).fuses = s.fuses := id rfl
@[simp] theorem State.setStage_image (s : State) (v : Nat) : (s.setStage v).image = s.image := id rfl
@[simp] theorem State.setStage_cfg (s : State) (v : Nat) : (s.setStage v).cfg = s.cfg := id rfl
@[simp] theorem State.setStage_journal (s : State) (v : Nat) : (s.setStage v).journal = s.journal := id rfl
@[simp] theorem State.setStage_start (s : State) (v : Nat) : (s.setStage v).start = s.start := id rfl
@[simp] theorem State.setStage_faults (s : State) (v : Nat) : (s.setStage v).faults = s.faults := id rfl
@[simp] theorem State.setStage_pace (s : State) (v : Nat) : (s.setStage v).pace = s.pace := id rfl
@[simp] theorem State.setStage_pins (s : State) (v : Nat) : (s.setStage v).pins = s.pins := id rfl

/-! Fields that `State.inc` leaves alone. -/

@[simp] theorem State.inc_pending (s : State) (o n : Nat) : (s.inc o n).pending = s.pending := by unfold State.inc; split <;> rfl
@[simp] theorem State.inc_freeCtr (s : State) (o n : Nat) : (s.inc o n).freeCtr = s.freeCtr := by unfold State.inc; split <;> rfl
@[simp] theorem State.inc_out (s : State) (o n : Nat) : (s.inc o n).out = s.out := by unfold State.inc; split <;> rfl
@[simp] theorem State.inc_staged (s : State) (o n : Nat) : (s.inc o n).staged = s.staged := by unfold State.inc; split <;> rfl
@[simp] theorem State.inc_cores (s : State) (o n : Nat) : (s.inc o n).cores = s.cores := by unfold State.inc; split <;> rfl
@[simp] theorem State.inc_mem (s : State) (o n : Nat) : (s.inc o n).mem = s.mem := by unfold State.inc; split <;> rfl
@[simp] theorem State.inc_memErr (s : State) (o n : Nat) : (s.inc o n).memErr = s.memErr := by unfold State.inc; split <;> rfl
@[simp] theorem State.inc_controllers (s : State) (o n : Nat) : (s.inc o n).controllers = s.controllers := by unfold State.inc; split <;> rfl
@[simp] theorem State.inc_slate (s : State) (o n : Nat) : (s.inc o n).slate = s.slate := by unfold State.inc; split <;> rfl
@[simp] theorem State.inc_jobs (s : State) (o n : Nat) : (s.inc o n).jobs = s.jobs := by unfold State.inc; split <;> rfl
@[simp] theorem State.inc_inbox (s : State) (o n : Nat) : (s.inc o n).inbox = s.inbox := by unfold State.inc; split <;> rfl
@[simp] theorem State.inc_router (s : State) (o n : Nat) : (s.inc o n).router = s.router := by unfold State.inc; split <;> rfl
@[simp] theorem State.inc_collectives (s : State) (o n : Nat) : (s.inc o n).collectives = s.collectives := by unfold State.inc; split <;> rfl
@[simp] theorem State.inc_ports (s : State) (o n : Nat) : (s.inc o n).ports = s.ports := by unfold State.inc; split <;> rfl
@[simp] theorem State.inc_lasers (s : State) (o n : Nat) : (s.inc o n).lasers = s.lasers := by unfold State.inc; split <;> rfl
@[simp] theorem State.inc_fabric (s : State) (o n : Nat) : (s.inc o n).fabric = s.fabric := by unfold State.inc; split <;> rfl
@[simp] theorem State.inc_link (s : State) (o n : Nat) : (s.inc o n).link = s.link := by unfold State.inc; split <;> rfl
@[simp] theorem State.inc_flash0 (s : State) (o n : Nat) : (s.inc o n).flash0 = s.flash0 := by unfold State.inc; split <;> rfl
@[simp] theorem State.inc_flash1 (s : State) (o n : Nat) : (s.inc o n).flash1 = s.flash1 := by unfold State.inc; split <;> rfl
@[simp] theorem State.inc_fuses (s : State) (o n : Nat) : (s.inc o n).fuses = s.fuses := by unfold State.inc; split <;> rfl
@[simp] theorem State.inc_image (s : State) (o n : Nat) : (s.inc o n).image = s.image := by unfold State.inc; split <;> rfl
@[simp] theorem State.inc_cfg (s : State) (o n : Nat) : (s.inc o n).cfg = s.cfg := by unfold State.inc; split <;> rfl
@[simp] theorem State.inc_journal (s : State) (o n : Nat) : (s.inc o n).journal = s.journal := by unfold State.inc; split <;> rfl
@[simp] theorem State.inc_start (s : State) (o n : Nat) : (s.inc o n).start = s.start := by unfold State.inc; split <;> rfl
@[simp] theorem State.inc_faults (s : State) (o n : Nat) : (s.inc o n).faults = s.faults := by unfold State.inc; split <;> rfl
@[simp] theorem State.inc_pace (s : State) (o n : Nat) : (s.inc o n).pace = s.pace := by unfold State.inc; split <;> rfl
@[simp] theorem State.inc_pins (s : State) (o n : Nat) : (s.inc o n).pins = s.pins := by unfold State.inc; split <;> rfl

/-! What each update writes. -/

@[simp] theorem State.withPending_pending (s : State) (q : List Instr) : (s.withPending q).pending = q := id rfl

@[simp] theorem State.emit_out (s : State) (e : OutEvent) : (s.emit e).out = s.out ++ [e] := id rfl

theorem State.reg_setReg (s : State) (o p : Nat) (v : Word) : (s.setReg o v).reg p = if p = o then v else s.reg p := by
  unfold State.setReg State.reg
  dsimp only
  split
  · rename_i h; subst h; rw [SMap.getD_del]
  · rw [SMap.getD_put]

@[simp] theorem State.reg_setReg_same (s : State) (o : Nat) (v : Word) : (s.setReg o v).reg o = v := by
  simp [State.reg_setReg]

/-- Table 0-2: a counter grows by `n` and saturates at its all-ones value; every other register stays. -/
theorem State.reg_inc (s : State) (o n p : Nat) :
    (s.inc o n).reg p = if p = o then BitVec.ofNat 64 (min (2 ^ 64 - 1) ((s.reg o).toNat + n)) else s.reg p := by
  unfold State.inc
  split
  · rename_i h
    subst h
    split
    · rename_i h2
      subst h2
      apply BitVec.eq_of_toNat_eq
      have := (s.reg p).isLt
      simp only [BitVec.toNat_ofNat]
      omega
    · rfl
  · rw [State.reg_setReg]

theorem State.reg_setFld (s : State) (o h l v p : Nat) :
    (s.setFld o h l v).reg p = if p = o then Word.putFld (s.reg o) h l v else s.reg p := State.reg_setReg _ _ _ _

theorem State.reg_setBit (s : State) (o b p : Nat) :
    (s.setBit o b).reg p = if p = o then Word.putFld (s.reg o) b b 1 else s.reg p := State.reg_setReg _ _ _ _

theorem State.reg_clearBit (s : State) (o b p : Nat) :
    (s.clearBit o b).reg p = if p = o then Word.putFld (s.reg o) b b 0 else s.reg p := State.reg_setReg _ _ _ _

theorem State.core_updCore (s : State) (c d : Nat) (f : CoreState → CoreState) :
    (s.updCore c f).core d = if d = c then f (s.core c) else s.core d := SMap.getD_upd _ _ _ _ _

@[simp] theorem State.core_updCore_same (s : State) (c : Nat) (f : CoreState → CoreState) : (s.updCore c f).core c = f (s.core c) := by
  simp [State.core_updCore]

theorem State.job_updJob (s : State) (c d : Nat) (f : JobSlot → JobSlot) :
    (s.updJob c f).job d = if d = c then f (s.job c) else s.job d := SMap.getD_upd _ _ _ _ _

@[simp] theorem State.job_updJob_same (s : State) (c : Nat) (f : JobSlot → JobSlot) : (s.updJob c f).job c = f (s.job c) := by
  simp [State.job_updJob]

theorem State.port_updPort (s : State) (c d : Nat) (f : Port → Port) :
    (s.updPort c f).port d = if d = c then f (s.port c) else s.port d := SMap.getD_upd _ _ _ _ _

@[simp] theorem State.port_updPort_same (s : State) (c : Nat) (f : Port → Port) : (s.updPort c f).port c = f (s.port c) := by
  simp [State.port_updPort]

theorem State.mc_updMc (s : State) (c d : Nat) (f : MemController → MemController) :
    (s.updMc c f).mc d = if d = c then f (s.mc c) else s.mc d := SMap.getD_upd _ _ _ _ _

theorem State.ring_updRing (s : State) (c d : Nat) (f : Ring → Ring) :
    (s.updRing c f).ring d = if d = c then f (s.ring c) else s.ring d := SMap.getD_upd _ _ _ _ _

/-! Named reads that an update of another part leaves alone. -/

@[simp] theorem State.core_withPending (s : State) (q : List Instr) (c : Nat) : (s.withPending q).core c = s.core c := id rfl
@[simp] theorem State.job_withPending (s : State) (q : List Instr) (c : Nat) : (s.withPending q).job c = s.job c := id rfl
@[simp] theorem State.port_withPending (s : State) (q : List Instr) (c : Nat) : (s.withPending q).port c = s.port c := id rfl
@[simp] theorem State.mc_withPending (s : State) (q : List Instr) (c : Nat) : (s.withPending q).mc c = s.mc c := id rfl
@[simp] theorem State.ring_withPending (s : State) (q : List Instr) (c : Nat) : (s.withPending q).ring c = s.ring c := id rfl
@[simp] theorem State.reg_withPending (s : State) (q : List Instr) (c : Nat) : (s.withPending q).reg c = s.reg c := id rfl
@[simp] theorem State.cfgV_withPending (s : State) (q : List Instr) (w x y z : Nat) : (s.withPending q).cfgV w x y z = s.cfgV w x y z := id rfl
@[simp] theorem State.job_updCore (s : State) (c : Nat) (f : CoreState → CoreState) (d : Nat) : (s.updCore c f).job d = s.job d := id rfl
@[simp] theorem State.port_updCore (s : State) (c : Nat) (f : CoreState → CoreState) (d : Nat) : (s.updCore c f).port d = s.port d := id rfl
@[simp] theorem State.mc_updCore (s : State) (c : Nat) (f : CoreState → CoreState) (d : Nat) : (s.updCore c f).mc d = s.mc d := id rfl
@[simp] theorem State.ring_updCore (s : State) (c : Nat) (f : CoreState → CoreState) (d : Nat) : (s.updCore c f).ring d = s.ring d := id rfl
@[simp] theorem State.reg_updCore (s : State) (c : Nat) (f : CoreState → CoreState) (d : Nat) : (s.updCore c f).reg d = s.reg d := id rfl
@[simp] theorem State.cfgV_updCore (s : State) (c : Nat) (f : CoreState → CoreState) (w x y z : Nat) : (s.updCore c f).cfgV w x y z = s.cfgV w x y z := id rfl
@[simp] theorem State.core_updJob (s : State) (i : Nat) (f : JobSlot → JobSlot) (c : Nat) : (s.updJob i f).core c = s.core c := id rfl
@[simp] theorem State.port_updJob (s : State) (i : Nat) (f : JobSlot → JobSlot) (c : Nat) : (s.updJob i f).port c = s.port c := id rfl
@[simp] theorem State.mc_updJob (s : State) (i : Nat) (f : JobSlot → JobSlot) (c : Nat) : (s.updJob i f).mc c = s.mc c := id rfl
@[simp] theorem State.ring_updJob (s : State) (i : Nat) (f : JobSlot → JobSlot) (c : Nat) : (s.updJob i f).ring c = s.ring c := id rfl
@[simp] theorem State.reg_updJob (s : State) (i : Nat) (f : JobSlot → JobSlot) (c : Nat) : (s.updJob i f).reg c = s.reg c := id rfl
@[simp] theorem State.cfgV_updJob (s : State) (i : Nat) (f : JobSlot → JobSlot) (w x y z : Nat) : (s.updJob i f).cfgV w x y z = s.cfgV w x y z := id rfl
@[simp] theorem State.core_updPort (s : State) (p : Nat) (f : Port → Port) (c : Nat) : (s.updPort p f).core c = s.core c := id rfl
@[simp] theorem State.job_updPort (s : State) (p : Nat) (f : Port → Port) (c : Nat) : (s.updPort p f).job c = s.job c := id rfl
@[simp] theorem State.mc_updPort (s : State) (p : Nat) (f : Port → Port) (c : Nat) : (s.updPort p f).mc c = s.mc c := id rfl
@[simp] theorem State.ring_updPort (s : State) (p : Nat) (f : Port → Port) (c : Nat) : (s.updPort p f).ring c = s.ring c := id rfl
@[simp] theorem State.reg_updPort (s : State) (p : Nat) (f : Port → Port) (c : Nat) : (s.updPort p f).reg c = s.reg c := id rfl
@[simp] theorem State.cfgV_updPort (s : State) (p : Nat) (f : Port → Port) (w x y z : Nat) : (s.updPort p f).cfgV w x y z = s.cfgV w x y z := id rfl
@[simp] theorem State.core_updMc (s : State) (p : Nat) (f : MemController → MemController) (c : Nat) : (s.updMc p f).core c = s.core c := id rfl
@[simp] theorem State.job_updMc (s : State) (p : Nat) (f : MemController → MemController) (c : Nat) : (s.updMc p f).job c = s.job c := id rfl
@[simp] theorem State.port_updMc (s : State) (p : Nat) (f : MemController → MemController) (c : Nat) : (s.updMc p f).port c = s.port c := id rfl
@[simp] theorem State.ring_updMc (s : State) (p : Nat) (f : MemController → MemController) (c : Nat) : (s.updMc p f).ring c = s.ring c := id rfl
@[simp] theorem State.reg_updMc (s : State) (p : Nat) (f : MemController → MemController) (c : Nat) : (s.updMc p f).reg c = s.reg c := id rfl
@[simp] theorem State.cfgV_updMc (s : State) (p : Nat) (f : MemController → MemController) (w x y z : Nat) : (s.updMc p f).cfgV w x y z = s.cfgV w x y z := id rfl
@[simp] theorem State.core_updRing (s : State) (r : Nat) (f : Ring → Ring) (c : Nat) : (s.updRing r f).core c = s.core c := id rfl
@[simp] theorem State.job_updRing (s : State) (r : Nat) (f : Ring → Ring) (c : Nat) : (s.updRing r f).job c = s.job c := id rfl
@[simp] theorem State.port_updRing (s : State) (r : Nat) (f : Ring → Ring) (c : Nat) : (s.updRing r f).port c = s.port c := id rfl
@[simp] theorem State.mc_updRing (s : State) (r : Nat) (f : Ring → Ring) (c : Nat) : (s.updRing r f).mc c = s.mc c := id rfl
@[simp] theorem State.reg_updRing (s : State) (r : Nat) (f : Ring → Ring) (c : Nat) : (s.updRing r f).reg c = s.reg c := id rfl
@[simp] theorem State.cfgV_updRing (s : State) (r : Nat) (f : Ring → Ring) (w x y z : Nat) : (s.updRing r f).cfgV w x y z = s.cfgV w x y z := id rfl
@[simp] theorem State.core_emit (s : State) (e : OutEvent) (c : Nat) : (s.emit e).core c = s.core c := id rfl
@[simp] theorem State.job_emit (s : State) (e : OutEvent) (c : Nat) : (s.emit e).job c = s.job c := id rfl
@[simp] theorem State.port_emit (s : State) (e : OutEvent) (c : Nat) : (s.emit e).port c = s.port c := id rfl
@[simp] theorem State.mc_emit (s : State) (e : OutEvent) (c : Nat) : (s.emit e).mc c = s.mc c := id rfl
@[simp] theorem State.ring_emit (s : State) (e : OutEvent) (c : Nat) : (s.emit e).ring c = s.ring c := id rfl
@[simp] theorem State.reg_emit (s : State) (e : OutEvent) (c : Nat) : (s.emit e).reg c = s.reg c := id rfl
@[simp] theorem State.cfgV_emit (s : State) (e : OutEvent) (w x y z : Nat) : (s.emit e).cfgV w x y z = s.cfgV w x y z := id rfl
@[simp] theorem State.core_setReg (s : State) (o : Nat) (v : Word) (c : Nat) : (s.setReg o v).core c = s.core c := id rfl
@[simp] theorem State.job_setReg (s : State) (o : Nat) (v : Word) (c : Nat) : (s.setReg o v).job c = s.job c := id rfl
@[simp] theorem State.port_setReg (s : State) (o : Nat) (v : Word) (c : Nat) : (s.setReg o v).port c = s.port c := id rfl
@[simp] theorem State.mc_setReg (s : State) (o : Nat) (v : Word) (c : Nat) : (s.setReg o v).mc c = s.mc c := id rfl
@[simp] theorem State.ring_setReg (s : State) (o : Nat) (v : Word) (c : Nat) : (s.setReg o v).ring c = s.ring c := id rfl
@[simp] theorem State.cfgV_setReg (s : State) (o : Nat) (v : Word) (w x y z : Nat) : (s.setReg o v).cfgV w x y z = s.cfgV w x y z := id rfl
@[simp] theorem State.core_setFld (s : State) (o h l v : Nat) (c : Nat) : (s.setFld o h l v).core c = s.core c := id rfl
@[simp] theorem State.job_setFld (s : State) (o h l v : Nat) (c : Nat) : (s.setFld o h l v).job c = s.job c := id rfl
@[simp] theorem State.port_setFld (s : State) (o h l v : Nat) (c : Nat) : (s.setFld o h l v).port c = s.port c := id rfl
@[simp] theorem State.mc_setFld (s : State) (o h l v : Nat) (c : Nat) : (s.setFld o h l v).mc c = s.mc c := id rfl
@[simp] theorem State.ring_setFld (s : State) (o h l v : Nat) (c : Nat) : (s.setFld o h l v).ring c = s.ring c := id rfl
@[simp] theorem State.cfgV_setFld (s : State) (o h l v : Nat) (w x y z : Nat) : (s.setFld o h l v).cfgV w x y z = s.cfgV w x y z := id rfl
@[simp] theorem State.core_setBit (s : State) (o b : Nat) (c : Nat) : (s.setBit o b).core c = s.core c := id rfl
@[simp] theorem State.job_setBit (s : State) (o b : Nat) (c : Nat) : (s.setBit o b).job c = s.job c := id rfl
@[simp] theorem State.port_setBit (s : State) (o b : Nat) (c : Nat) : (s.setBit o b).port c = s.port c := id rfl
@[simp] theorem State.mc_setBit (s : State) (o b : Nat) (c : Nat) : (s.setBit o b).mc c = s.mc c := id rfl
@[simp] theorem State.ring_setBit (s : State) (o b : Nat) (c : Nat) : (s.setBit o b).ring c = s.ring c := id rfl
@[simp] theorem State.cfgV_setBit (s : State) (o b : Nat) (w x y z : Nat) : (s.setBit o b).cfgV w x y z = s.cfgV w x y z := id rfl
@[simp] theorem State.core_clearBit (s : State) (o b : Nat) (c : Nat) : (s.clearBit o b).core c = s.core c := id rfl
@[simp] theorem State.job_clearBit (s : State) (o b : Nat) (c : Nat) : (s.clearBit o b).job c = s.job c := id rfl
@[simp] theorem State.port_clearBit (s : State) (o b : Nat) (c : Nat) : (s.clearBit o b).port c = s.port c := id rfl
@[simp] theorem State.mc_clearBit (s : State) (o b : Nat) (c : Nat) : (s.clearBit o b).mc c = s.mc c := id rfl
@[simp] theorem State.ring_clearBit (s : State) (o b : Nat) (c : Nat) : (s.clearBit o b).ring c = s.ring c := id rfl
@[simp] theorem State.cfgV_clearBit (s : State) (o b : Nat) (w x y z : Nat) : (s.clearBit o b).cfgV w x y z = s.cfgV w x y z := id rfl
@[simp] theorem State.core_setStage (s : State) (v : Nat) (c : Nat) : (s.setStage v).core c = s.core c := id rfl
@[simp] theorem State.job_setStage (s : State) (v : Nat) (c : Nat) : (s.setStage v).job c = s.job c := id rfl
@[simp] theorem State.port_setStage (s : State) (v : Nat) (c : Nat) : (s.setStage v).port c = s.port c := id rfl
@[simp] theorem State.mc_setStage (s : State) (v : Nat) (c : Nat) : (s.setStage v).mc c = s.mc c := id rfl
@[simp] theorem State.ring_setStage (s : State) (v : Nat) (c : Nat) : (s.setStage v).ring c = s.ring c := id rfl
@[simp] theorem State.cfgV_setStage (s : State) (v : Nat) (w x y z : Nat) : (s.setStage v).cfgV w x y z = s.cfgV w x y z := id rfl
@[simp] theorem State.core_inc (s : State) (o n : Nat) (c : Nat) : (s.inc o n).core c = s.core c := by unfold State.inc; split <;> rfl
@[simp] theorem State.job_inc (s : State) (o n : Nat) (c : Nat) : (s.inc o n).job c = s.job c := by unfold State.inc; split <;> rfl
@[simp] theorem State.port_inc (s : State) (o n : Nat) (c : Nat) : (s.inc o n).port c = s.port c := by unfold State.inc; split <;> rfl
@[simp] theorem State.mc_inc (s : State) (o n : Nat) (c : Nat) : (s.inc o n).mc c = s.mc c := by unfold State.inc; split <;> rfl
@[simp] theorem State.ring_inc (s : State) (o n : Nat) (c : Nat) : (s.inc o n).ring c = s.ring c := by unfold State.inc; split <;> rfl
@[simp] theorem State.cfgV_inc (s : State) (o n : Nat) (w x y z : Nat) : (s.inc o n).cfgV w x y z = s.cfgV w x y z := by unfold State.inc; split <;> rfl

/-! What a core keeps through the updates of its parts. -/

@[simp] theorem CoreState.updSlot_cs (k : CoreState) (i : Nat) (f : CoreSlot → CoreSlot) : (k.updSlot i f).cs = k.cs := rfl
@[simp] theorem CoreState.updSlot_table (k : CoreState) (i : Nat) (f : CoreSlot → CoreSlot) : (k.updSlot i f).table = k.table := rfl
@[simp] theorem CoreState.updSlot_units (k : CoreState) (i : Nat) (f : CoreSlot → CoreSlot) : (k.updSlot i f).units = k.units := rfl
@[simp] theorem CoreState.updSlot_arrays (k : CoreState) (i : Nat) (f : CoreSlot → CoreSlot) : (k.updSlot i f).arrays = k.arrays := rfl
@[simp] theorem CoreState.updSlot_tq (k : CoreState) (i : Nat) (f : CoreSlot → CoreSlot) : (k.updSlot i f).tq = k.tq := rfl
@[simp] theorem CoreState.updSlot_vregs (k : CoreState) (i : Nat) (f : CoreSlot → CoreSlot) : (k.updSlot i f).vregs = k.vregs := rfl
@[simp] theorem CoreState.updSlot_vregParity (k : CoreState) (i : Nat) (f : CoreSlot → CoreSlot) : (k.updSlot i f).vregParity = k.vregParity := rfl
@[simp] theorem CoreState.updSlot_gc (k : CoreState) (i : Nat) (f : CoreSlot → CoreSlot) : (k.updSlot i f).gc = k.gc := rfl
@[simp] theorem CoreState.updSlot_lastPhase (k : CoreState) (i : Nat) (f : CoreSlot → CoreSlot) : (k.updSlot i f).lastPhase = k.lastPhase := rfl
theorem CoreState.slot_updSlot (k : CoreState) (i : Nat) (f : CoreSlot → CoreSlot) (j : Nat) : (k.updSlot i f).slot j = if j = i then f (k.slot i) else k.slot j := SMap.getD_upd _ _ _ _ _
@[simp] theorem CoreState.slot_updSlot_same (k : CoreState) (i : Nat) (f : CoreSlot → CoreSlot) : (k.updSlot i f).slot i = f (k.slot i) := by simp [CoreState.slot_updSlot]
@[simp] theorem CoreState.unit_updSlot (k : CoreState) (i : Nat) (f : CoreSlot → CoreSlot) (j : Nat) : (k.updSlot i f).unit j = k.unit j := rfl
@[simp] theorem CoreState.array_updSlot (k : CoreState) (i : Nat) (f : CoreSlot → CoreSlot) (j : Nat) : (k.updSlot i f).array j = k.array j := rfl
@[simp] theorem CoreState.gcSlot_updSlot (k : CoreState) (i : Nat) (f : CoreSlot → CoreSlot) (j : Nat) : (k.updSlot i f).gcSlot j = k.gcSlot j := rfl

@[simp] theorem CoreState.updUnit_cs (k : CoreState) (i : Nat) (f : UnitState → UnitState) : (k.updUnit i f).cs = k.cs := rfl
@[simp] theorem CoreState.updUnit_table (k : CoreState) (i : Nat) (f : UnitState → UnitState) : (k.updUnit i f).table = k.table := rfl
@[simp] theorem CoreState.updUnit_slots (k : CoreState) (i : Nat) (f : UnitState → UnitState) : (k.updUnit i f).slots = k.slots := rfl
@[simp] theorem CoreState.updUnit_arrays (k : CoreState) (i : Nat) (f : UnitState → UnitState) : (k.updUnit i f).arrays = k.arrays := rfl
@[simp] theorem CoreState.updUnit_tq (k : CoreState) (i : Nat) (f : UnitState → UnitState) : (k.updUnit i f).tq = k.tq := rfl
@[simp] theorem CoreState.updUnit_vregs (k : CoreState) (i : Nat) (f : UnitState → UnitState) : (k.updUnit i f).vregs = k.vregs := rfl
@[simp] theorem CoreState.updUnit_vregParity (k : CoreState) (i : Nat) (f : UnitState → UnitState) : (k.updUnit i f).vregParity = k.vregParity := rfl
@[simp] theorem CoreState.updUnit_gc (k : CoreState) (i : Nat) (f : UnitState → UnitState) : (k.updUnit i f).gc = k.gc := rfl
@[simp] theorem CoreState.updUnit_lastPhase (k : CoreState) (i : Nat) (f : UnitState → UnitState) : (k.updUnit i f).lastPhase = k.lastPhase := rfl
theorem CoreState.unit_updUnit (k : CoreState) (i : Nat) (f : UnitState → UnitState) (j : Nat) : (k.updUnit i f).unit j = if j = i then f (k.unit i) else k.unit j := SMap.getD_upd _ _ _ _ _
@[simp] theorem CoreState.unit_updUnit_same (k : CoreState) (i : Nat) (f : UnitState → UnitState) : (k.updUnit i f).unit i = f (k.unit i) := by simp [CoreState.unit_updUnit]
@[simp] theorem CoreState.slot_updUnit (k : CoreState) (i : Nat) (f : UnitState → UnitState) (j : Nat) : (k.updUnit i f).slot j = k.slot j := rfl
@[simp] theorem CoreState.array_updUnit (k : CoreState) (i : Nat) (f : UnitState → UnitState) (j : Nat) : (k.updUnit i f).array j = k.array j := rfl
@[simp] theorem CoreState.gcSlot_updUnit (k : CoreState) (i : Nat) (f : UnitState → UnitState) (j : Nat) : (k.updUnit i f).gcSlot j = k.gcSlot j := rfl

@[simp] theorem CoreState.updArray_cs (k : CoreState) (i : Nat) (f : ArrayState → ArrayState) : (k.updArray i f).cs = k.cs := rfl
@[simp] theorem CoreState.updArray_table (k : CoreState) (i : Nat) (f : ArrayState → ArrayState) : (k.updArray i f).table = k.table := rfl
@[simp] theorem CoreState.updArray_slots (k : CoreState) (i : Nat) (f : ArrayState → ArrayState) : (k.updArray i f).slots = k.slots := rfl
@[simp] theorem CoreState.updArray_units (k : CoreState) (i : Nat) (f : ArrayState → ArrayState) : (k.updArray i f).units = k.units := rfl
@[simp] theorem CoreState.updArray_tq (k : CoreState) (i : Nat) (f : ArrayState → ArrayState) : (k.updArray i f).tq = k.tq := rfl
@[simp] theorem CoreState.updArray_vregs (k : CoreState) (i : Nat) (f : ArrayState → ArrayState) : (k.updArray i f).vregs = k.vregs := rfl
@[simp] theorem CoreState.updArray_vregParity (k : CoreState) (i : Nat) (f : ArrayState → ArrayState) : (k.updArray i f).vregParity = k.vregParity := rfl
@[simp] theorem CoreState.updArray_gc (k : CoreState) (i : Nat) (f : ArrayState → ArrayState) : (k.updArray i f).gc = k.gc := rfl
@[simp] theorem CoreState.updArray_lastPhase (k : CoreState) (i : Nat) (f : ArrayState → ArrayState) : (k.updArray i f).lastPhase = k.lastPhase := rfl
theorem CoreState.array_updArray (k : CoreState) (i : Nat) (f : ArrayState → ArrayState) (j : Nat) : (k.updArray i f).array j = if j = i then f (k.array i) else k.array j := SMap.getD_upd _ _ _ _ _
@[simp] theorem CoreState.array_updArray_same (k : CoreState) (i : Nat) (f : ArrayState → ArrayState) : (k.updArray i f).array i = f (k.array i) := by simp [CoreState.array_updArray]
@[simp] theorem CoreState.slot_updArray (k : CoreState) (i : Nat) (f : ArrayState → ArrayState) (j : Nat) : (k.updArray i f).slot j = k.slot j := rfl
@[simp] theorem CoreState.unit_updArray (k : CoreState) (i : Nat) (f : ArrayState → ArrayState) (j : Nat) : (k.updArray i f).unit j = k.unit j := rfl
@[simp] theorem CoreState.gcSlot_updArray (k : CoreState) (i : Nat) (f : ArrayState → ArrayState) (j : Nat) : (k.updArray i f).gcSlot j = k.gcSlot j := rfl

@[simp] theorem CoreState.updGc_cs (k : CoreState) (i : Nat) (f : GcSlot → GcSlot) : (k.updGc i f).cs = k.cs := rfl
@[simp] theorem CoreState.updGc_table (k : CoreState) (i : Nat) (f : GcSlot → GcSlot) : (k.updGc i f).table = k.table := rfl
@[simp] theorem CoreState.updGc_slots (k : CoreState) (i : Nat) (f : GcSlot → GcSlot) : (k.updGc i f).slots = k.slots := rfl
@[simp] theorem CoreState.updGc_units (k : CoreState) (i : Nat) (f : GcSlot → GcSlot) : (k.updGc i f).units = k.units := rfl
@[simp] theorem CoreState.updGc_arrays (k : CoreState) (i : Nat) (f : GcSlot → GcSlot) : (k.updGc i f).arrays = k.arrays := rfl
@[simp] theorem CoreState.updGc_tq (k : CoreState) (i : Nat) (f : GcSlot → GcSlot) : (k.updGc i f).tq = k.tq := rfl
@[simp] theorem CoreState.updGc_vregs (k : CoreState) (i : Nat) (f : GcSlot → GcSlot) : (k.updGc i f).vregs = k.vregs := rfl
@[simp] theorem CoreState.updGc_vregParity (k : CoreState) (i : Nat) (f : GcSlot → GcSlot) : (k.updGc i f).vregParity = k.vregParity := rfl
@[simp] theorem CoreState.updGc_lastPhase (k : CoreState) (i : Nat) (f : GcSlot → GcSlot) : (k.updGc i f).lastPhase = k.lastPhase := rfl
theorem CoreState.gcSlot_updGc (k : CoreState) (i : Nat) (f : GcSlot → GcSlot) (j : Nat) : (k.updGc i f).gcSlot j = if j = i then f (k.gcSlot i) else k.gcSlot j := SMap.getD_upd _ _ _ _ _
@[simp] theorem CoreState.gcSlot_updGc_same (k : CoreState) (i : Nat) (f : GcSlot → GcSlot) : (k.updGc i f).gcSlot i = f (k.gcSlot i) := by simp [CoreState.gcSlot_updGc]
@[simp] theorem CoreState.slot_updGc (k : CoreState) (i : Nat) (f : GcSlot → GcSlot) (j : Nat) : (k.updGc i f).slot j = k.slot j := rfl
@[simp] theorem CoreState.unit_updGc (k : CoreState) (i : Nat) (f : GcSlot → GcSlot) (j : Nat) : (k.updGc i f).unit j = k.unit j := rfl
@[simp] theorem CoreState.array_updGc (k : CoreState) (i : Nat) (f : GcSlot → GcSlot) (j : Nat) : (k.updGc i f).array j = k.array j := rfl

/-! Domains that are shown as off. -/

/-- A field that no step of a fold changes stays as it was. -/
theorem State.foldl_field {α β : Type} (g : State → β) (f : State → α → State) (h : ∀ s a, g (f s a) = g s) (l : List α) (s : State) :
    g (l.foldl f s) = g s := by
  induction l generalizing s with
  | nil => rfl
  | cons a l ih => exact (ih _).trans (h s a)
@[simp] theorem State.domainsOff_start (s : State) (l : List Nat) : (s.domainsOff l).start = s.start := State.foldl_field (·.start) _ (fun s d => by simp) l s
@[simp] theorem State.domainsOff_faults (s : State) (l : List Nat) : (s.domainsOff l).faults = s.faults := State.foldl_field (·.faults) _ (fun s d => by simp) l s
@[simp] theorem State.domainsOff_journal (s : State) (l : List Nat) : (s.domainsOff l).journal = s.journal := State.foldl_field (·.journal) _ (fun s d => by simp) l s
@[simp] theorem State.domainsOff_flash0 (s : State) (l : List Nat) : (s.domainsOff l).flash0 = s.flash0 := State.foldl_field (·.flash0) _ (fun s d => by simp) l s
@[simp] theorem State.domainsOff_flash1 (s : State) (l : List Nat) : (s.domainsOff l).flash1 = s.flash1 := State.foldl_field (·.flash1) _ (fun s d => by simp) l s
@[simp] theorem State.domainsOff_fuses (s : State) (l : List Nat) : (s.domainsOff l).fuses = s.fuses := State.foldl_field (·.fuses) _ (fun s d => by simp) l s
@[simp] theorem State.domainsOff_pending (s : State) (l : List Nat) : (s.domainsOff l).pending = s.pending := State.foldl_field (·.pending) _ (fun s d => by simp) l s
@[simp] theorem State.domainsOff_pace (s : State) (l : List Nat) : (s.domainsOff l).pace = s.pace := State.foldl_field (·.pace) _ (fun s d => by simp) l s
@[simp] theorem State.domainsOff_jobs (s : State) (l : List Nat) : (s.domainsOff l).jobs = s.jobs := State.foldl_field (·.jobs) _ (fun s d => by simp) l s
@[simp] theorem State.domainsOff_mem (s : State) (l : List Nat) : (s.domainsOff l).mem = s.mem := State.foldl_field (·.mem) _ (fun s d => by simp) l s
@[simp] theorem State.domainsOff_cores (s : State) (l : List Nat) : (s.domainsOff l).cores = s.cores := State.foldl_field (·.cores) _ (fun s d => by simp) l s
@[simp] theorem State.domainsOff_fabric (s : State) (l : List Nat) : (s.domainsOff l).fabric = s.fabric := State.foldl_field (·.fabric) _ (fun s d => by simp) l s
@[simp] theorem State.domainsOff_link (s : State) (l : List Nat) : (s.domainsOff l).link = s.link := State.foldl_field (·.link) _ (fun s d => by simp) l s
@[simp] theorem State.domainsOff_cfg (s : State) (l : List Nat) : (s.domainsOff l).cfg = s.cfg := State.foldl_field (·.cfg) _ (fun s d => by simp) l s
@[simp] theorem State.domainsOff_image (s : State) (l : List Nat) : (s.domainsOff l).image = s.image := State.foldl_field (·.image) _ (fun s d => by simp) l s
@[simp] theorem State.domainsOff_ports (s : State) (l : List Nat) : (s.domainsOff l).ports = s.ports := State.foldl_field (·.ports) _ (fun s d => by simp) l s
@[simp] theorem State.domainsOff_freeCtr (s : State) (l : List Nat) : (s.domainsOff l).freeCtr = s.freeCtr := State.foldl_field (·.freeCtr) _ (fun s d => by simp) l s
@[simp] theorem State.domainsOff_out (s : State) (l : List Nat) : (s.domainsOff l).out = s.out := State.foldl_field (·.out) _ (fun s d => by simp) l s
/-- Showing domains as off writes DOM_STATE alone. -/
theorem State.reg_domainsOff (s : State) (l : List Nat) (o : Nat) (h : ∀ d, o ≠ domState d) : (s.domainsOff l).reg o = s.reg o :=
  State.foldl_field (·.reg o) _ (fun s d => by
    simp only [State.reg_setFld, if_neg (h d)]) l s

end Sys2Proof.Machine
end

