-- ==== Sys2Proof/Laws/Control.lean ====
section
/-! SUPPORT. The works of the units leave every core's dispatch state and running entries as they are. -/

namespace Sys2Proof.Machine

open Sys2Proof

/-- The dispatch state of a core's slots and what its units run. -/
def Store.control (x : Store) (c : Nat) : SMap CoreSlot × SMap UnitState := ((SMap.getD x.cores c {}).slots, (SMap.getD x.cores c {}).units)
@[simp] theorem Store.control_ite (c : Prop) [Decidable c] (a b : Store) :
    (if c then a else b).control = if c then a.control else b.control := by split <;> rfl
@[simp] theorem State.control_updCore (s : State) (c : Nat) (f : CoreState → CoreState)
    (hf : ∀ k : CoreState, (f k).slots = k.slots ∧ (f k).units = k.units) : (s.updCore c f).store.control = s.store.control := by
  funext d
  show ((SMap.getD (SMap.upd s.cores c {} f) d {}).slots, (SMap.getD (SMap.upd s.cores c {} f) d {}).units) = _
  rw [SMap.getD_upd]
  split
  · rename_i h
    subst h
    exact Prod.ext (hf _).1 (hf _).2
  · rfl
theorem State.control_mk (pd b c d e g h i j k l m n o p q r f0 f1 fu v w x y z a' b') (s : State) :
    (State.store (State.mk pd b c d e s.cores g h i j k l m n o p q r f0 f1 fu v w x y z a' b')).control = s.store.control := by cases s; rfl
theorem State.control_foldl {α : Type} (f : State → α → State) (l : List α) (s : State)
    (h : ∀ s a, (f s a).store.control = s.store.control) : (l.foldl f s).store.control = s.store.control := by
  induction l generalizing s with
  | nil => rfl
  | cons a l ih => rw [List.foldl_cons, ih, h]
theorem State.control_foldl_snd {α β : Type} (f : β × State → α → β × State) (l : List α) (s : β × State)
    (h : ∀ s a, (f s a).2.store.control = s.2.store.control) : (l.foldl f s).2.store.control = s.2.store.control := by
  induction l generalizing s with
  | nil => rfl
  | cons a l ih => rw [List.foldl_cons, ih, h]
@[simp] theorem State.sink_control (s : State) (kind : Nat) (m : Message) (f : State → State)
    (hf : ∀ t : State, (f t).store.control = t.store.control) : (s.sink kind m f).store.control = s.store.control :=
  s.sink_rule kind m f (fun x => x.control = s.store.control) rfl (fun t ht => by rw [hf, ht])
@[simp] theorem State.mergeLine_control (s : State) (k : Asker) (a : Nat) (bs : List Byte) : (s.mergeLine k a bs).2.store.control = s.store.control := by
  rcases s.mergeLine_store k a bs with h | ⟨u, hu, e, h⟩
  · rw [h]
  · rw [h]; exact (State.control_mk ..).trans (by rw [hu])
@[simp] theorem State.writeLine_control (s : State) (k : Asker) (a : Nat) (bs : List Byte) : (s.writeLine k a bs).2.store.control = s.store.control := by
  unfold State.writeLine
  extract_lets p r
  split <;> simp [r]
@[simp] theorem State.writeLines_control (n : Nat) (s : State) (k : Asker) (a : Nat) (bs : List Byte) :
    (State.writeLines n s k a bs).2.store.control = s.store.control := by
  induction n generalizing s a bs with
  | zero => rfl
  | succ n ih => unfold State.writeLines; split <;> simp [ih]
@[simp] theorem State.memWrite_control (s : State) (k : Asker) (a : Nat) (bs : List Byte) : (s.memWrite k a bs).2.store.control = s.store.control := by
  unfold State.memWrite
  extract_lets u
  split <;> simp [u]
@[simp] theorem State.requestDrain_control (s : State) (c a t : Nat) : (State.requestDrain s c a t).store.control = s.store.control := by simp [State.requestDrain]
@[simp] theorem maPassRun_control (c a : Nat) (p : PassIn) (s : State) : (maPassRun c a p s).st.store.control = s.store.control := by simp [maPassRun]
@[simp] theorem maPassWork_control (c a slot : Nat) (q : QEntry) (s : State) : (maPassWork c a slot q s).st.store.control = s.store.control := by unfold maPassWork; simp; (repeat' split) <;> simp
@[simp] theorem maClearWork_control (c a : Nat) (q : QEntry) (s : State) : (maClearWork c a q s).st.store.control = s.store.control := by simp [maClearWork]
@[simp] theorem maDrainWork_control (c a : Nat) (q : QEntry) (s : State) : (maDrainWork c a q s).st.store.control = s.store.control := by simp [maDrainWork]
@[simp] theorem State.takeTile_control (s : State) (c : Nat) (e : Entry) : (s.takeTile c e).store.control = s.store.control := by
  unfold State.takeTile
  (repeat' split) <;> simp
@[simp] theorem veWork_control (o : VeOp) (c slot : Nat) (q : QEntry) (s : State) : (veWork o c slot q s).st.store.control = s.store.control := by
  unfold veWork
  extract_lets v cs bad r t u w
  refine ite_keeps (fun w : Work => w.st.store.control = s.store.control) ?_ ?_
  · simp
  · refine ite_keeps (fun w : Work => w.st.store.control = s.store.control) ?_ ?_
    · simp
    · have hu : u.store.control = s.store.control := by simp [u, t]
      clear_value u
      refine ite_keeps (fun w : Work => w.st.store.control = s.store.control) ?_ ?_
      · simpa using hu
      · simp only [w]
        split
        · simpa using hu
        · exact hu
@[simp] theorem regWork_control (z : Bool) (f : RegIn → SMap W32 → SMap W32 × Flags) (cost c slot : Nat) (q : QEntry) (s : State) :
    (regWork z f cost c slot q s).st.store.control = s.store.control := by
  unfold regWork
  extract_lets x
  refine ite_keeps (fun w : Work => w.st.store.control = s.store.control) ?_ ?_ <;> simp +zetaDelta
@[simp] theorem histWork_control (c slot : Nat) (q : QEntry) (s : State) : (histWork c slot q s).st.store.control = s.store.control := by
  unfold histWork
  extract_lets v before w
  simp only [State.updJob_store]
  exact veWork_control histVe _ _ _ _
@[simp] theorem vloadWork_control (c slot : Nat) (q : QEntry) (s : State) : (vloadWork c slot q s).st.store.control = s.store.control := by unfold vloadWork; extract_lets; (repeat' split) <;> simp +zetaDelta
@[simp] theorem vstoreWork_control (c slot : Nat) (q : QEntry) (s : State) : (vstoreWork c slot q s).st.store.control = s.store.control := by
  unfold vstoreWork
  extract_lets x
  refine ite_keeps (fun w : Work => w.st.store.control = s.store.control) ?_ ?_ <;> simp +zetaDelta
theorem skSink_control (c slot : Nat) (q : QEntry) (ws : List (Nat × List Nat)) (s : State) :
    (skSink c slot q ws s).2.store.control = s.store.control := by
  unfold skSink
  extract_lets k
  split
  · extract_lets r t
    have ht : t.store.control = s.store.control := by simp [t]
    clear_value t
    split
    · simpa using ht
    · exact ht
  · refine foldl_keeps (fun acc : Bool × State => acc.2.store.control = s.store.control) _ _ _ rfl (fun acc w ha => ?_)
    dsimp only
    split
    · exact ha
    · simp [ha]
@[simp] theorem skWork_control (c slot : Nat) (q : QEntry) (s : State) : (skWork c slot q s).st.store.control = s.store.control := by
  unfold skWork
  extract_lets q' src ws r n
  refine ite_keeps (fun w : Work => w.st.store.control = s.store.control) ?_ ?_
  · simp [src]
  · exact (skSink_control _ _ _ _ _).trans (by simp [src])
@[simp] theorem State.updGcSlot_control (s : State) (c slot : Nat) (f : GcSlot → GcSlot) : (s.updGcSlot c slot f).store.control = s.store.control :=
  State.control_updCore _ _ _ (fun _ => ⟨rfl, rfl⟩)
@[simp] theorem State.scanBag_control (s : State) (c slot : Nat) (q : QEntry) (t : Nat) (r : SampleRef) :
    (s.scanBag c slot q t r).store.control = s.store.control := by
  unfold State.scanBag
  extract_lets seq fb control occ w gs s1 s2 s3 s4 bag s5 stage cnt put s6
  have h4 : s4.store.control = s.store.control := by simp only [s4]; split <;> simp [s3, s2, s1]
  clear_value s4
  exact (State.control_foldl _ _ _ (fun t a => by simp)).trans (by simp [s6, put, s5, h4])
@[simp] theorem bagScanWork_control (c slot : Nat) (l : List SampleRef) (q : QEntry) (s : State) :
    (bagScanWork c slot l q s).st.store.control = s.store.control :=
  State.control_foldl _ _ _ (fun t a => State.control_foldl _ _ _ (fun t a => by simp))
@[simp] theorem State.releaseCore_control (s : State) (slot c : Nat) : (State.releaseCore s slot c).store.control = s.store.control := by unfold State.releaseCore; apply State.control_foldl; intro s a; simp
@[simp] theorem State.releaseRequests_control (s : State) (slot : Nat) : (State.releaseRequests s slot).store.control = s.store.control := by unfold State.releaseRequests; apply State.control_foldl; intro s a; simp
@[simp] theorem State.spillKeys_control (s : State) (c slot : Nat) (q : QEntry) (keys : List Key) :
    (s.spillKeys c slot q keys).store.control = s.store.control :=
  (State.control_foldl _ _ _ (fun t a => by simp)).trans (State.control_foldl _ _ _ (fun t a => by simp))
@[simp] theorem keyMergeWork_control (c slot : Nat) (q : QEntry) (s : State) : (keyMergeWork c slot q s).st.store.control = s.store.control := by simp [keyMergeWork]
@[simp] theorem State.putPartial_control (s : State) (c slot : Nat) (q : QEntry) (d : BagSlot) (p : List W32) : (State.putPartial s c slot q d p).store.control = s.store.control := by simp [State.putPartial]
@[simp] theorem State.expandRow_control (s : State) (c slot : Nat) (q : QEntry) (k : KeyOut) (ws : List Byte) :
    (s.expandRow c slot q k ws).store.control = s.store.control := by
  unfold State.expandRow
  extract_lets n f
  split
  · exact State.control_foldl _ _ _ (fun t a => by simp)
  · simp
@[simp] theorem State.expandBatch_control (s : State) (c slot : Nat) (q : QEntry) (b : ReqBatch) :
    (s.expandBatch c slot q b).store.control = s.store.control :=
  (State.control_foldl _ _ _ (fun t a => State.control_foldl _ _ _ (fun t a => by simp))).trans
    (State.control_foldl _ _ _ (fun t a => by simp))
@[simp] theorem respExpandWork_control (c slot : Nat) (q : QEntry) (s : State) : (respExpandWork c slot q s).st.store.control = s.store.control :=
  (State.updGcSlot_control _ _ _ _).trans (State.control_foldl _ _ _ (fun t a => by simp))
@[simp] theorem State.takeOcc_control (s : State) (c slot : Nat) (q : QEntry) (b : Bag) (pos : Nat) (k : Key) (o : OccConv) : (State.takeOcc s c slot q b pos k o).store.control = s.store.control := by
  unfold State.takeOcc; extract_lets; (repeat' split) <;> simp +zetaDelta
@[simp] theorem State.scanOcc_control (s : State) (c slot : Nat) (q : QEntry) (b : Bag) (g : List W32) (o : Occ × Nat) : (State.scanOcc s c slot q b g o).store.control = s.store.control := by simp [State.scanOcc]
@[simp] theorem State.scanGrad_control (s : State) (c slot : Nat) (q : QEntry) (b : Bag) : (s.scanGrad c slot q b).store.control = s.store.control := by
  unfold State.scanGrad
  split
  · rfl
  · exact (State.control_foldl _ _ _ (fun t a => by simp)).trans (by simp)
@[simp] theorem State.storeAccs_control (s : State) (c slot : Nat) (q : QEntry) : (s.storeAccs c slot q).store.control = s.store.control := by
  simp [State.storeAccs]
@[simp] theorem gradScanWork_control (c slot : Nat) (q : QEntry) (s : State) : (gradScanWork c slot q s).st.store.control = s.store.control := by
  unfold gradScanWork
  split
  · simp
  · extract_lets before bags u t v
    have ht : t.store.control = s.store.control := by
      exact (State.storeAccs_control _ _ _ _).trans ((State.control_foldl _ _ _ (fun t a => by simp)).trans (by simp [u]))
    clear_value t
    simp [v, ht]
@[simp] theorem gradFlushWork_control (c slot : Nat) (q : QEntry) (s : State) : (gradFlushWork c slot q s).st.store.control = s.store.control := by
  unfold gradFlushWork
  split
  · simp
  · extract_lets k spill r recs t
    have hr : r.2.store = s.store := (State.store_foldl_snd _ _ _ (fun a b => by simp)).trans (by simp)
    exact (State.control_foldl _ _ _ (fun t a => by simp)).trans (by simp [t, hr])
@[simp] theorem gradMergeWork_control (c slot : Nat) (q : QEntry) (s : State) : (gradMergeWork c slot q s).st.store.control = s.store.control := by unfold gradMergeWork; extract_lets; (repeat' split) <;> simp +zetaDelta
@[simp] theorem State.takeResponse_control (s : State) (m : Message) : (State.takeResponse s m).store.control = s.store.control := by unfold State.takeResponse; extract_lets; (repeat' split) <;> simp +zetaDelta
@[simp] theorem State.writeGrad_control (s : State) (slot step phase : Nat) (g : GradSlot) (l : List Int) :
    (State.writeGrad s slot step phase g l).store.control = s.store.control := by simp [State.writeGrad]
@[simp] theorem State.enterUpdate_control (s : State) (slot step : Nat) (k : Key) (bs : List Byte) :
    (State.enterUpdate s slot step k bs).store.control = s.store.control := by
  unfold State.enterUpdate; extract_lets; (repeat' split) <;> simp +zetaDelta
@[simp] theorem State.serveRow_control (s : State) (slot step : Nat) (k : Key) : (State.serveRow s slot step k).2.store.control = s.store.control := by
  unfold State.serveRow; extract_lets; split <;> simp +zetaDelta
@[simp] theorem State.serveRows_control (s : State) (slot step : Nat) (l : List OwnRow) :
    (s.serveRows slot step l).2.2.store.control = s.store.control := by
  induction l generalizing s with
  | nil => rfl
  | cons r l ih => unfold State.serveRows; split <;> simp [ih]
@[simp] theorem State.serveReady_control (s : State) (slot : Nat) : (s.serveReady slot).store.control = s.store.control :=
  State.control_foldl _ _ _ (fun s a => by split <;> simp [State.serveBatch_store])
@[simp] theorem State.acceptRecord_control (s : State) (st : Nat) (r : RecordWrite) : (s.acceptRecord st r).store.control = s.store.control := by
  simp [State.acceptRecord]
@[simp] theorem State.deliverCodes_control (s : State) (k : Collective) (total : List Int) : (State.deliverCodes s k total).store.control = s.store.control := by simp [State.deliverCodes]
@[simp] theorem State.deliverSums_control (s : State) (k : Collective) (mirror : Bool) (total : List Int) :
    (s.deliverSums k mirror total).store.control = s.store.control := by
  simp [State.deliverSums]
@[simp] theorem State.advanceColl_control (s : State) (k : Collective) : (s.advanceColl k).store.control = s.store.control := by
  unfold State.advanceColl
  (repeat' split) <;> simp +zetaDelta
@[simp] theorem State.openColl_control (s : State) (c slot op : Nat) (q : QEntry) (off : Nat) (own : List Int) :
    (s.openColl c slot op q off own).store.control = s.store.control := State.advanceColl_control _ _
@[simp] theorem collWork_control (c slot op : Nat) (q : QEntry) (s : State) : (collWork c slot op q s).st.store.control = s.store.control := by
  unfold collWork
  extract_lets n count r fe t
  have ht : t.store.control = s.store.control := by simp only [t]; split <;> simp [r]
  clear_value t
  exact (State.control_foldl _ _ _ (fun t a => State.openColl_control _ _ _ _ _ _ _)).trans ht
@[simp] theorem State.takeReduce_control (s : State) (m : Message) : (s.takeReduce m).store.control = s.store.control := by
  unfold State.takeReduce
  extract_lets
  split
  · rfl
  · split
    · simp
    · exact State.advanceColl_control _ _
@[simp] theorem State.placeLines_control (s : State) (slot : Nat) (g : GatherState) (off : Nat) (bs : List Byte) :
    (s.placeLines slot g off bs).store.control = s.store.control := by
  unfold State.placeLines
  extract_lets l0 new t u x y
  have hu : u.store.control = s.store.control := (State.control_foldl _ _ _ (fun t a => by simp)).trans (by simp [t])
  clear_value u
  simpa [y] using hu
@[simp] theorem gatherWork_control (c slot : Nat) (q : QEntry) (s : State) : (gatherWork c slot q s).st.store.control = s.store.control :=
  (State.control_foldl _ _ _ (fun t a => State.placeLines_control _ _ _ _ _)).trans (by simp)
@[simp] theorem State.sendSlice_control (s : State) (slot : Nat) (g : GatherState) (n : Nat) (x : SliceState) :
    (s.sendSlice slot g n x).store.control = s.store.control :=
  (State.control_foldl _ _ _ (fun t a => State.control_foldl _ _ _ (fun t a => by dsimp only; split <;> simp))).trans (by simp)
@[simp] theorem State.takeGather_control (s : State) (m : Message) : (s.takeGather m).store.control = s.store.control := by
  unfold State.takeGather
  extract_lets st t
  have ht : t.store.control = s.store.control := by simp [t]
  clear_value t
  split
  · split <;> simp [ht]
  · simpa using ht

end Sys2Proof.Machine
end

