-- ==== Sys2Proof/Laws/Errors.lean ====
section
/-! SUPPORT. Fields of registers (R6), and what the recording of an error event leaves alone (R471, R488, R489): it changes
registers, the journal, the fault and pin state, a slot's mark and what goes out, and nothing else. -/

namespace Sys2Proof.Machine

open Sys2Proof

/-! Fields of a word. -/

theorem Word.fld_lt (w : Word) (h l : Nat) : Word.fld w h l < 2 ^ (h + 1 - l) := Nat.mod_lt _ (Nat.two_pow_pos _)

theorem nat_put_fields (w a n x : Nat) (hx : x < 2 ^ n) :
    w - w / 2 ^ a % 2 ^ n * 2 ^ a + x * 2 ^ a = w % 2 ^ a + x * 2 ^ a + w / 2 ^ (a + n) * 2 ^ (a + n) := by
  have h1 : w = w % 2 ^ a + (w / 2 ^ a % 2 ^ n) * 2 ^ a + w / 2 ^ (a + n) * 2 ^ (a + n) := by
    rw [Nat.pow_add, ← Nat.div_div_eq_div_mul]
    have e1 := Nat.mod_add_div w (2 ^ a)
    have e2 := Nat.mod_add_div (w / 2 ^ a) (2 ^ n)
    have e3 : 2 ^ a * (w / 2 ^ a) = w / 2 ^ a % 2 ^ n * 2 ^ a + w / 2 ^ a / 2 ^ n * (2 ^ a * 2 ^ n) := by
      conv => lhs; rw [← e2]
      simp only [Nat.add_mul, Nat.mul_add, Nat.one_mul, Nat.mul_comm, Nat.mul_left_comm, Nat.add_comm, Nat.add_left_comm, Nat.add_assoc]
    omega
  omega

theorem Word.toNat_putFld (w : Word) (h l v : Nat) (hl : l ≤ h) (hh : h ≤ 63) :
    (Word.putFld w h l v).toNat =
      w.toNat % 2 ^ l + v % 2 ^ (h + 1 - l) * 2 ^ l + w.toNat / 2 ^ (h + 1) * 2 ^ (h + 1) := by
  have e : l + (h + 1 - l) = h + 1 := by omega
  have hv : v % 2 ^ (h + 1 - l) < 2 ^ (h + 1 - l) := Nat.mod_lt _ (Nat.two_pow_pos _)
  unfold Word.putFld Word.fld bits
  rw [Nat.shiftRight_eq_div_pow, nat_put_fields _ _ _ _ hv, e, BitVec.toNat_ofNat]
  refine Nat.mod_eq_of_lt ?_
  have b1 : w.toNat % 2 ^ l < 2 ^ l := Nat.mod_lt _ (Nat.two_pow_pos _)
  have b2 : w.toNat % 2 ^ l + v % 2 ^ (h + 1 - l) * 2 ^ l < 2 ^ (h + 1) := by
    calc w.toNat % 2 ^ l + v % 2 ^ (h + 1 - l) * 2 ^ l < 2 ^ l + v % 2 ^ (h + 1 - l) * 2 ^ l := by omega
      _ = (v % 2 ^ (h + 1 - l) + 1) * 2 ^ l := by simp only [Nat.add_mul, Nat.mul_add, Nat.one_mul, Nat.mul_comm, Nat.mul_left_comm, Nat.add_comm, Nat.add_left_comm, Nat.add_assoc]
      _ ≤ 2 ^ (h + 1 - l) * 2 ^ l := Nat.mul_le_mul_right _ hv
      _ = 2 ^ (h + 1) := by rw [← Nat.pow_add]; congr 1; omega
  have b3 : w.toNat / 2 ^ (h + 1) < 2 ^ (64 - (h + 1)) := by
    rw [Nat.div_lt_iff_lt_mul (Nat.two_pow_pos _), ← Nat.pow_add]
    have : 64 - (h + 1) + (h + 1) = 64 := by omega
    rw [this]; exact w.isLt
  calc w.toNat % 2 ^ l + v % 2 ^ (h + 1 - l) * 2 ^ l + w.toNat / 2 ^ (h + 1) * 2 ^ (h + 1)
      < 2 ^ (h + 1) + w.toNat / 2 ^ (h + 1) * 2 ^ (h + 1) := by omega
    _ = (w.toNat / 2 ^ (h + 1) + 1) * 2 ^ (h + 1) := by simp only [Nat.add_mul, Nat.mul_add, Nat.one_mul, Nat.mul_comm, Nat.mul_left_comm, Nat.add_comm, Nat.add_left_comm, Nat.add_assoc]
    _ ≤ 2 ^ (64 - (h + 1)) * 2 ^ (h + 1) := Nat.mul_le_mul_right _ b3
    _ = 2 ^ 64 := by rw [← Nat.pow_add]; congr 1; omega

/-- The field written reads back. -/
theorem Word.fld_putFld (w : Word) (h l v : Nat) (hl : l ≤ h) (hh : h ≤ 63) :
    Word.fld (Word.putFld w h l v) h l = v % 2 ^ (h + 1 - l) := by
  have e : h + 1 = l + (h + 1 - l) := by omega
  have b1 : w.toNat % 2 ^ l < 2 ^ l := Nat.mod_lt _ (Nat.two_pow_pos _)
  unfold Word.fld bits
  rw [Nat.shiftRight_eq_div_pow, Word.toNat_putFld w h l v hl hh]
  have e1 : w.toNat % 2 ^ l + v % 2 ^ (h + 1 - l) * 2 ^ l + w.toNat / 2 ^ (h + 1) * 2 ^ (h + 1) =
      w.toNat % 2 ^ l + 2 ^ l * (v % 2 ^ (h + 1 - l) + 2 ^ (h + 1 - l) * (w.toNat / 2 ^ (h + 1))) := by
    have : 2 ^ (h + 1) = 2 ^ l * 2 ^ (h + 1 - l) := by rw [← Nat.pow_add]; congr 1
    generalize w.toNat / 2 ^ (h + 1) = z
    rw [this]; simp only [Nat.add_mul, Nat.mul_add, Nat.one_mul, Nat.mul_comm, Nat.mul_left_comm, Nat.add_comm, Nat.add_left_comm, Nat.add_assoc]
  rw [e1, Nat.add_mul_div_left _ _ (Nat.two_pow_pos _), Nat.div_eq_of_lt b1, Nat.zero_add, Nat.add_mul_mod_self_left, Nat.mod_mod]

/-- A field above the one written stays. -/
theorem Word.fld_putFld_above (w : Word) (h l v h' l' : Nat) (hl : l ≤ h) (hh : h ≤ 63) (hd : h < l') :
    Word.fld (Word.putFld w h l v) h' l' = Word.fld w h' l' := by
  unfold Word.fld bits
  rw [Nat.shiftRight_eq_div_pow, Nat.shiftRight_eq_div_pow, Word.toNat_putFld w h l v hl hh]
  have e : l' = (h + 1) + (l' - (h + 1)) := by omega
  have e' : ∀ a : Nat, a / 2 ^ l' = a / 2 ^ (h + 1) / 2 ^ (l' - (h + 1)) := by
    intro a
    rw [Nat.div_div_eq_div_mul, ← Nat.pow_add, ← e]
  rw [e', e' w.toNat]
  congr 2
  have hv : v % 2 ^ (h + 1 - l) < 2 ^ (h + 1 - l) := Nat.mod_lt _ (Nat.two_pow_pos _)
  have b1 : w.toNat % 2 ^ l < 2 ^ l := Nat.mod_lt _ (Nat.two_pow_pos _)
  have b2 : w.toNat % 2 ^ l + v % 2 ^ (h + 1 - l) * 2 ^ l < 2 ^ (h + 1) := by
    calc w.toNat % 2 ^ l + v % 2 ^ (h + 1 - l) * 2 ^ l < 2 ^ l + v % 2 ^ (h + 1 - l) * 2 ^ l := by omega
      _ = (v % 2 ^ (h + 1 - l) + 1) * 2 ^ l := by simp only [Nat.add_mul, Nat.mul_add, Nat.one_mul, Nat.mul_comm, Nat.mul_left_comm, Nat.add_comm, Nat.add_left_comm, Nat.add_assoc]
      _ ≤ 2 ^ (h + 1 - l) * 2 ^ l := Nat.mul_le_mul_right _ hv
      _ = 2 ^ (h + 1) := by rw [← Nat.pow_add]; congr 1; omega
  rw [Nat.add_mul_div_right _ _ (Nat.two_pow_pos _), Nat.div_eq_of_lt b2, Nat.zero_add]

/-- A field below the one written stays. -/
theorem Word.fld_putFld_below (w : Word) (h l v h' l' : Nat) (hl : l ≤ h) (hh : h ≤ 63) (hd : h' < l) :
    Word.fld (Word.putFld w h l v) h' l' = Word.fld w h' l' := by
  unfold Word.fld bits
  rw [Nat.shiftRight_eq_div_pow, Nat.shiftRight_eq_div_pow, Word.toNat_putFld w h l v hl hh]
  rcases Nat.lt_or_ge h' l' with hx | hx
  · have : h' + 1 - l' = 0 := by omega
    rw [this]; simp [Nat.mod_one]
  · have e : l = l' + (h' + 1 - l') + (l - (h' + 1)) := by omega
    have key : ∀ a : Nat, a / 2 ^ l' % 2 ^ (h' + 1 - l') = a % 2 ^ l / 2 ^ l' % 2 ^ (h' + 1 - l') := by
      intro a
      rw [e, Nat.pow_add, Nat.pow_add, Nat.mul_assoc, Nat.mod_mul_right_div_self, Nat.mod_mul_right_mod]
    have hl2 : 2 ^ (h + 1) = 2 ^ l * 2 ^ (h + 1 - l) := by rw [← Nat.pow_add]; congr 1; omega
    have e2 : ∀ z : Nat, w.toNat % 2 ^ l + v % 2 ^ (h + 1 - l) * 2 ^ l + z * 2 ^ (h + 1) =
        w.toNat % 2 ^ l + 2 ^ l * (v % 2 ^ (h + 1 - l) + z * 2 ^ (h + 1 - l)) := by intro z; rw [hl2]; simp only [Nat.add_mul, Nat.mul_add, Nat.one_mul, Nat.mul_comm, Nat.mul_left_comm, Nat.add_comm, Nat.add_left_comm, Nat.add_assoc]
    rw [key (_ + _), key w.toNat, e2, Nat.add_mul_mod_self_left, Nat.mod_mod]

@[simp] theorem State.rfld_setFld_same (s : State) (o h l v : Nat) (hl : l ≤ h) (hh : h ≤ 63) :
    (s.setFld o h l v).rfld o h l = v % 2 ^ (h + 1 - l) := by
  simp [State.rfld, State.reg_setFld, Word.fld_putFld _ _ _ _ hl hh]

theorem State.rfld_setFld_other (s : State) (o o' h l v h' l' : Nat) (ho : o' ≠ o) :
    (s.setFld o h l v).rfld o' h' l' = s.rfld o' h' l' := by
  simp [State.rfld, State.reg_setFld, ho]

@[simp] theorem State.rfld_setBit_same (s : State) (o b : Nat) (hb : b ≤ 63) : (s.setBit o b).rfld o b b = 1 := by
  unfold State.setBit
  rw [State.rfld_setFld_same _ _ _ _ _ (Nat.le_refl b) hb]
  have : b + 1 - b = 1 := by omega
  rw [this, Nat.mod_eq_of_lt (by decide)]

@[simp] theorem State.rfld_clearBit_same (s : State) (o b : Nat) (hb : b ≤ 63) : (s.clearBit o b).rfld o b b = 0 := by
  unfold State.clearBit
  rw [State.rfld_setFld_same _ _ _ _ _ (Nat.le_refl b) hb, Nat.zero_mod]

/-- What every step of a fold leaves alone, the fold leaves alone. -/
theorem State.foldl_proj {α β : Type} (g : State → β) (f : State → α → State) (h : ∀ s a, g (f s a) = g s) (l : List α) (s : State) :
    g (l.foldl f s) = g s := by
  induction l generalizing s with
  | nil => rfl
  | cons a l ih => rw [List.foldl_cons, ih, h]

/-! Error events. -/

/-- What an error event may change: `t` is `s` but for registers, journal, fault state, pins, slots and what went out. -/
def EventOnly (s t : State) : Prop :=
  t = { s with out := t.out, regs := t.regs, jobs := t.jobs, journal := t.journal, faults := t.faults, pins := t.pins }

theorem EventOnly.refl (s : State) : EventOnly s s := rfl

theorem EventOnly.trans {s t u : State} (h : EventOnly s t) (k : EventOnly t u) : EventOnly s u := by
  unfold EventOnly at *
  rw [k, h]

theorem EventOnly.setReg (s : State) (o : Nat) (v : Word) : EventOnly s (s.setReg o v) := rfl

theorem EventOnly.pins (s : State) (p : PinState) : EventOnly s { s with pins := p } := rfl

theorem EventOnly.faults (s : State) (f : FaultState) : EventOnly s { s with faults := f } := rfl

theorem EventOnly.updJob (s : State) (i : Nat) (f : JobSlot → JobSlot) : EventOnly s (s.updJob i f) := rfl

theorem EventOnly.ite {s a b : State} {c : Prop} [Decidable c] (ha : EventOnly s a) (hb : EventOnly s b) :
    EventOnly s (if c then a else b) := by split <;> assumption

theorem EventOnly.inc (s : State) (o n : Nat) : EventOnly s (s.inc o n) := by
  unfold State.inc
  split
  · exact .refl _
  · rfl

theorem EventOnly.setRegs (l : List Word) (s : State) (o : Nat) : EventOnly s (s.setRegs o l) := by
  induction l generalizing s o with
  | nil => exact .refl _
  | cons a l ih => exact (EventOnly.setReg s o a).trans (ih _ _)

theorem EventOnly.jqueue (s : State) (e : JEntry) : EventOnly s (s.jqueue e) := by
  unfold State.jqueue
  dsimp only
  split
  · rfl
  · split <;> rfl

theorem EventOnly.raiseInt (s : State) (v : Nat) : EventOnly s (s.raiseInt v) := by
  unfold State.raiseInt
  split
  · exact .refl _
  · dsimp only
    split <;> rfl

theorem EventOnly.refreshPins (s : State) : EventOnly s s.refreshPins := by
  unfold State.refreshPins
  dsimp only
  split
  · exact .refl _
  · rfl

theorem EventOnly.writeRecord (s : State) (e : ErrInfo) : EventOnly s (s.writeRecord e) := by
  unfold State.writeRecord
  dsimp only
  generalize s.recordWords e _ = ws
  have h1 := EventOnly.setRegs ws s (0x240000 + 64 * (s.regN (faultReg 8) % 4096))
  generalize s.setRegs _ ws = s1 at h1 ⊢
  have h2 := h1.trans (EventOnly.setReg s1 (faultReg 8) (BitVec.ofNat 64 (s.regN (faultReg 8) + 1)))
  generalize s1.setReg _ _ = s2 at h2 ⊢
  have h3 : EventOnly s (if s2.regN (faultReg 0x10) + 4096 < s.regN (faultReg 8) + 1 then
      s2.setReg (faultReg 0x10) (BitVec.ofNat 64 (s.regN (faultReg 8) + 1 - 4096)) else s2) :=
    .ite (h2.trans (EventOnly.setReg _ _ _)) h2
  generalize (if s2.regN (faultReg 0x10) + 4096 < s.regN (faultReg 8) + 1 then _ else s2) = s3 at h3 ⊢
  have h5 := ((h3.trans (EventOnly.jqueue s3 ⟨7, ws⟩)).trans (EventOnly.raiseInt _ 0)).trans
    (EventOnly.setReg _ faultStatus (Word.putFld (((s3.jqueue ⟨7, ws⟩).raiseInt 0).reg faultStatus) 0 0 1))
  change EventOnly s (((s3.jqueue ⟨7, ws⟩).raiseInt 0).setBit faultStatus 0) at h5
  generalize ((s3.jqueue ⟨7, ws⟩).raiseInt 0).setBit faultStatus 0 = s5 at h5 ⊢
  have h6 : EventOnly s (if (s5.faults.flintPoint.isSome && [1, 2, 3, 8].contains (e.code / 256)) = true then
      { s5 with faults := { s5.faults with flintFailed := true } } else s5) :=
    .ite (h5.trans (EventOnly.faults _ _)) h5
  generalize (if (s5.faults.flintPoint.isSome && [1, 2, 3, 8].contains (e.code / 256)) = true then _ else s5) = s6 at h6 ⊢
  have h7 : EventOnly s ((s6.setFld (faultReg 0x50) 31 16 e.code).setFld (faultReg 0x50) 63 32 (s.regN (faultReg 8) % 2 ^ 32)) :=
    (h6.trans (EventOnly.setReg _ _ _)).trans (EventOnly.setReg _ _ _)
  generalize (s6.setFld (faultReg 0x50) 31 16 e.code).setFld (faultReg 0x50) 63 32 (s.regN (faultReg 8) % 2 ^ 32) = s7 at h7 ⊢
  exact EventOnly.ite (h7.trans (EventOnly.pins _ _)) h6

theorem EventOnly.quarantine (s : State) (c : Nat) : EventOnly s (s.quarantine c) := by
  unfold State.quarantine
  split
  · exact .refl _
  · dsimp only
    refine EventOnly.trans (EventOnly.trans (EventOnly.trans ?_ (EventOnly.setReg _ _ _)) (EventOnly.updJob _ _ _)) (EventOnly.refreshPins _)
    exact EventOnly.trans (EventOnly.writeRecord s _) (EventOnly.jqueue _ _)

theorem EventOnly.strike (s : State) (c : Nat) : EventOnly s (s.strike c) := by
  unfold State.strike State.expireStrikes
  dsimp only
  have h : ∀ l : List (Nat × Nat), EventOnly s (State.setBit { s with faults := { s.faults with strikes := l } } faultStatus 1) :=
    fun l => EventOnly.trans (EventOnly.faults s _) (EventOnly.setReg _ _ _)
  split
  · exact EventOnly.trans (h _) (EventOnly.quarantine _ _)
  · exact h _

/-- An error event changes registers, slots' marks, the journal, the fault and pin state and what goes out, nothing else. -/
theorem EventOnly.raiseError (s : State) (e : ErrInfo) : EventOnly s (s.raiseError e) := by
  unfold State.raiseError
  have h : ∀ f : FaultState, EventOnly s (State.writeRecord { s with faults := f } e) :=
    fun f => EventOnly.trans (EventOnly.faults s f) (EventOnly.writeRecord _ e)
  refine EventOnly.ite (EventOnly.trans (EventOnly.faults s _) (EventOnly.inc _ _ _)) ?_
  exact EventOnly.ite ((h _).trans (EventOnly.strike _ _)) (h _)

/-- What an error event keeps besides: the registers outside the fault block, but HL_INT_STATUS, and of a slot everything but
its wish for a re-shard. -/
def EventKeeps (s t : State) : Prop :=
  (∀ o, o < 0x200000 ∨ 0x300000 ≤ o → o ≠ hlIntStatus → t.reg o = s.reg o) ∧
  ∀ i, t.job i = { s.job i with wantReshard := (t.job i).wantReshard }

theorem EventKeeps.refl (s : State) : EventKeeps s s := ⟨fun _ _ _ => rfl, fun _ => rfl⟩

theorem EventKeeps.trans {s t u : State} (h : EventKeeps s t) (k : EventKeeps t u) : EventKeeps s u := by
  refine ⟨fun o h1 h2 => (k.1 o h1 h2).trans (h.1 o h1 h2), fun i => ?_⟩
  rw [k.2 i, h.2 i]

theorem EventKeeps.of_fields {s t : State} (h : t.regs = s.regs) (k : t.jobs = s.jobs) : EventKeeps s t := by
  refine ⟨fun o _ _ => by simp [State.reg, h], fun i => ?_⟩
  have : t.job i = s.job i := by simp [State.job, k]
  rw [this]

theorem EventKeeps.setReg (s : State) (o : Nat) (v : Word) (h : (0x200000 ≤ o ∧ o < 0x300000) ∨ o = hlIntStatus) :
    EventKeeps s (s.setReg o v) := by
  refine ⟨fun p h1 h2 => ?_, fun i => rfl⟩
  rw [State.reg_setReg, if_neg]
  rintro rfl
  rcases h with h | h
  · omega
  · exact h2 h

theorem EventKeeps.inc (s : State) (o n : Nat) (h : (0x200000 ≤ o ∧ o < 0x300000) ∨ o = hlIntStatus) : EventKeeps s (s.inc o n) := by
  unfold State.inc
  split
  · exact .refl _
  · exact .setReg _ _ _ h

theorem EventKeeps.setRegs (l : List Word) (s : State) (o : Nat) (h : 0x200000 ≤ o) (k : o + 8 * l.length ≤ 0x300000) :
    EventKeeps s (s.setRegs o l) := by
  induction l generalizing s o with
  | nil => exact .refl _
  | cons a l ih =>
    rw [List.length_cons] at k
    exact (EventKeeps.setReg s o a (Or.inl ⟨h, by omega⟩)).trans (ih _ _ (by omega) (by omega))

theorem EventKeeps.ite {s a b : State} {c : Prop} [Decidable c] (ha : EventKeeps s a) (hb : EventKeeps s b) :
    EventKeeps s (if c then a else b) := by split <;> assumption

theorem EventKeeps.jqueue (s : State) (e : JEntry) : EventKeeps s (s.jqueue e) := by
  refine .of_fields ?_ ?_ <;> unfold State.jqueue <;> dsimp only <;> split <;> try rfl
  all_goals split <;> rfl

theorem EventKeeps.raiseInt (s : State) (v : Nat) : EventKeeps s (s.raiseInt v) := by
  unfold State.raiseInt
  refine .ite (.refl _) ?_
  have h : EventKeeps s (s.setBit hlIntStatus v) := EventKeeps.setReg _ _ _ (Or.inr rfl)
  exact .ite (h.trans (.of_fields rfl rfl)) h

theorem EventKeeps.refreshPins (s : State) : EventKeeps s s.refreshPins := by
  unfold State.refreshPins
  exact .ite (.refl _) (.of_fields rfl rfl)

theorem EventKeeps.writeRecord (s : State) (e : ErrInfo) : EventKeeps s (s.writeRecord e) := by
  unfold State.writeRecord
  dsimp only
  have hlen : (s.recordWords e (s.regN (faultReg 8))).length = 8 := rfl
  generalize s.recordWords e _ = ws at hlen ⊢
  have h1 := EventKeeps.setRegs ws s (0x240000 + 64 * (s.regN (faultReg 8) % 4096)) (by omega) (by omega)
  generalize s.setRegs _ ws = s1 at h1 ⊢
  have h2 := h1.trans (EventKeeps.setReg s1 (faultReg 8) (BitVec.ofNat 64 (s.regN (faultReg 8) + 1)) (Or.inl (by decide)))
  generalize s1.setReg _ _ = s2 at h2 ⊢
  have h3 : EventKeeps s (if s2.regN (faultReg 0x10) + 4096 < s.regN (faultReg 8) + 1 then
      s2.setReg (faultReg 0x10) (BitVec.ofNat 64 (s.regN (faultReg 8) + 1 - 4096)) else s2) :=
    .ite (h2.trans (EventKeeps.setReg _ _ _ (Or.inl (by decide)))) h2
  generalize (if s2.regN (faultReg 0x10) + 4096 < s.regN (faultReg 8) + 1 then _ else s2) = s3 at h3 ⊢
  have h5 := ((h3.trans (EventKeeps.jqueue s3 ⟨7, ws⟩)).trans (EventKeeps.raiseInt _ 0)).trans
    (EventKeeps.setReg _ faultStatus (Word.putFld (((s3.jqueue ⟨7, ws⟩).raiseInt 0).reg faultStatus) 0 0 1) (Or.inl (by decide)))
  change EventKeeps s (((s3.jqueue ⟨7, ws⟩).raiseInt 0).setBit faultStatus 0) at h5
  generalize ((s3.jqueue ⟨7, ws⟩).raiseInt 0).setBit faultStatus 0 = s5 at h5 ⊢
  have h6 : EventKeeps s (if (s5.faults.flintPoint.isSome && [1, 2, 3, 8].contains (e.code / 256)) = true then
      { s5 with faults := { s5.faults with flintFailed := true } } else s5) :=
    .ite (h5.trans (.of_fields rfl rfl)) h5
  generalize (if (s5.faults.flintPoint.isSome && [1, 2, 3, 8].contains (e.code / 256)) = true then _ else s5) = s6 at h6 ⊢
  have h7 : EventKeeps s ((s6.setFld (faultReg 0x50) 31 16 e.code).setFld (faultReg 0x50) 63 32 (s.regN (faultReg 8) % 2 ^ 32)) :=
    (h6.trans (EventKeeps.setReg _ _ _ (Or.inl (by decide)))).trans (EventKeeps.setReg _ _ _ (Or.inl (by decide)))
  generalize (s6.setFld (faultReg 0x50) 31 16 e.code).setFld (faultReg 0x50) 63 32 (s.regN (faultReg 8) % 2 ^ 32) = s7 at h7 ⊢
  exact EventKeeps.ite (h7.trans (.of_fields rfl rfl)) h6

theorem EventKeeps.reshard (s : State) : EventKeeps s (s.updJob 0 (fun j => { j with wantReshard := true })) := by
  refine ⟨fun _ _ _ => rfl, fun i => ?_⟩
  simp only [State.job, State.updJob, SMap.getD_upd]
  split
  · rename_i h; subst h; rfl
  · rfl

theorem EventKeeps.quarantine (s : State) (c : Nat) : EventKeeps s (s.quarantine c) := by
  unfold State.quarantine
  refine EventKeeps.ite (.refl _) ?_
  refine EventKeeps.trans (EventKeeps.trans (EventKeeps.trans ?_ (EventKeeps.setReg _ faultStatus _ (Or.inl (by decide)))) (EventKeeps.reshard _)) (EventKeeps.refreshPins _)
  exact EventKeeps.trans (EventKeeps.writeRecord s _) (EventKeeps.jqueue _ _)

theorem EventKeeps.strike (s : State) (c : Nat) : EventKeeps s (s.strike c) := by
  unfold State.strike State.expireStrikes
  have h : ∀ l : List (Nat × Nat), EventKeeps s (State.setBit { s with faults := { s.faults with strikes := l } } faultStatus 1) := by
    intro l
    have h0 : EventKeeps s { s with faults := { s.faults with strikes := l } } := .of_fields rfl rfl
    exact h0.trans (EventKeeps.setReg _ _ _ (Or.inl (by decide)))
  exact EventKeeps.ite ((h _).trans (EventKeeps.quarantine _ _)) (h _)

/-- An error event keeps the registers outside the fault block, but HL_INT_STATUS, and the slots but for a wish to re-shard. -/
theorem EventKeeps.raiseError (s : State) (e : ErrInfo) : EventKeeps s (s.raiseError e) := by
  unfold State.raiseError
  have f0 : ∀ f : FaultState, EventKeeps s { s with faults := f } := fun _ => .of_fields rfl rfl
  have h : ∀ f : FaultState, EventKeeps s (State.writeRecord { s with faults := f } e) :=
    fun f => EventKeeps.trans (f0 f) (EventKeeps.writeRecord _ e)
  refine EventKeeps.ite (EventKeeps.trans (f0 _) (EventKeeps.inc _ _ _ (Or.inl (by decide)))) ?_
  exact EventKeeps.ite ((h _).trans (EventKeeps.strike _ _)) (h _)

theorem State.reg_raiseError (s : State) (e : ErrInfo) (o : Nat) (h : o < 0x200000 ∨ 0x300000 ≤ o) (k : o ≠ hlIntStatus) :
    (s.raiseError e).reg o = s.reg o := (EventKeeps.raiseError s e).1 o h k

theorem State.job_raiseError (s : State) (e : ErrInfo) (i : Nat) :
    (s.raiseError e).job i = { s.job i with wantReshard := ((s.raiseError e).job i).wantReshard } := (EventKeeps.raiseError s e).2 i

@[simp] theorem State.raiseError_staged (s : State) (e : ErrInfo) : (s.raiseError e).staged = s.staged := by
  have h := EventOnly.raiseError s e; rw [EventOnly] at h; rw [h]
@[simp] theorem State.raiseError_freeCtr (s : State) (e : ErrInfo) : (s.raiseError e).freeCtr = s.freeCtr := by
  have h := EventOnly.raiseError s e; rw [EventOnly] at h; rw [h]
@[simp] theorem State.raiseError_memErr (s : State) (e : ErrInfo) : (s.raiseError e).memErr = s.memErr := by
  have h := EventOnly.raiseError s e; rw [EventOnly] at h; rw [h]
@[simp] theorem State.raiseError_controllers (s : State) (e : ErrInfo) : (s.raiseError e).controllers = s.controllers := by
  have h := EventOnly.raiseError s e; rw [EventOnly] at h; rw [h]
@[simp] theorem State.raiseError_slate (s : State) (e : ErrInfo) : (s.raiseError e).slate = s.slate := by
  have h := EventOnly.raiseError s e; rw [EventOnly] at h; rw [h]
@[simp] theorem State.raiseError_inbox (s : State) (e : ErrInfo) : (s.raiseError e).inbox = s.inbox := by
  have h := EventOnly.raiseError s e; rw [EventOnly] at h; rw [h]
@[simp] theorem State.raiseError_router (s : State) (e : ErrInfo) : (s.raiseError e).router = s.router := by
  have h := EventOnly.raiseError s e; rw [EventOnly] at h; rw [h]
@[simp] theorem State.raiseError_collectives (s : State) (e : ErrInfo) : (s.raiseError e).collectives = s.collectives := by
  have h := EventOnly.raiseError s e; rw [EventOnly] at h; rw [h]
@[simp] theorem State.raiseError_ports (s : State) (e : ErrInfo) : (s.raiseError e).ports = s.ports := by
  have h := EventOnly.raiseError s e; rw [EventOnly] at h; rw [h]
@[simp] theorem State.raiseError_lasers (s : State) (e : ErrInfo) : (s.raiseError e).lasers = s.lasers := by
  have h := EventOnly.raiseError s e; rw [EventOnly] at h; rw [h]
@[simp] theorem State.raiseError_fabric (s : State) (e : ErrInfo) : (s.raiseError e).fabric = s.fabric := by
  have h := EventOnly.raiseError s e; rw [EventOnly] at h; rw [h]
@[simp] theorem State.raiseError_link (s : State) (e : ErrInfo) : (s.raiseError e).link = s.link := by
  have h := EventOnly.raiseError s e; rw [EventOnly] at h; rw [h]
@[simp] theorem State.raiseError_image (s : State) (e : ErrInfo) : (s.raiseError e).image = s.image := by
  have h := EventOnly.raiseError s e; rw [EventOnly] at h; rw [h]
@[simp] theorem State.raiseError_cfg (s : State) (e : ErrInfo) : (s.raiseError e).cfg = s.cfg := by
  have h := EventOnly.raiseError s e; rw [EventOnly] at h; rw [h]
@[simp] theorem State.raiseError_start (s : State) (e : ErrInfo) : (s.raiseError e).start = s.start := by
  have h := EventOnly.raiseError s e; rw [EventOnly] at h; rw [h]
@[simp] theorem State.raiseError_pace (s : State) (e : ErrInfo) : (s.raiseError e).pace = s.pace := by
  have h := EventOnly.raiseError s e; rw [EventOnly] at h; rw [h]
@[simp] theorem State.raiseError_cores (s : State) (e : ErrInfo) : (s.raiseError e).cores = s.cores := by
  have h := EventOnly.raiseError s e; rw [EventOnly] at h; rw [h]
@[simp] theorem State.raiseError_mem (s : State) (e : ErrInfo) : (s.raiseError e).mem = s.mem := by
  have h := EventOnly.raiseError s e; rw [EventOnly] at h; rw [h]
@[simp] theorem State.raiseError_pending (s : State) (e : ErrInfo) : (s.raiseError e).pending = s.pending := by
  have h := EventOnly.raiseError s e; rw [EventOnly] at h; rw [h]
@[simp] theorem State.raiseError_fuses (s : State) (e : ErrInfo) : (s.raiseError e).fuses = s.fuses := by
  have h := EventOnly.raiseError s e; rw [EventOnly] at h; rw [h]
@[simp] theorem State.port_raiseError (s : State) (e : ErrInfo) (p : Nat) : (s.raiseError e).port p = s.port p := by
  simp [State.port]
@[simp] theorem State.core_raiseError (s : State) (e : ErrInfo) (c : Nat) : (s.raiseError e).core c = s.core c := by
  simp [State.core]
@[simp] theorem State.mc_raiseError (s : State) (e : ErrInfo) (c : Nat) : (s.raiseError e).mc c = s.mc c := by simp [State.mc]
@[simp] theorem State.ring_raiseError (s : State) (e : ErrInfo) (r : Nat) : (s.raiseError e).ring r = s.ring r := by
  simp [State.ring]
@[simp] theorem State.cfgV_raiseError (s : State) (e : ErrInfo) (w x y z : Nat) : (s.raiseError e).cfgV w x y z = s.cfgV w x y z := by
  simp [State.cfgV]

end Sys2Proof.Machine
end

