-- ==== Sys2Proof/Laws/UnitCommands.lean ====
section
/-! SUPPORT. What the commands of the core units keep, which a re-execution runs again. -/

namespace Sys2Proof.Machine

open Sys2Proof

theorem maHold_store (c a : Nat) (q : QEntry) (s t : State) (h : maHold c a q s = some t) : t.store = s.store := by
  unfold maHold at h
  dsimp only at h
  repeat' split at h
  all_goals cases h
  all_goals simp
theorem bagScanHold_store (c slot : Nat) (l : List SampleRef) (q : QEntry) (s t : State) (h : bagScanHold c slot l q s = some t) :
    t.store = s.store :=
  stallHold_rule _ _ _ _ _ _ _ _ (fun x => x = s.store) rfl (fun t ht => by split at ht <;> cases ht; rfl) h
theorem respExpandHold_store (c slot : Nat) (q : QEntry) (s t : State) (h : respExpandHold c slot q s = some t) : t.store = s.store :=
  stallHold_rule _ _ _ _ _ _ _ _ (fun x => x = s.store) rfl (fun t ht => by split at ht <;> cases ht; rfl) h
theorem gradScanHold_store (c slot : Nat) (q : QEntry) (s t : State) (h : gradScanHold c slot q s = some t) : t.store = s.store :=
  stallHold_rule _ _ _ _ _ _ _ _ (fun x => x = s.store) rfl (fun t ht => by cases ht) h
theorem gradFlushHold_store (c slot : Nat) (q : QEntry) (s t : State) (h : gradFlushHold c slot q s = some t) : t.store = s.store :=
  stallHold_rule _ _ _ _ _ _ _ _ (fun x => x = s.store) rfl (fun t ht => by cases ht) h
theorem gatherHold_store (c slot : Nat) (q : QEntry) (s t : State) (h : gatherHold c slot q s = some t) : t.store = s.store :=
  stallHold_rule _ _ _ _ _ _ _ _ (fun x => x = s.store) rfl (fun t ht => by cases ht) h
theorem collHold_store (c slot op : Nat) (q : QEntry) (s t : State) (h : collHold c slot op q s = some t) : t.store = s.store :=
  stallHold_rule _ _ _ _ _ _ _ _ (fun x => x = s.store) rfl (fun t ht => State.creditHold_store _ _ _ _ ht) h
theorem exchCloseHold_store (c slot : Nat) (q : QEntry) (s t : State) (h : exchCloseHold c slot q s = some t) : t.store = s.store := by
  unfold exchCloseHold at h
  split at h
  · cases h
  · split at h
    · cases h; rfl
    · exact State.creditHold_store _ _ _ _ h
theorem gradMergeHold_store (c slot : Nat) (q : QEntry) (s t : State) (h : gradMergeHold c slot q s = some t) : t.store = s.store :=
  State.creditHold_store _ _ _ _ h
theorem keyMergeHold_rule (c slot : Nat) (q : QEntry) (s t : State) (P : Store → Prop) (hs : P s.store)
    (ha : ∀ n, P (s.askChunk c slot n).store) (h : keyMergeHold c slot q s = some t) : P t.store :=
  stallHold_rule _ _ _ _ _ _ _ _ P hs (fun t ht => by
    dsimp only at ht
    split at ht
    · rw [State.creditHold_store _ _ _ _ ht]; exact hs
    · cases ht; exact ha _) h
theorem keyMergeHold_inv (c slot : Nat) (q : QEntry) (s t : State) (h : keyMergeHold c slot q s = some t) (hi : s.store.Inv) : t.store.Inv :=
  keyMergeHold_rule c slot q s t Store.Inv hi (fun n => by simp [State.askChunk, hi]) h
theorem keyMergeHold_kept (c slot : Nat) (q : QEntry) (s t : State) (h : keyMergeHold c slot q s = some t) : t.store.kept = s.store.kept :=
  keyMergeHold_rule c slot q s t (fun x => x.kept = s.store.kept) rfl (fun n => by simp [State.askChunk]) h
@[simp] theorem laneVe_sound (op : LaneOp) (useZ every : Bool) (cost : Nat) : (laneVe op useZ every cost).Sound :=
  fun v cs h => veElementwise_ok op every v cs h
@[simp] theorem add64Ve_sound : add64Ve.Sound := fun v cs h => veAdd64_ok v cs h
@[simp] theorem softmaxVe_sound : softmaxVe.Sound := fun v cs h => veSoftmax_ok v cs h
@[simp] theorem toSbVe_sound : toSbVe.Sound := fun v cs h => veToSB_ok v cs h
@[simp] theorem fromSbVe_sound : fromSbVe.Sound := fun v cs h => veFromSB_ok v cs h
@[simp] theorem bi32Ve_sound : bi32Ve.Sound := fun v cs h => veBI32_ok v cs h
theorem execPass_kept (c : CoreId) (a : ArrayId) (sl : SlotId) (s : State) : (stateAfter s (execPass c a sl s)).store.kept = s.store.kept := by unfold execPass stateAfter; exact State.startEntry_kept _ _ _ _ _ _ _ _ _ (fun q t ht => (by rw [maHold_store _ _ _ _ _ ht])) (fun q t => by simp)
theorem execPass_inv (c : CoreId) (a : ArrayId) (sl : SlotId) (s : State) (h : s.store.Inv) : (stateAfter s (execPass c a sl s)).store.Inv := by unfold execPass stateAfter; exact State.startEntry_inv _ _ _ _ _ _ _ _ _ h (fun q t ht => (by rw [maHold_store _ _ _ _ _ ht]; exact h)) (fun q t ht => by simp [ht])
theorem execClear_kept (c : CoreId) (a : ArrayId) (sl : SlotId) (s : State) : (stateAfter s (execClear c a sl s)).store.kept = s.store.kept := by unfold execClear stateAfter; exact State.startEntry_kept _ _ _ _ _ _ _ _ _ (fun q t ht => (by rw [maHold_store _ _ _ _ _ ht])) (fun q t => by simp)
theorem execClear_inv (c : CoreId) (a : ArrayId) (sl : SlotId) (s : State) (h : s.store.Inv) : (stateAfter s (execClear c a sl s)).store.Inv := by unfold execClear stateAfter; exact State.startEntry_inv _ _ _ _ _ _ _ _ _ h (fun q t ht => (by rw [maHold_store _ _ _ _ _ ht]; exact h)) (fun q t ht => by simp [ht])
theorem execDrain_kept (c : CoreId) (a : ArrayId) (sl : SlotId) (s : State) : (stateAfter s (execDrain c a sl s)).store.kept = s.store.kept := by unfold execDrain stateAfter; exact State.startEntry_kept _ _ _ _ _ _ _ _ _ (fun q t ht => (by rw [maHold_store _ _ _ _ _ ht])) (fun q t => by simp)
theorem execDrain_inv (c : CoreId) (a : ArrayId) (sl : SlotId) (s : State) (h : s.store.Inv) : (stateAfter s (execDrain c a sl s)).store.Inv := by unfold execDrain stateAfter; exact State.startEntry_inv _ _ _ _ _ _ _ _ _ h (fun q t ht => (by rw [maHold_store _ _ _ _ _ ht]; exact h)) (fun q t ht => by simp [ht])
/-- R70: where there is room for an array's tile, the queues keep their sizes with it. -/
theorem tqWithin_push (tq : List TileEntry) (te : TileEntry) (a : ArrayId) (ha : te.producer = a.val) (h : tqWithin tq)
    (hr : tqRoom tq a.val = true) : tqWithin (tq ++ [te]) := by
  unfold tqWithin tqRoom at *
  simp only [← List.countP_eq_length_filter, Bool.or_eq_true, decide_eq_true_eq] at hr
  simp only [List.countP_append, List.countP_singleton, decide_eq_true_eq, ha]
  match a with
  | ⟨0, _⟩ => simp at hr ⊢; omega
  | ⟨1, _⟩ => simp at hr ⊢; omega
theorem execTileDrain_inv (c : CoreId) (a : ArrayId) (s : State) (h : s.store.Inv) :
    (stateAfter s (execTileDrain c a s)).store.Inv := by
  unfold execTileDrain stateAfter
  dsimp only
  split
  · exact h
  · split
    · exact h
    · split
      · exact State.inv_updCore _ _ _ (by simpa using h) (fun k hk => hk)
      · rename_i hr
        split
        · simp [h]
        · refine State.inv_updCore_at _ _ _ h (fun hk => ?_)
          refine ⟨hk.1, hk.2.1, tqWithin_push _ _ a rfl hk.2.2.1 ?_, hk.2.2.2⟩
          simpa using hr
theorem execTileDrain_kept (c : CoreId) (a : ArrayId) (s : State) : (stateAfter s (execTileDrain c a s)).store.kept = s.store.kept := by
  unfold execTileDrain stateAfter
  dsimp only
  (repeat' split) <;> simp +zetaDelta
theorem execVeAdd_kept (c : CoreId) (sl : SlotId) (s : State) : (stateAfter s (execVeAdd c sl s)).store.kept = s.store.kept := by simp [execVeAdd, stateAfter]
theorem execVeAdd_inv (c : CoreId) (sl : SlotId) (s : State) (h : s.store.Inv) : (stateAfter s (execVeAdd c sl s)).store.Inv := by simp [execVeAdd, stateAfter, h]
theorem execVeSub_kept (c : CoreId) (sl : SlotId) (s : State) : (stateAfter s (execVeSub c sl s)).store.kept = s.store.kept := by simp [execVeSub, stateAfter]
theorem execVeSub_inv (c : CoreId) (sl : SlotId) (s : State) (h : s.store.Inv) : (stateAfter s (execVeSub c sl s)).store.Inv := by simp [execVeSub, stateAfter, h]
theorem execVeMul_kept (c : CoreId) (sl : SlotId) (s : State) : (stateAfter s (execVeMul c sl s)).store.kept = s.store.kept := by simp [execVeMul, stateAfter]
theorem execVeMul_inv (c : CoreId) (sl : SlotId) (s : State) (h : s.store.Inv) : (stateAfter s (execVeMul c sl s)).store.Inv := by simp [execVeMul, stateAfter, h]
theorem execAxpy_kept (c : CoreId) (sl : SlotId) (s : State) : (stateAfter s (execAxpy c sl s)).store.kept = s.store.kept := by simp [execAxpy, stateAfter]
theorem execAxpy_inv (c : CoreId) (sl : SlotId) (s : State) (h : s.store.Inv) : (stateAfter s (execAxpy c sl s)).store.Inv := by simp [execAxpy, stateAfter, h]
theorem execVeDiv_kept (c : CoreId) (sl : SlotId) (s : State) : (stateAfter s (execVeDiv c sl s)).store.kept = s.store.kept := by simp [execVeDiv, stateAfter]
theorem execVeDiv_inv (c : CoreId) (sl : SlotId) (s : State) (h : s.store.Inv) : (stateAfter s (execVeDiv c sl s)).store.Inv := by simp [execVeDiv, stateAfter, h]
theorem execVeMin_kept (c : CoreId) (sl : SlotId) (s : State) : (stateAfter s (execVeMin c sl s)).store.kept = s.store.kept := by simp [execVeMin, stateAfter]
theorem execVeMin_inv (c : CoreId) (sl : SlotId) (s : State) (h : s.store.Inv) : (stateAfter s (execVeMin c sl s)).store.Inv := by simp [execVeMin, stateAfter, h]
theorem execVeMax_kept (c : CoreId) (sl : SlotId) (s : State) : (stateAfter s (execVeMax c sl s)).store.kept = s.store.kept := by simp [execVeMax, stateAfter]
theorem execVeMax_inv (c : CoreId) (sl : SlotId) (s : State) (h : s.store.Inv) : (stateAfter s (execVeMax c sl s)).store.Inv := by simp [execVeMax, stateAfter, h]
theorem execVeAbs_kept (c : CoreId) (sl : SlotId) (s : State) : (stateAfter s (execVeAbs c sl s)).store.kept = s.store.kept := by simp [execVeAbs, stateAfter]
theorem execVeAbs_inv (c : CoreId) (sl : SlotId) (s : State) (h : s.store.Inv) : (stateAfter s (execVeAbs c sl s)).store.Inv := by simp [execVeAbs, stateAfter, h]
theorem execVeNeg_kept (c : CoreId) (sl : SlotId) (s : State) : (stateAfter s (execVeNeg c sl s)).store.kept = s.store.kept := by simp [execVeNeg, stateAfter]
theorem execVeNeg_inv (c : CoreId) (sl : SlotId) (s : State) (h : s.store.Inv) : (stateAfter s (execVeNeg c sl s)).store.Inv := by simp [execVeNeg, stateAfter, h]
theorem execSqrt_kept (c : CoreId) (sl : SlotId) (s : State) : (stateAfter s (execSqrt c sl s)).store.kept = s.store.kept := by simp [execSqrt, stateAfter]
theorem execSqrt_inv (c : CoreId) (sl : SlotId) (s : State) (h : s.store.Inv) : (stateAfter s (execSqrt c sl s)).store.Inv := by simp [execSqrt, stateAfter, h]
theorem execRsqrt_kept (c : CoreId) (sl : SlotId) (s : State) : (stateAfter s (execRsqrt c sl s)).store.kept = s.store.kept := by simp [execRsqrt, stateAfter]
theorem execRsqrt_inv (c : CoreId) (sl : SlotId) (s : State) (h : s.store.Inv) : (stateAfter s (execRsqrt c sl s)).store.Inv := by simp [execRsqrt, stateAfter, h]
theorem execVeExp_kept (c : CoreId) (sl : SlotId) (s : State) : (stateAfter s (execVeExp c sl s)).store.kept = s.store.kept := by simp [execVeExp, stateAfter]
theorem execVeExp_inv (c : CoreId) (sl : SlotId) (s : State) (h : s.store.Inv) : (stateAfter s (execVeExp c sl s)).store.Inv := by simp [execVeExp, stateAfter, h]
theorem execVeLog_kept (c : CoreId) (sl : SlotId) (s : State) : (stateAfter s (execVeLog c sl s)).store.kept = s.store.kept := by simp [execVeLog, stateAfter]
theorem execVeLog_inv (c : CoreId) (sl : SlotId) (s : State) (h : s.store.Inv) : (stateAfter s (execVeLog c sl s)).store.Inv := by simp [execVeLog, stateAfter, h]
theorem execSigmoid_kept (c : CoreId) (sl : SlotId) (s : State) : (stateAfter s (execSigmoid c sl s)).store.kept = s.store.kept := by simp [execSigmoid, stateAfter]
theorem execSigmoid_inv (c : CoreId) (sl : SlotId) (s : State) (h : s.store.Inv) : (stateAfter s (execSigmoid c sl s)).store.Inv := by simp [execSigmoid, stateAfter, h]
theorem execTanh_kept (c : CoreId) (sl : SlotId) (s : State) : (stateAfter s (execTanh c sl s)).store.kept = s.store.kept := by simp [execTanh, stateAfter]
theorem execTanh_inv (c : CoreId) (sl : SlotId) (s : State) (h : s.store.Inv) : (stateAfter s (execTanh c sl s)).store.Inv := by simp [execTanh, stateAfter, h]
theorem execCvt_kept (c : CoreId) (sl : SlotId) (s : State) : (stateAfter s (execCvt c sl s)).store.kept = s.store.kept := by simp [execCvt, stateAfter]
theorem execCvt_inv (c : CoreId) (sl : SlotId) (s : State) (h : s.store.Inv) : (stateAfter s (execCvt c sl s)).store.Inv := by unfold execCvt stateAfter; exact State.veTensor_inv _ _ _ _ _ (by simp) h
theorem execCmpLt_kept (c : CoreId) (sl : SlotId) (s : State) : (stateAfter s (execCmpLt c sl s)).store.kept = s.store.kept := by simp [execCmpLt, stateAfter]
theorem execCmpLt_inv (c : CoreId) (sl : SlotId) (s : State) (h : s.store.Inv) : (stateAfter s (execCmpLt c sl s)).store.Inv := by unfold execCmpLt stateAfter; exact State.veTensor_inv _ _ _ _ _ (by simp) h
theorem execCmpLe_kept (c : CoreId) (sl : SlotId) (s : State) : (stateAfter s (execCmpLe c sl s)).store.kept = s.store.kept := by simp [execCmpLe, stateAfter]
theorem execCmpLe_inv (c : CoreId) (sl : SlotId) (s : State) (h : s.store.Inv) : (stateAfter s (execCmpLe c sl s)).store.Inv := by unfold execCmpLe stateAfter; exact State.veTensor_inv _ _ _ _ _ (by simp) h
theorem execCmpEq_kept (c : CoreId) (sl : SlotId) (s : State) : (stateAfter s (execCmpEq c sl s)).store.kept = s.store.kept := by simp [execCmpEq, stateAfter]
theorem execCmpEq_inv (c : CoreId) (sl : SlotId) (s : State) (h : s.store.Inv) : (stateAfter s (execCmpEq c sl s)).store.Inv := by unfold execCmpEq stateAfter; exact State.veTensor_inv _ _ _ _ _ (by simp) h
theorem execCmpUn_kept (c : CoreId) (sl : SlotId) (s : State) : (stateAfter s (execCmpUn c sl s)).store.kept = s.store.kept := by simp [execCmpUn, stateAfter]
theorem execCmpUn_inv (c : CoreId) (sl : SlotId) (s : State) (h : s.store.Inv) : (stateAfter s (execCmpUn c sl s)).store.Inv := by unfold execCmpUn stateAfter; exact State.veTensor_inv _ _ _ _ _ (by simp) h
theorem execVeSelect_kept (c : CoreId) (sl : SlotId) (s : State) : (stateAfter s (execVeSelect c sl s)).store.kept = s.store.kept := by simp [execVeSelect, stateAfter]
theorem execVeSelect_inv (c : CoreId) (sl : SlotId) (s : State) (h : s.store.Inv) : (stateAfter s (execVeSelect c sl s)).store.Inv := by unfold execVeSelect stateAfter; exact State.veTensor_inv _ _ _ _ _ (by simp) h
theorem execIadd_kept (c : CoreId) (sl : SlotId) (s : State) : (stateAfter s (execIadd c sl s)).store.kept = s.store.kept := by simp [execIadd, stateAfter]
theorem execIadd_inv (c : CoreId) (sl : SlotId) (s : State) (h : s.store.Inv) : (stateAfter s (execIadd c sl s)).store.Inv := by simp [execIadd, stateAfter, h]
theorem execIsub_kept (c : CoreId) (sl : SlotId) (s : State) : (stateAfter s (execIsub c sl s)).store.kept = s.store.kept := by simp [execIsub, stateAfter]
theorem execIsub_inv (c : CoreId) (sl : SlotId) (s : State) (h : s.store.Inv) : (stateAfter s (execIsub c sl s)).store.Inv := by simp [execIsub, stateAfter, h]
theorem execIaddSat_kept (c : CoreId) (sl : SlotId) (s : State) : (stateAfter s (execIaddSat c sl s)).store.kept = s.store.kept := by simp [execIaddSat, stateAfter]
theorem execIaddSat_inv (c : CoreId) (sl : SlotId) (s : State) (h : s.store.Inv) : (stateAfter s (execIaddSat c sl s)).store.Inv := by simp [execIaddSat, stateAfter, h]
theorem execIsubSat_kept (c : CoreId) (sl : SlotId) (s : State) : (stateAfter s (execIsubSat c sl s)).store.kept = s.store.kept := by simp [execIsubSat, stateAfter]
theorem execIsubSat_inv (c : CoreId) (sl : SlotId) (s : State) (h : s.store.Inv) : (stateAfter s (execIsubSat c sl s)).store.Inv := by simp [execIsubSat, stateAfter, h]
theorem execUaddSat_kept (c : CoreId) (sl : SlotId) (s : State) : (stateAfter s (execUaddSat c sl s)).store.kept = s.store.kept := by simp [execUaddSat, stateAfter]
theorem execUaddSat_inv (c : CoreId) (sl : SlotId) (s : State) (h : s.store.Inv) : (stateAfter s (execUaddSat c sl s)).store.Inv := by simp [execUaddSat, stateAfter, h]
theorem execVeAnd_kept (c : CoreId) (sl : SlotId) (s : State) : (stateAfter s (execVeAnd c sl s)).store.kept = s.store.kept := by simp [execVeAnd, stateAfter]
theorem execVeAnd_inv (c : CoreId) (sl : SlotId) (s : State) (h : s.store.Inv) : (stateAfter s (execVeAnd c sl s)).store.Inv := by simp [execVeAnd, stateAfter, h]
theorem execVeOr_kept (c : CoreId) (sl : SlotId) (s : State) : (stateAfter s (execVeOr c sl s)).store.kept = s.store.kept := by simp [execVeOr, stateAfter]
theorem execVeOr_inv (c : CoreId) (sl : SlotId) (s : State) (h : s.store.Inv) : (stateAfter s (execVeOr c sl s)).store.Inv := by simp [execVeOr, stateAfter, h]
theorem execVeXor_kept (c : CoreId) (sl : SlotId) (s : State) : (stateAfter s (execVeXor c sl s)).store.kept = s.store.kept := by simp [execVeXor, stateAfter]
theorem execVeXor_inv (c : CoreId) (sl : SlotId) (s : State) (h : s.store.Inv) : (stateAfter s (execVeXor c sl s)).store.Inv := by simp [execVeXor, stateAfter, h]
theorem execVeNot_kept (c : CoreId) (sl : SlotId) (s : State) : (stateAfter s (execVeNot c sl s)).store.kept = s.store.kept := by simp [execVeNot, stateAfter]
theorem execVeNot_inv (c : CoreId) (sl : SlotId) (s : State) (h : s.store.Inv) : (stateAfter s (execVeNot c sl s)).store.Inv := by simp [execVeNot, stateAfter, h]
theorem execShl_kept (c : CoreId) (sl : SlotId) (s : State) : (stateAfter s (execShl c sl s)).store.kept = s.store.kept := by simp [execShl, stateAfter]
theorem execShl_inv (c : CoreId) (sl : SlotId) (s : State) (h : s.store.Inv) : (stateAfter s (execShl c sl s)).store.Inv := by simp [execShl, stateAfter, h]
theorem execShr_kept (c : CoreId) (sl : SlotId) (s : State) : (stateAfter s (execShr c sl s)).store.kept = s.store.kept := by simp [execShr, stateAfter]
theorem execShr_inv (c : CoreId) (sl : SlotId) (s : State) (h : s.store.Inv) : (stateAfter s (execShr c sl s)).store.Inv := by simp [execShr, stateAfter, h]
theorem execSar_kept (c : CoreId) (sl : SlotId) (s : State) : (stateAfter s (execSar c sl s)).store.kept = s.store.kept := by simp [execSar, stateAfter]
theorem execSar_inv (c : CoreId) (sl : SlotId) (s : State) (h : s.store.Inv) : (stateAfter s (execSar c sl s)).store.Inv := by simp [execSar, stateAfter, h]
theorem execImin_kept (c : CoreId) (sl : SlotId) (s : State) : (stateAfter s (execImin c sl s)).store.kept = s.store.kept := by simp [execImin, stateAfter]
theorem execImin_inv (c : CoreId) (sl : SlotId) (s : State) (h : s.store.Inv) : (stateAfter s (execImin c sl s)).store.Inv := by simp [execImin, stateAfter, h]
theorem execImax_kept (c : CoreId) (sl : SlotId) (s : State) : (stateAfter s (execImax c sl s)).store.kept = s.store.kept := by simp [execImax, stateAfter]
theorem execImax_inv (c : CoreId) (sl : SlotId) (s : State) (h : s.store.Inv) : (stateAfter s (execImax c sl s)).store.Inv := by simp [execImax, stateAfter, h]
theorem execUmin_kept (c : CoreId) (sl : SlotId) (s : State) : (stateAfter s (execUmin c sl s)).store.kept = s.store.kept := by simp [execUmin, stateAfter]
theorem execUmin_inv (c : CoreId) (sl : SlotId) (s : State) (h : s.store.Inv) : (stateAfter s (execUmin c sl s)).store.Inv := by simp [execUmin, stateAfter, h]
theorem execUmax_kept (c : CoreId) (sl : SlotId) (s : State) : (stateAfter s (execUmax c sl s)).store.kept = s.store.kept := by simp [execUmax, stateAfter]
theorem execUmax_inv (c : CoreId) (sl : SlotId) (s : State) (h : s.store.Inv) : (stateAfter s (execUmax c sl s)).store.Inv := by simp [execUmax, stateAfter, h]
theorem execAdd64_inv (c : CoreId) (sl : SlotId) (s : State) (h : s.store.Inv) : (stateAfter s (execAdd64 c sl s)).store.Inv := by
  unfold execAdd64 stateAfter
  dsimp only
  split
  · split
    · exact State.veTensor_inv _ _ _ _ _ (by simp) h
    · simp [h]
  · exact h
theorem execAdd64_kept (c : CoreId) (sl : SlotId) (s : State) : (stateAfter s (execAdd64 c sl s)).store.kept = s.store.kept := by
  unfold execAdd64 stateAfter
  dsimp only
  (repeat' split) <;> simp
theorem execRsumRow_kept (c : CoreId) (sl : SlotId) (s : State) : (stateAfter s (execRsumRow c sl s)).store.kept = s.store.kept := by simp [execRsumRow, stateAfter]
theorem execRsumRow_inv (c : CoreId) (sl : SlotId) (s : State) (h : s.store.Inv) : (stateAfter s (execRsumRow c sl s)).store.Inv := by simp [execRsumRow, stateAfter, h]
theorem execRmaxRow_kept (c : CoreId) (sl : SlotId) (s : State) : (stateAfter s (execRmaxRow c sl s)).store.kept = s.store.kept := by simp [execRmaxRow, stateAfter]
theorem execRmaxRow_inv (c : CoreId) (sl : SlotId) (s : State) (h : s.store.Inv) : (stateAfter s (execRmaxRow c sl s)).store.Inv := by simp [execRmaxRow, stateAfter, h]
theorem execRminRow_kept (c : CoreId) (sl : SlotId) (s : State) : (stateAfter s (execRminRow c sl s)).store.kept = s.store.kept := by simp [execRminRow, stateAfter]
theorem execRminRow_inv (c : CoreId) (sl : SlotId) (s : State) (h : s.store.Inv) : (stateAfter s (execRminRow c sl s)).store.Inv := by simp [execRminRow, stateAfter, h]
theorem execRmaxabsRow_kept (c : CoreId) (sl : SlotId) (s : State) : (stateAfter s (execRmaxabsRow c sl s)).store.kept = s.store.kept := by simp [execRmaxabsRow, stateAfter]
theorem execRmaxabsRow_inv (c : CoreId) (sl : SlotId) (s : State) (h : s.store.Inv) : (stateAfter s (execRmaxabsRow c sl s)).store.Inv := by simp [execRmaxabsRow, stateAfter, h]
theorem execRsumCol_kept (c : CoreId) (sl : SlotId) (s : State) : (stateAfter s (execRsumCol c sl s)).store.kept = s.store.kept := by simp [execRsumCol, stateAfter]
theorem execRsumCol_inv (c : CoreId) (sl : SlotId) (s : State) (h : s.store.Inv) : (stateAfter s (execRsumCol c sl s)).store.Inv := by simp [execRsumCol, stateAfter, h]
theorem execRmaxCol_kept (c : CoreId) (sl : SlotId) (s : State) : (stateAfter s (execRmaxCol c sl s)).store.kept = s.store.kept := by simp [execRmaxCol, stateAfter]
theorem execRmaxCol_inv (c : CoreId) (sl : SlotId) (s : State) (h : s.store.Inv) : (stateAfter s (execRmaxCol c sl s)).store.Inv := by simp [execRmaxCol, stateAfter, h]
theorem execRmaxabsCol_kept (c : CoreId) (sl : SlotId) (s : State) : (stateAfter s (execRmaxabsCol c sl s)).store.kept = s.store.kept := by simp [execRmaxabsCol, stateAfter]
theorem execRmaxabsCol_inv (c : CoreId) (sl : SlotId) (s : State) (h : s.store.Inv) : (stateAfter s (execRmaxabsCol c sl s)).store.Inv := by simp [execRmaxabsCol, stateAfter, h]
theorem execHistLog2_inv (c : CoreId) (sl : SlotId) (s : State) (h : s.store.Inv) : (stateAfter s (execHistLog2 c sl s)).store.Inv := by
  unfold execHistLog2 stateAfter
  exact State.veStart_inv _ _ _ _ _ _ _ h (fun q t ht => histWork_inv _ _ _ _ ht)
theorem execHistLog2_kept (c : CoreId) (sl : SlotId) (s : State) : (stateAfter s (execHistLog2 c sl s)).store.kept = s.store.kept := by
  unfold execHistLog2 stateAfter
  exact State.veStart_kept _ _ _ _ _ _ _ (fun q t => by simp)
theorem execSoftmax_kept (c : CoreId) (sl : SlotId) (s : State) : (stateAfter s (execSoftmax c sl s)).store.kept = s.store.kept := by simp [execSoftmax, stateAfter]
theorem execSoftmax_inv (c : CoreId) (sl : SlotId) (s : State) (h : s.store.Inv) : (stateAfter s (execSoftmax c sl s)).store.Inv := by unfold execSoftmax stateAfter; exact State.veTensor_inv _ _ _ _ _ (by simp) h
theorem execCvtToSb_kept (c : CoreId) (sl : SlotId) (s : State) : (stateAfter s (execCvtToSb c sl s)).store.kept = s.store.kept := by simp [execCvtToSb, stateAfter]
theorem execCvtToSb_inv (c : CoreId) (sl : SlotId) (s : State) (h : s.store.Inv) : (stateAfter s (execCvtToSb c sl s)).store.Inv := by unfold execCvtToSb stateAfter; exact State.veTensor_inv _ _ _ _ _ (by simp) h
theorem execCvtFromSb_kept (c : CoreId) (sl : SlotId) (s : State) : (stateAfter s (execCvtFromSb c sl s)).store.kept = s.store.kept := by simp [execCvtFromSb, stateAfter]
theorem execCvtFromSb_inv (c : CoreId) (sl : SlotId) (s : State) (h : s.store.Inv) : (stateAfter s (execCvtFromSb c sl s)).store.Inv := by unfold execCvtFromSb stateAfter; exact State.veTensor_inv _ _ _ _ _ (by simp) h
theorem execCvtBi32_kept (c : CoreId) (sl : SlotId) (s : State) : (stateAfter s (execCvtBi32 c sl s)).store.kept = s.store.kept := by simp [execCvtBi32, stateAfter]
theorem execCvtBi32_inv (c : CoreId) (sl : SlotId) (s : State) (h : s.store.Inv) : (stateAfter s (execCvtBi32 c sl s)).store.Inv := by unfold execCvtBi32 stateAfter; exact State.veTensor_inv _ _ _ _ _ (by simp) h
theorem execVload_kept (c : CoreId) (sl : SlotId) (s : State) : (stateAfter s (execVload c sl s)).store.kept = s.store.kept := by unfold execVload stateAfter; exact State.veStart_kept _ _ _ _ _ _ _ (fun q t => by simp)
theorem execVload_inv (c : CoreId) (sl : SlotId) (s : State) (h : s.store.Inv) : (stateAfter s (execVload c sl s)).store.Inv := by unfold execVload stateAfter; exact State.veStart_inv _ _ _ _ _ _ _ h (fun q t ht => by simp [ht])
theorem execVstore_kept (c : CoreId) (sl : SlotId) (s : State) : (stateAfter s (execVstore c sl s)).store.kept = s.store.kept := by unfold execVstore stateAfter; exact State.veStart_kept _ _ _ _ _ _ _ (fun q t => by simp)
theorem execVstore_inv (c : CoreId) (sl : SlotId) (s : State) (h : s.store.Inv) : (stateAfter s (execVstore c sl s)).store.Inv := by unfold execVstore stateAfter; exact State.veStart_inv _ _ _ _ _ _ _ h (fun q t ht => by simp [ht])
theorem execSkMove_kept (c : CoreId) (sl : SlotId) (s : State) : (stateAfter s (execSkMove c sl s)).store.kept = s.store.kept := by unfold execSkMove stateAfter; exact State.startEntry_kept _ _ _ _ _ _ _ _ _ (fun q t ht => (by rw [skHold_store _ _ _ _ _ ht])) (fun q t => by simp)
theorem execSkMove_inv (c : CoreId) (sl : SlotId) (s : State) (h : s.store.Inv) : (stateAfter s (execSkMove c sl s)).store.Inv := by unfold execSkMove stateAfter; exact State.startEntry_inv _ _ _ _ _ _ _ _ _ h (fun q t ht => (by rw [skHold_store _ _ _ _ _ ht]; exact h)) (fun q t ht => by simp [ht])
theorem execBagScan_inv (c : CoreId) (sl : SlotId) (samples : List SampleRef) (s : State) (h : s.store.Inv) :
    (stateAfter s (execBagScan c sl samples s)).store.Inv := by
  unfold execBagScan stateAfter
  exact State.startEntry_inv _ _ _ _ _ _ _ _ _ h (fun q t ht => by rw [bagScanHold_store _ _ _ _ _ _ ht]; exact h) (fun q t ht => by first | simp [ht] | (dsimp only; split <;> simp [ht]))
theorem execBagScan_kept (c : CoreId) (sl : SlotId) (samples : List SampleRef) (s : State) :
    (stateAfter s (execBagScan c sl samples s)).store.kept = s.store.kept := by
  unfold execBagScan stateAfter
  exact State.startEntry_kept _ _ _ _ _ _ _ _ _ (fun q t ht => by rw [bagScanHold_store _ _ _ _ _ _ ht]) (fun q t => by first | simp | (dsimp only; split <;> simp))
theorem execKeyMerge_kept (c : CoreId) (sl : SlotId) (s : State) : (stateAfter s (execKeyMerge c sl s)).store.kept = s.store.kept := by unfold execKeyMerge stateAfter; exact State.startEntry_kept _ _ _ _ _ _ _ _ _ (fun q t ht => (keyMergeHold_kept _ _ _ _ _ ht)) (fun q t => by simp)
theorem execKeyMerge_inv (c : CoreId) (sl : SlotId) (s : State) (h : s.store.Inv) : (stateAfter s (execKeyMerge c sl s)).store.Inv := by unfold execKeyMerge stateAfter; exact State.startEntry_inv _ _ _ _ _ _ _ _ _ h (fun q t ht => (keyMergeHold_inv _ _ _ _ _ ht h)) (fun q t ht => by simp [ht])
theorem execSpillChunkGrant_kept (c : CoreId) (s : State) : (stateAfter s (execSpillChunkGrant c s)).store.kept = s.store.kept := by unfold execSpillChunkGrant stateAfter; dsimp only; (repeat' split) <;> simp +zetaDelta
theorem execSpillChunkGrant_inv (c : CoreId) (s : State) (h : s.store.Inv) : (stateAfter s (execSpillChunkGrant c s)).store.Inv := by unfold execSpillChunkGrant stateAfter; dsimp only; (repeat' split) <;> simp (maxDischargeDepth := 9) +zetaDelta [h]
theorem execRespExpand_inv (c : CoreId) (sl : SlotId) (s : State) (h : s.store.Inv) :
    (stateAfter s (execRespExpand c sl s)).store.Inv := by
  unfold execRespExpand stateAfter
  exact State.startEntry_inv _ _ _ _ _ _ _ _ _ h (fun q t ht => by rw [respExpandHold_store _ _ _ _ _ ht]; exact h) (fun q t ht => by first | simp [ht] | (dsimp only; split <;> simp [ht]))
theorem execRespExpand_kept (c : CoreId) (sl : SlotId) (s : State) :
    (stateAfter s (execRespExpand c sl s)).store.kept = s.store.kept := by
  unfold execRespExpand stateAfter
  exact State.startEntry_kept _ _ _ _ _ _ _ _ _ (fun q t ht => by rw [respExpandHold_store _ _ _ _ _ ht]) (fun q t => by first | simp | (dsimp only; split <;> simp))
theorem execGradScan_kept (c : CoreId) (sl : SlotId) (s : State) : (stateAfter s (execGradScan c sl s)).store.kept = s.store.kept := by
  unfold execGradScan stateAfter
  exact State.startEntry_kept _ _ _ _ _ _ _ _ _ (fun q t ht => by rw [gradScanHold_store _ _ _ _ _ ht]) (fun q t => by first | simp | (dsimp only; split <;> simp))
theorem execGradScan_inv (c : CoreId) (sl : SlotId) (s : State) (h : s.store.Inv) : (stateAfter s (execGradScan c sl s)).store.Inv := by
  unfold execGradScan stateAfter
  exact State.startEntry_inv _ _ _ _ _ _ _ _ _ h (fun q t ht => by rw [gradScanHold_store _ _ _ _ _ ht]; exact h) (fun q t ht => by first | simp [ht] | (dsimp only; split <;> simp [ht]))
theorem execGradFlush_kept (c : CoreId) (sl : SlotId) (s : State) : (stateAfter s (execGradFlush c sl s)).store.kept = s.store.kept := by
  unfold execGradFlush stateAfter
  exact State.startEntry_kept _ _ _ _ _ _ _ _ _ (fun q t ht => by rw [gradFlushHold_store _ _ _ _ _ ht]) (fun q t => by first | simp | (dsimp only; split <;> simp))
theorem execGradFlush_inv (c : CoreId) (sl : SlotId) (s : State) (h : s.store.Inv) : (stateAfter s (execGradFlush c sl s)).store.Inv := by
  unfold execGradFlush stateAfter
  exact State.startEntry_inv _ _ _ _ _ _ _ _ _ h (fun q t ht => by rw [gradFlushHold_store _ _ _ _ _ ht]; exact h) (fun q t ht => by first | simp [ht] | (dsimp only; split <;> simp [ht]))
theorem execGradMerge_kept (c : CoreId) (sl : SlotId) (s : State) : (stateAfter s (execGradMerge c sl s)).store.kept = s.store.kept := by
  unfold execGradMerge stateAfter
  exact State.startEntry_kept _ _ _ _ _ _ _ _ _ (fun q t ht => by rw [gradMergeHold_store _ _ _ _ _ ht]) (fun q t => by first | simp | (dsimp only; split <;> simp))
theorem execGradMerge_inv (c : CoreId) (sl : SlotId) (s : State) (h : s.store.Inv) : (stateAfter s (execGradMerge c sl s)).store.Inv := by
  unfold execGradMerge stateAfter
  exact State.startEntry_inv _ _ _ _ _ _ _ _ _ h (fun q t ht => by rw [gradMergeHold_store _ _ _ _ _ ht]; exact h) (fun q t ht => by first | simp [ht] | (dsimp only; split <;> simp [ht]))
theorem execExchClose_inv (c : CoreId) (sl : SlotId) (s : State) (h : s.store.Inv) :
    (stateAfter s (execExchClose c sl s)).store.Inv := by
  unfold execExchClose stateAfter
  exact State.startEntry_inv _ _ _ _ _ _ _ _ _ h (fun q t ht => by rw [exchCloseHold_store _ _ _ _ _ ht]; exact h) (fun q t ht => by first | simp [ht] | (dsimp only; split <;> simp [ht]))
theorem execExchClose_kept (c : CoreId) (sl : SlotId) (s : State) :
    (stateAfter s (execExchClose c sl s)).store.kept = s.store.kept := by
  unfold execExchClose stateAfter
  exact State.startEntry_kept _ _ _ _ _ _ _ _ _ (fun q t ht => by rw [exchCloseHold_store _ _ _ _ _ ht]) (fun q t => by first | simp | (dsimp only; split <;> simp))
theorem execCountMsg_kept (m : Message) (s : State) : (stateAfter s (execCountMsg m s)).store.kept = s.store.kept := by simp [execCountMsg, stateAfter]
theorem execCountMsg_inv (m : Message) (s : State) (h : s.store.Inv) : (stateAfter s (execCountMsg m s)).store.Inv := by simp [execCountMsg, stateAfter, h]
theorem execAgreeMax_kept (c : CoreId) (sl : SlotId) (s : State) : (stateAfter s (execAgreeMax c sl s)).store.kept = s.store.kept := by
  unfold execAgreeMax stateAfter
  exact State.startEntry_kept _ _ _ _ _ _ _ _ _ (fun q t ht => by rw [collHold_store _ _ _ _ _ _ ht]) (fun q t => by first | simp | (dsimp only; split <;> simp))
theorem execAgreeMax_inv (c : CoreId) (sl : SlotId) (s : State) (h : s.store.Inv) : (stateAfter s (execAgreeMax c sl s)).store.Inv := by
  unfold execAgreeMax stateAfter
  exact State.startEntry_inv _ _ _ _ _ _ _ _ _ h (fun q t ht => by rw [collHold_store _ _ _ _ _ _ ht]; exact h) (fun q t ht => by first | simp [ht] | (dsimp only; split <;> simp [ht]))
theorem execReduceScatter_kept (c : CoreId) (sl : SlotId) (s : State) : (stateAfter s (execReduceScatter c sl s)).store.kept = s.store.kept := by
  unfold execReduceScatter stateAfter
  exact State.startEntry_kept _ _ _ _ _ _ _ _ _ (fun q t ht => by rw [collHold_store _ _ _ _ _ _ ht]) (fun q t => by first | simp | (dsimp only; split <;> simp))
theorem execReduceScatter_inv (c : CoreId) (sl : SlotId) (s : State) (h : s.store.Inv) : (stateAfter s (execReduceScatter c sl s)).store.Inv := by
  unfold execReduceScatter stateAfter
  exact State.startEntry_inv _ _ _ _ _ _ _ _ _ h (fun q t ht => by rw [collHold_store _ _ _ _ _ _ ht]; exact h) (fun q t ht => by first | simp [ht] | (dsimp only; split <;> simp [ht]))
theorem execReduceUp_kept (m : Message) (s : State) : (stateAfter s (execReduceUp m s)).store.kept = s.store.kept := by simp [execReduceUp, stateAfter]
theorem execReduceUp_inv (m : Message) (s : State) (h : s.store.Inv) : (stateAfter s (execReduceUp m s)).store.Inv := by unfold execReduceUp stateAfter; exact State.sink_inv _ _ _ _ h (fun t ht => by simp [ht])
theorem execAllGather_kept (c : CoreId) (sl : SlotId) (s : State) : (stateAfter s (execAllGather c sl s)).store.kept = s.store.kept := by
  unfold execAllGather stateAfter
  exact State.startEntry_kept _ _ _ _ _ _ _ _ _ (fun q t ht => by rw [gatherHold_store _ _ _ _ _ ht]) (fun q t => by first | simp | (dsimp only; split <;> simp))
theorem execAllGather_inv (c : CoreId) (sl : SlotId) (s : State) (h : s.store.Inv) : (stateAfter s (execAllGather c sl s)).store.Inv := by
  unfold execAllGather stateAfter
  exact State.startEntry_inv _ _ _ _ _ _ _ _ _ h (fun q t ht => by rw [gatherHold_store _ _ _ _ _ ht]; exact h) (fun q t ht => by first | simp [ht] | (dsimp only; split <;> simp [ht]))
theorem execDenseGatherServe_kept (sl : SlotId) (n : Nat) (s : State) : (stateAfter s (execDenseGatherServe sl n s)).store.kept = s.store.kept := by unfold execDenseGatherServe stateAfter; dsimp only; (repeat' split) <;> simp +zetaDelta
theorem execDenseGatherServe_inv (sl : SlotId) (n : Nat) (s : State) (h : s.store.Inv) : (stateAfter s (execDenseGatherServe sl n s)).store.Inv := by unfold execDenseGatherServe stateAfter; dsimp only; (repeat' split) <;> simp (maxDischargeDepth := 9) +zetaDelta [h]
theorem execBcastDown_kept (m : Message) (s : State) : (stateAfter s (execBcastDown m s)).store.kept = s.store.kept := by unfold execBcastDown stateAfter; exact State.sink_kept _ _ _ _ (fun t => by (repeat' split) <;> simp +zetaDelta)
theorem execBcastDown_inv (m : Message) (s : State) (h : s.store.Inv) : (stateAfter s (execBcastDown m s)).store.Inv := by unfold execBcastDown stateAfter; exact State.sink_inv _ _ _ _ h (fun t ht => by (repeat' split) <;> simp +zetaDelta [ht])

end Sys2Proof.Machine
end

