-- ==== Sys2Proof/Laws/FrameJob.lean ====
section
/-! SUPPORT. What re-execution, rollback, the hard boundary, votes and the commit keep. -/

namespace Sys2Proof.Machine

open Sys2Proof

theorem unitCommands_keep (u : Nat) (f : CoreId → SlotId → State → Res) (hf : f ∈ unitCommands u) (c : CoreId) (sl : SlotId) (s : State) :
    (stateAfter s (f c sl s)).store.kept = s.store.kept ∧ (s.store.Inv → (stateAfter s (f c sl s)).store.Inv) := by
  unfold unitCommands at hf
  split at hf
  · simp only [List.mem_cons, List.not_mem_nil, or_false] at hf
    rcases hf with rfl | rfl | rfl
    · exact ⟨execClear_kept .., fun h => by apply execClear_inv; exact h⟩
    · exact ⟨execDrain_kept .., fun h => by apply execDrain_inv; exact h⟩
    · exact ⟨execPass_kept .., fun h => by apply execPass_inv; exact h⟩
  · simp only [List.mem_cons, List.not_mem_nil, or_false] at hf
    rcases hf with rfl | rfl | rfl
    · exact ⟨execClear_kept .., fun h => by apply execClear_inv; exact h⟩
    · exact ⟨execDrain_kept .., fun h => by apply execDrain_inv; exact h⟩
    · exact ⟨execPass_kept .., fun h => by apply execPass_inv; exact h⟩
  · simp only [List.mem_cons, List.not_mem_nil, or_false] at hf
    rcases hf with rfl | rfl | rfl | rfl | rfl | rfl | rfl | rfl | rfl | rfl | rfl | rfl | rfl | rfl | rfl | rfl | rfl | rfl | rfl | rfl | rfl | rfl | rfl | rfl | rfl | rfl | rfl | rfl | rfl | rfl | rfl | rfl | rfl | rfl | rfl | rfl | rfl | rfl | rfl | rfl | rfl | rfl | rfl | rfl | rfl | rfl | rfl | rfl | rfl | rfl | rfl | rfl
    · exact ⟨execVeAdd_kept .., fun h => by apply execVeAdd_inv; exact h⟩
    · exact ⟨execVeSub_kept .., fun h => by apply execVeSub_inv; exact h⟩
    · exact ⟨execVeMul_kept .., fun h => by apply execVeMul_inv; exact h⟩
    · exact ⟨execAxpy_kept .., fun h => by apply execAxpy_inv; exact h⟩
    · exact ⟨execVeDiv_kept .., fun h => by apply execVeDiv_inv; exact h⟩
    · exact ⟨execVeMin_kept .., fun h => by apply execVeMin_inv; exact h⟩
    · exact ⟨execVeMax_kept .., fun h => by apply execVeMax_inv; exact h⟩
    · exact ⟨execVeAbs_kept .., fun h => by apply execVeAbs_inv; exact h⟩
    · exact ⟨execVeNeg_kept .., fun h => by apply execVeNeg_inv; exact h⟩
    · exact ⟨execSqrt_kept .., fun h => by apply execSqrt_inv; exact h⟩
    · exact ⟨execRsqrt_kept .., fun h => by apply execRsqrt_inv; exact h⟩
    · exact ⟨execVeExp_kept .., fun h => by apply execVeExp_inv; exact h⟩
    · exact ⟨execVeLog_kept .., fun h => by apply execVeLog_inv; exact h⟩
    · exact ⟨execSigmoid_kept .., fun h => by apply execSigmoid_inv; exact h⟩
    · exact ⟨execTanh_kept .., fun h => by apply execTanh_inv; exact h⟩
    · exact ⟨execCvt_kept .., fun h => by apply execCvt_inv; exact h⟩
    · exact ⟨execCmpLt_kept .., fun h => by apply execCmpLt_inv; exact h⟩
    · exact ⟨execCmpLe_kept .., fun h => by apply execCmpLe_inv; exact h⟩
    · exact ⟨execCmpEq_kept .., fun h => by apply execCmpEq_inv; exact h⟩
    · exact ⟨execCmpUn_kept .., fun h => by apply execCmpUn_inv; exact h⟩
    · exact ⟨execVeSelect_kept .., fun h => by apply execVeSelect_inv; exact h⟩
    · exact ⟨execIadd_kept .., fun h => by apply execIadd_inv; exact h⟩
    · exact ⟨execIsub_kept .., fun h => by apply execIsub_inv; exact h⟩
    · exact ⟨execIaddSat_kept .., fun h => by apply execIaddSat_inv; exact h⟩
    · exact ⟨execIsubSat_kept .., fun h => by apply execIsubSat_inv; exact h⟩
    · exact ⟨execUaddSat_kept .., fun h => by apply execUaddSat_inv; exact h⟩
    · exact ⟨execVeAnd_kept .., fun h => by apply execVeAnd_inv; exact h⟩
    · exact ⟨execVeOr_kept .., fun h => by apply execVeOr_inv; exact h⟩
    · exact ⟨execVeXor_kept .., fun h => by apply execVeXor_inv; exact h⟩
    · exact ⟨execVeNot_kept .., fun h => by apply execVeNot_inv; exact h⟩
    · exact ⟨execShl_kept .., fun h => by apply execShl_inv; exact h⟩
    · exact ⟨execShr_kept .., fun h => by apply execShr_inv; exact h⟩
    · exact ⟨execSar_kept .., fun h => by apply execSar_inv; exact h⟩
    · exact ⟨execImin_kept .., fun h => by apply execImin_inv; exact h⟩
    · exact ⟨execImax_kept .., fun h => by apply execImax_inv; exact h⟩
    · exact ⟨execUmin_kept .., fun h => by apply execUmin_inv; exact h⟩
    · exact ⟨execUmax_kept .., fun h => by apply execUmax_inv; exact h⟩
    · exact ⟨execAdd64_kept .., fun h => by apply execAdd64_inv; exact h⟩
    · exact ⟨execRsumRow_kept .., fun h => by apply execRsumRow_inv; exact h⟩
    · exact ⟨execRmaxRow_kept .., fun h => by apply execRmaxRow_inv; exact h⟩
    · exact ⟨execRminRow_kept .., fun h => by apply execRminRow_inv; exact h⟩
    · exact ⟨execRmaxabsRow_kept .., fun h => by apply execRmaxabsRow_inv; exact h⟩
    · exact ⟨execRsumCol_kept .., fun h => by apply execRsumCol_inv; exact h⟩
    · exact ⟨execRmaxCol_kept .., fun h => by apply execRmaxCol_inv; exact h⟩
    · exact ⟨execRmaxabsCol_kept .., fun h => by apply execRmaxabsCol_inv; exact h⟩
    · exact ⟨execHistLog2_kept .., fun h => by apply execHistLog2_inv; exact h⟩
    · exact ⟨execSoftmax_kept .., fun h => by apply execSoftmax_inv; exact h⟩
    · exact ⟨execCvtToSb_kept .., fun h => by apply execCvtToSb_inv; exact h⟩
    · exact ⟨execCvtFromSb_kept .., fun h => by apply execCvtFromSb_inv; exact h⟩
    · exact ⟨execCvtBi32_kept .., fun h => by apply execCvtBi32_inv; exact h⟩
    · exact ⟨execVload_kept .., fun h => by apply execVload_inv; exact h⟩
    · exact ⟨execVstore_kept .., fun h => by apply execVstore_inv; exact h⟩
  · simp only [List.mem_cons, List.not_mem_nil, or_false] at hf
    subst hf
    exact ⟨execSkMove_kept .., fun h => by apply execSkMove_inv; exact h⟩
  · simp only [List.mem_cons, List.not_mem_nil, or_false] at hf
    rcases hf with rfl | rfl | rfl | rfl | rfl
    · exact ⟨execKeyMerge_kept .., fun h => by apply execKeyMerge_inv; exact h⟩
    · exact ⟨execRespExpand_kept .., fun h => by apply execRespExpand_inv; exact h⟩
    · exact ⟨execGradScan_kept .., fun h => by apply execGradScan_inv; exact h⟩
    · exact ⟨execGradFlush_kept .., fun h => by apply execGradFlush_inv; exact h⟩
    · exact ⟨execGradMerge_kept .., fun h => by apply execGradMerge_inv; exact h⟩
  · simp only [List.mem_cons, List.not_mem_nil, or_false] at hf
    rcases hf with rfl | rfl | rfl | rfl
    · exact ⟨execExchClose_kept .., fun h => by apply execExchClose_inv; exact h⟩
    · exact ⟨execAgreeMax_kept .., fun h => by apply execAgreeMax_inv; exact h⟩
    · exact ⟨execReduceScatter_kept .., fun h => by apply execReduceScatter_inv; exact h⟩
    · exact ⟨execAllGather_kept .., fun h => by apply execAllGather_inv; exact h⟩
  · cases hf
theorem runAll_keep (l : List (CoreId → SlotId → State → Res)) (c : CoreId) (sl : SlotId)
    (hl : ∀ f ∈ l, ∀ s, (stateAfter s (f c sl s)).store.kept = s.store.kept ∧ (s.store.Inv → (stateAfter s (f c sl s)).store.Inv)) (s : State) :
    (l.foldl (fun s f => stateAfter s (f c sl s)) s).store.kept = s.store.kept ∧
      (s.store.Inv → (l.foldl (fun s f => stateAfter s (f c sl s)) s).store.Inv) := by
  induction l generalizing s with
  | nil => exact ⟨rfl, id⟩
  | cons f l ih =>
    have hf := hl f List.mem_cons_self s
    have hr := ih (fun g hg => hl g (List.mem_cons_of_mem _ hg)) (stateAfter s (f c sl s))
    exact ⟨hr.1.trans hf.1, fun h => hr.2 (hf.2 h)⟩
@[simp] theorem State.runHead_kept (s : State) (c : CoreId) (sl : SlotId) (u : Nat) : (s.runHead c sl u).store.kept = s.store.kept :=
  (runAll_keep _ c sl (fun f hf s => unitCommands_keep u f hf c sl s) s).1
@[simp] theorem State.runHead_inv (s : State) (c : CoreId) (sl : SlotId) (u : Nat) (h : s.store.Inv) : (s.runHead c sl u).store.Inv :=
  (runAll_keep _ c sl (fun f hf s => unitCommands_keep u f hf c sl s) s).2 h
@[simp] theorem State.updReplay_store (s : State) (slot : Nat) (f : Replay → Replay) : (s.updReplay slot f).store = s.store := rfl
@[simp] theorem State.replayStart_kept (s : State) (c : CoreId) (sl : SlotId) (q : QEntry) :
    (s.replayStart c sl q).2.store.kept = s.store.kept := by simp [State.replayStart]
@[simp] theorem State.replayStart_inv (s : State) (c : CoreId) (sl : SlotId) (q : QEntry) (h : s.store.Inv) :
    (s.replayStart c sl q).2.store.Inv := by
  unfold State.replayStart
  exact State.runHead_inv _ c sl _ (State.inv_updCore _ _ _ h (fun k hk => (CoreState.inv_updUnit _ _ _).2
    (CoreState.inv_updSlot_at k sl.val (fun cs => { cs with queues := [(q.entry.unit, [q])] }) hk (fun v => by
      show (SMap.getD [(q.entry.unit, [q])] v []).length ≤ 8
      unfold SMap.getD SMap.find?
      split <;> simp [SMap.find?]))))
@[simp] theorem State.replayDrain_kept (s : State) (c : CoreId) (u : Nat) (r : RunEntry) :
    (s.replayDrain c u r).2.store.kept = s.store.kept := by
  unfold State.replayDrain
  split
  · rfl
  · exact (execTileDrain_kept ..).trans (by simp)
@[simp] theorem State.replayDrain_inv (s : State) (c : CoreId) (u : Nat) (r : RunEntry) (h : s.store.Inv) :
    (s.replayDrain c u r).2.store.Inv := by
  unfold State.replayDrain
  split
  · exact h
  · exact execTileDrain_inv _ _ _ (State.inv_updCore _ _ _ h (fun k hk => by simpa using hk))
@[simp] theorem State.replayFinish_kept (s : State) (c : CoreId) (sl : SlotId) (r : RunEntry) :
    (s.replayFinish c sl r).store.kept = s.store.kept := by
  unfold State.replayFinish; extract_lets; split <;> simp
@[simp] theorem State.replayFinish_inv (s : State) (c : CoreId) (sl : SlotId) (r : RunEntry) (h : s.store.Inv) :
    (s.replayFinish c sl r).store.Inv := by
  unfold State.replayFinish; extract_lets; split <;> simp [h]

/-- The entry that a replay starts or goes on with. -/
theorem State.replayPick_keep (s : State) (c : CoreId) (sl : SlotId) (q : QEntry) (o : Option RunEntry) (x : Option RunEntry × State)
    (hx : x = match o with
      | some r => (some r, s)
      | none => s.replayStart c sl q) :
    x.2.store.kept = s.store.kept ∧ (s.store.Inv → x.2.store.Inv) := by
  subst hx
  cases o with
  | some r => exact ⟨rfl, id⟩
  | none => exact ⟨State.replayStart_kept .., State.replayStart_inv s c sl q⟩
theorem State.replayEntry_keep (s : State) (c : CoreId) (sl : SlotId) (q : QEntry) :
    (s.replayEntry c sl q).store.kept = s.store.kept ∧ (s.store.Inv → (s.replayEntry c sl q).store.Inv) := by
  unfold State.replayEntry
  extract_lets u
  split
  · exact ⟨rfl, id⟩
  · rename_i p _
    extract_lets x
    have hx : x.2.store.kept = s.store.kept ∧ (s.store.Inv → x.2.store.Inv) := State.replayPick_keep s c sl q _ x rfl
    clear_value x
    split
    · exact hx
    · rename_i r _
      refine ⟨?_, fun h => ?_⟩
      · rw [State.kept_updCore]
        simpa using hx.1
      · refine State.inv_updCore _ _ _ (by simp [hx.2 h]) (fun k hk => ?_)
        dsimp only
        split <;> simpa using hk
@[simp] theorem State.replayEntry_kept (s : State) (c : CoreId) (sl : SlotId) (q : QEntry) : (s.replayEntry c sl q).store.kept = s.store.kept :=
  (State.replayEntry_keep s c sl q).1
@[simp] theorem State.replayEntry_inv (s : State) (c : CoreId) (sl : SlotId) (q : QEntry) (h : s.store.Inv) : (s.replayEntry c sl q).store.Inv :=
  (State.replayEntry_keep s c sl q).2 h
@[simp] theorem State.clearPhase_inv (s : State) (slot phase step : Nat) (h : s.store.Inv) : (s.clearPhase slot phase step).store.Inv := by
  unfold State.clearPhase
  split
  · simp [h]
  · split
    · exact h
    · exact State.inv_foldl _ _ _ h (fun t a h => by simp [h])
@[simp] theorem State.clearPhase_kept (s : State) (slot phase step : Nat) : (s.clearPhase slot phase step).store.kept = s.store.kept := by
  unfold State.clearPhase
  split
  · simp
  · split
    · rfl
    · exact State.kept_foldl _ _ _ (fun t a => by simp)
theorem CoreState.inv_beforeReplay (k : CoreState) (slot phase step : Nat) (h : k.Inv) : (k.beforeReplay slot phase step).Inv :=
  ⟨h.1, h.2.1, Nat.le_trans (Nat.add_le_add (Nat.sub_le_sub_right (List.filter_sublist.countP_le) 4)
    (Nat.sub_le_sub_right (List.filter_sublist.countP_le) 4)) h.2.2.1, h.2.2.2⟩
@[simp] theorem State.beginReplay_kept (s : State) (slot phase step : Nat) : (s.beginReplay slot phase step).store.kept = s.store.kept := by
  unfold State.beginReplay
  extract_lets t u
  have hu : u.store = s.store := by simp only [u]; split <;> simp [t]
  clear_value u
  exact (State.kept_foldl _ _ _ (fun t a => by simp)).trans (by simp [hu])
@[simp] theorem State.beginReplay_inv (s : State) (slot phase step : Nat) (h : s.store.Inv) : (s.beginReplay slot phase step).store.Inv := by
  unfold State.beginReplay
  extract_lets t u
  have hu : u.store = s.store := by simp only [u]; split <;> simp [t]
  clear_value u
  exact State.inv_foldl _ _ _ (by simp [hu, h]) (fun t a ht =>
    State.inv_updCore _ _ _ ht (fun k hk => CoreState.inv_beforeReplay k _ _ _ hk))
@[simp] theorem State.replayRounds_kept (s : State) (sl : SlotId) (l : List (Nat × List QEntry)) :
    (s.replayRounds sl l).store.kept = s.store.kept :=
  State.kept_foldl _ _ _ (fun t a => State.kept_foldl _ _ _ (fun t a => by
    split
    · split <;> simp
    · rfl))
@[simp] theorem State.replayRounds_inv (s : State) (sl : SlotId) (l : List (Nat × List QEntry)) (h : s.store.Inv) :
    (s.replayRounds sl l).store.Inv :=
  State.inv_foldl _ _ _ h (fun t a h => State.inv_foldl _ _ _ h (fun t a h => by
    split
    · split
      · simp [h]
      · exact h
    · exact h))
theorem CoreState.inv_afterReplay (k old : CoreState) (slot phase step : Nat) (ok : Bool) (h : k.Inv) (ho : old.Inv) :
    (k.afterReplay old slot phase step ok).Inv := by
  unfold CoreState.afterReplay
  exact ⟨h.1, h.2.1, h.2.2.1, (CoreState.inv_updSlot_at k slot (fun cs =>
    { cs with queues := (old.slot slot).queues, tokens := (old.slot slot).tokens }) h (fun u => ho.2.2.2 slot u)).2.2.2⟩
@[simp] theorem State.goReplay_kept (s : State) (sl : SlotId) (phase step : Nat) : (s.goReplay sl phase step).2.store.kept = s.store.kept := by
  unfold State.goReplay
  extract_lets slot cores old pace lists t _src u v w whole _src2 x y
  have hv : v.store.kept = s.store.kept := (State.kept_foldl _ _ _ (fun t a => by simp)).trans (by simp [u, t])
  have hw : w.store.kept = s.store.kept := (State.replayRounds_kept _ _ _).trans hv
  clear_value w
  have hy : y.store.kept = s.store.kept := (State.kept_foldl _ _ _ (fun t a => by simp)).trans (by simpa [x] using hw)
  simpa using hy
@[simp] theorem State.goReplay_inv (s : State) (sl : SlotId) (phase step : Nat) (h : s.store.Inv) : (s.goReplay sl phase step).2.store.Inv := by
  unfold State.goReplay
  extract_lets slot cores old pace lists t _src u v w whole _src2 x y
  have hv : v.store.Inv := State.inv_foldl _ _ _ (by simp [u, t, h]) (fun t a h => by simp [h])
  have hw : w.store.Inv := State.replayRounds_inv _ _ _ hv
  clear_value w
  have hy : y.store.Inv := State.inv_foldl _ _ _ (by simpa [x] using hw) (fun t a ht =>
    State.inv_updCore _ _ _ ht (fun k hk => CoreState.inv_afterReplay _ _ _ _ _ _ hk (h.2.2.2 _)))
  simpa using hy
@[simp] theorem State.discardFrom_store (s : State) (slot n : Nat) : (State.discardFrom s slot n).store = s.store := by simp [State.discardFrom]
@[simp] theorem State.countRetry_store (s : State) (slot n cause retry : Nat) : (State.countRetry s slot n cause retry).store = s.store := by simp [State.countRetry]
@[simp] theorem State.nextAttempt_store (s : State) (slot : Nat) : (State.nextAttempt s slot).store = s.store := by simp [State.nextAttempt]
@[simp] theorem State.rerunStep_kept (s : State) (slot n : Nat) : (State.rerunStep s slot n).store.kept = s.store.kept := by simp [State.rerunStep]
@[simp] theorem State.rerunStep_inv (s : State) (slot n : Nat) (h : s.store.Inv) : (State.rerunStep s slot n).store.Inv := by simp [State.rerunStep, h]
@[simp] theorem State.audit_store (s : State) (slot n : Nat) : (State.audit s slot n).store = s.store := by simp [State.audit]
@[simp] theorem State.stopSlot_kept (s : State) (slot : Nat) : (State.stopSlot s slot).store.kept = s.store.kept := by simp [State.stopSlot]
@[simp] theorem State.stopSlot_inv (s : State) (slot : Nat) (h : s.store.Inv) : (State.stopSlot s slot).store.Inv := by simp [State.stopSlot, h]
@[simp] theorem State.stopFillers_kept (s : State) : (State.stopFillers s).store.kept = s.store.kept := by unfold State.stopFillers; apply State.kept_foldl; intro s a; simp
@[simp] theorem State.stopFillers_inv (s : State) (h : s.store.Inv) : (State.stopFillers s).store.Inv := by unfold State.stopFillers; apply State.inv_foldl _ _ _ h; intro s a h; simp [h]
@[simp] theorem State.beginRollback_kept (s : State) (stage : Nat) : (State.beginRollback s stage).store.kept = s.store.kept := by simp [State.beginRollback]
@[simp] theorem State.beginRollback_inv (s : State) (stage : Nat) (h : s.store.Inv) : (State.beginRollback s stage).store.Inv := by simp [State.beginRollback, h]
@[simp] theorem State.proposeStep_store (s : State) : (State.proposeStep s).store = s.store := by simp [State.proposeStep]
@[simp] theorem State.enterRollback_kept (s : State) (worst : Nat) : (State.enterRollback s worst).store.kept = s.store.kept := by simp [State.enterRollback]
@[simp] theorem State.enterRollback_inv (s : State) (worst : Nat) (h : s.store.Inv) : (State.enterRollback s worst).store.Inv := by simp [State.enterRollback, h]
@[simp] theorem State.rollbackFiller_kept (s : State) (f : Nat) : (State.rollbackFiller s f).store.kept = s.store.kept := by simp [State.rollbackFiller]
@[simp] theorem State.rollbackFiller_inv (s : State) (f : Nat) (h : s.store.Inv) : (State.rollbackFiller s f).store.Inv := by simp [State.rollbackFiller, h]
@[simp] theorem State.halt_kept (s : State) (code : Nat) : (State.halt s code).store.kept = s.store.kept := by simp [State.halt]
@[simp] theorem State.halt_inv (s : State) (code : Nat) (h : s.store.Inv) : (State.halt s code).store.Inv := by simp [State.halt, h]
theorem State.leaveSlots_inv (l : List Nat) (s : State) (h : s.store.Inv) : (l.foldl (fun s i =>
    (State.unloadCores (State.stopSlot s i) i).updJob i (fun j => { j with
      member := false, admitted := false, stopped := false, layoutPending := false, wantReshard := false })) s).store.Inv :=
  State.inv_foldl _ _ _ h (fun t a h => by simp [h])
theorem State.leaveSlots_kept (l : List Nat) (s : State) : (l.foldl (fun s i =>
    (State.unloadCores (State.stopSlot s i) i).updJob i (fun j => { j with
      member := false, admitted := false, stopped := false, layoutPending := false, wantReshard := false })) s).store.kept = s.store.kept :=
  State.kept_foldl _ _ _ (fun t a => by simp)
@[simp] theorem State.leaveJob_inv (s : State) (h : s.store.Inv) : s.leaveJob.store.Inv := by
  unfold State.leaveJob
  have ht := State.leaveSlots_inv [0, 1, 2, 3] s h
  revert ht
  generalize List.foldl _ s _ = t
  intro ht
  dsimp only
  exact ite_keeps (fun w : State => w.store.Inv) (by simpa using ht) (by simpa using ht)
@[simp] theorem State.leaveJob_kept (s : State) : s.leaveJob.store.kept = s.store.kept := by
  unfold State.leaveJob
  have ht := State.leaveSlots_kept [0, 1, 2, 3] s
  revert ht
  generalize List.foldl _ s _ = t
  intro ht
  dsimp only
  exact ite_keeps (fun w : State => w.store.kept = s.store.kept) (by simpa using ht) (by simpa using ht)
@[simp] theorem State.withLayout_store (s : State) (serials : List Nat) : (State.withLayout s serials).store = s.store := by simp [State.withLayout]
@[simp] theorem State.placeAuto_store (s : State) (slot : Nat) : (State.placeAuto s slot).store = s.store := by simp [State.placeAuto]
@[simp] theorem State.runSlot_kept (s : State) (slot c : Nat) : (State.runSlot s slot c).store.kept = s.store.kept := by simp [State.runSlot]
@[simp] theorem State.runSlot_inv (s : State) (slot c : Nat) (h : s.store.Inv) : (State.runSlot s slot c).store.Inv := by unfold State.runSlot; extract_lets; (repeat' split) <;> simp (maxDischargeDepth := 9) +zetaDelta [h]
@[simp] theorem State.admitSlot_kept (s : State) (slot : Nat) : (State.admitSlot s slot).store.kept = s.store.kept := by unfold State.admitSlot; extract_lets; (repeat' split) <;> simp +zetaDelta
@[simp] theorem State.admitSlot_inv (s : State) (slot : Nat) (h : s.store.Inv) : (State.admitSlot s slot).store.Inv := by unfold State.admitSlot; extract_lets; (repeat' split) <;> simp (maxDischargeDepth := 9) +zetaDelta [h]
@[simp] theorem State.admitFillers_inv (s : State) (h : s.store.Inv) : s.admitFillers.store.Inv := by
  unfold State.admitFillers
  split
  · exact h
  · exact State.inv_foldl _ _ _ h (fun t a h => State.admitSlot_inv _ _ h)
@[simp] theorem State.admitFillers_kept (s : State) : s.admitFillers.store.kept = s.store.kept := by
  unfold State.admitFillers
  split
  · rfl
  · exact State.kept_foldl _ _ _ (fun t a => State.admitSlot_kept _ _)
@[simp] theorem State.refreshJob_store (s : State) : (State.refreshJob s).store = s.store := by
  unfold State.refreshJob State.refreshLapse; extract_lets; (repeat' split) <;> simp +zetaDelta
@[simp] theorem State.admitJob_inv (s : State) (h : s.store.Inv) : s.admitJob.store.Inv := by
  unfold State.admitJob
  have ht := State.admitSlot_inv s 0 h
  revert ht
  generalize s.admitSlot 0 = t
  intro ht
  exact ite_keeps (fun w : State => w.store.Inv) (by simp [ht]) (by simp [ht])
@[simp] theorem State.admitJob_kept (s : State) : s.admitJob.store.kept = s.store.kept := by
  unfold State.admitJob
  have ht := State.admitSlot_kept s 0
  revert ht
  generalize s.admitSlot 0 = t
  intro ht
  exact ite_keeps (fun w : State => w.store.kept = s.store.kept) (by simp [ht]) (by simp [ht])
@[simp] theorem State.formLayout_store (s : State) : (State.formLayout s).store = s.store := by simp [State.formLayout]
@[simp] theorem State.restoreAgreed_store (s : State) : (State.restoreAgreed s).store = s.store := by simp [State.restoreAgreed]
@[simp] theorem State.resume_kept (s : State) : (State.resume s).store.kept = s.store.kept := by simp [State.resume]
@[simp] theorem State.resume_inv (s : State) (h : s.store.Inv) : (State.resume s).store.Inv := by simp [State.resume, h]
@[simp] theorem State.readItem_store (s : State) (slot addr n : Nat) (x : PermuteItem) : (State.readItem s slot addr n x).2.store = s.store := by unfold State.readItem; extract_lets; (repeat' split) <;> simp +zetaDelta
@[simp] theorem State.readItem_inv (s : State) (slot addr n : Nat) (x : PermuteItem) (h : s.store.Inv) : (s.readItem slot addr n x).2.store.Inv := by
  unfold State.readItem
  dsimp only
  split <;> simp [h]
@[simp] theorem State.readItem_kept (s : State) (slot addr n : Nat) (x : PermuteItem) : (s.readItem slot addr n x).2.store.kept = s.store.kept := by
  unfold State.readItem
  dsimp only
  split <;> simp
@[simp] theorem State.readItems_inv (s : State) (slot : Nat) (l : List (Nat × Nat × PermuteItem)) (h : s.store.Inv) :
    (s.readItems slot l).2.store.Inv := State.inv_foldl_snd _ _ _ h (fun t a h => State.readItem_inv _ _ _ _ _ h)
@[simp] theorem State.readItems_kept (s : State) (slot : Nat) (l : List (Nat × Nat × PermuteItem)) :
    (s.readItems slot l).2.store.kept = s.store.kept := State.kept_foldl_snd _ _ _ (fun t a => State.readItem_kept _ _ _ _ _)
@[simp] theorem State.sendItems_store (s : State) (slot : Nat) (items : List PermuteItem) (serial : Nat) : (State.sendItems s slot items serial).store = s.store := by simp [State.sendItems]
@[simp] theorem State.startPermute_inv (s : State) (h : s.store.Inv) : s.startPermute.store.Inv := by
  unfold State.startPermute
  extract_lets serials slots stay got t u
  have hg : got.2.store.Inv := State.inv_foldl_snd _ _ _ h (fun t a h => State.readItems_inv _ _ _ h)
  clear_value got
  have hu : u.store.Inv := State.inv_foldl _ _ _ (by simpa [t] using hg) (fun t a h => State.inv_foldl _ _ _ (by simpa using h) (fun t a h => by simpa using h))
  clear_value u
  simpa using hu
@[simp] theorem State.startPermute_kept (s : State) : s.startPermute.store.kept = s.store.kept := by
  unfold State.startPermute
  extract_lets serials slots stay got t u
  have hg : got.2.store.kept = s.store.kept := State.kept_foldl_snd _ _ _ (fun t a => State.readItems_kept _ _ _)
  clear_value got
  have hu : u.store.kept = s.store.kept :=
    (State.kept_foldl _ _ _ (fun t a => (State.kept_foldl _ _ _ (fun t a => by simp)).trans (by simp))).trans (by simpa [t] using hg)
  clear_value u
  simpa using hu
@[simp] theorem State.placePiece_kept (s : State) (slot : Nat) (x : Nat × Nat × List Word) : (State.placePiece s slot x).store.kept = s.store.kept := by unfold State.placePiece; extract_lets; (repeat' split) <;> simp +zetaDelta
@[simp] theorem State.placePiece_inv (s : State) (slot : Nat) (x : Nat × Nat × List Word) (h : s.store.Inv) : (State.placePiece s slot x).store.Inv := by unfold State.placePiece; extract_lets; (repeat' split) <;> simp (maxDischargeDepth := 9) +zetaDelta [h]
@[simp] theorem State.loadSlice_kept (s : State) (slot c : Nat) (g : Nat) (x : SliceState) : (State.loadSlice s slot c g x).store.kept = s.store.kept := by simp [State.loadSlice]
@[simp] theorem State.loadSlice_inv (s : State) (slot c : Nat) (g : Nat) (x : SliceState) (h : s.store.Inv) : (State.loadSlice s slot c g x).store.Inv := by simp [State.loadSlice, h]
@[simp] theorem State.loadSlices_kept (s : State) (slot c : Nat) (stage : List (Nat × Nat × List Word)) : (State.loadSlices s slot c stage).store.kept = s.store.kept := by unfold State.loadSlices; apply State.kept_foldl; intro s a; simp
@[simp] theorem State.loadSlices_inv (s : State) (slot c : Nat) (stage : List (Nat × Nat × List Word)) (h : s.store.Inv) : (State.loadSlices s slot c stage).store.Inv := by unfold State.loadSlices; apply State.inv_foldl _ _ _ h; intro s a h; simp [h]
@[simp] theorem State.landAgain_kept (s : State) (slot : Nat) : (State.landAgain s slot).store.kept = s.store.kept := by unfold State.landAgain; apply State.kept_foldl; intro s a; (repeat' split) <;> simp
@[simp] theorem State.landAgain_inv (s : State) (slot : Nat) (h : s.store.Inv) : (State.landAgain s slot).store.Inv := by unfold State.landAgain; apply State.inv_foldl _ _ _ h; intro s a h; (repeat' split) <;> simp [h]
@[simp] theorem State.finishPermute_inv (s : State) (slot : Nat) (h : s.store.Inv) : (s.finishPermute slot).store.Inv := by
  unfold State.finishPermute
  dsimp only
  refine ite_keeps (fun w : State => w.store.Inv) ?_ ?_ <;>
    (try simp only [State.clearBit_store]) <;>
    exact State.runSlot_inv _ _ _ (State.landAgain_inv _ _ (State.loadSlices_inv _ _ _ _
      (State.inv_foldl _ _ _ (by simp [h]) (fun t a h => State.placePiece_inv _ _ _ h))))
@[simp] theorem State.finishPermute_kept (s : State) (slot : Nat) : (s.finishPermute slot).store.kept = s.store.kept := by
  unfold State.finishPermute
  dsimp only
  refine ite_keeps (fun w : State => w.store.kept = s.store.kept) ?_ ?_ <;>
    (try simp only [State.clearBit_store]) <;>
    exact (State.runSlot_kept _ _ _).trans ((State.landAgain_kept _ _).trans ((State.loadSlices_kept _ _ _ _).trans
      ((State.kept_foldl _ _ _ (fun t a => State.placePiece_kept _ _ _)).trans (by simp))))
@[simp] theorem State.closeBoundary_inv (s : State) (n : Nat) (h : s.store.Inv) : (s.closeBoundary n).store.Inv := by
  unfold State.closeBoundary
  dsimp only
  refine State.releaseRequests_inv _ _ ?_
  exact ite_keeps (fun w : State => w.store.Inv) (by simp [h]) (by simp [h])
@[simp] theorem State.closeBoundary_kept (s : State) (n : Nat) : (s.closeBoundary n).store.kept = s.store.kept := by
  unfold State.closeBoundary
  dsimp only
  refine (State.releaseRequests_kept _ _).trans ?_
  exact ite_keeps (fun w : State => w.store.kept = s.store.kept) (by simp) (by simp)
@[simp] theorem State.countRound_store (s : State) (ok : Bool) : (State.countRound s ok).store = s.store := by simp [State.countRound]
@[simp] theorem State.adoptPace_store (s : State) (t : SMap (List Byte)) : (State.adoptPace s t).store = s.store := by simp [State.adoptPace]
@[simp] theorem State.stepOk_inv (s : State) (slot n : Nat) (t : SMap (List Byte)) (h : s.store.Inv) : (s.stepOk slot n t).store.Inv := by
  unfold State.stepOk
  extract_lets owned due u v
  have hv : v.store.Inv := ite_keeps (fun w : State => w.store.Inv) (by simpa [u] using h) (by simpa [u] using h)
  clear_value v
  simp [hv]
@[simp] theorem State.stepOk_kept (s : State) (slot n : Nat) (t : SMap (List Byte)) : (s.stepOk slot n t).store.kept = s.store.kept := by
  unfold State.stepOk
  extract_lets owned due u v
  have hv : v.store.kept = s.store.kept := ite_keeps (fun w : State => w.store.kept = s.store.kept) (by simp [u]) (by simp [u])
  clear_value v
  simp [hv]
@[simp] theorem State.takeRequests_store (s : State) (n bits_ : Nat) : (State.takeRequests s n bits_).store = s.store := by simp [State.takeRequests]
@[simp] theorem State.fillerRetry_inv (s : State) (f cause : Nat) (h : s.store.Inv) : (s.fillerRetry f cause).store.Inv := by simp [State.fillerRetry, h]
@[simp] theorem State.fillerRetry_kept (s : State) (f cause : Nat) : (s.fillerRetry f cause).store.kept = s.store.kept := by simp [State.fillerRetry]
@[simp] theorem State.fillerDone_inv (s : State) (f : Nat) (h : s.store.Inv) : (s.fillerDone f).store.Inv := by
  unfold State.fillerDone; extract_lets; (repeat' split) <;> simp +zetaDelta [h]
@[simp] theorem State.fillerDone_kept (s : State) (f : Nat) : (s.fillerDone f).store.kept = s.store.kept := by
  unfold State.fillerDone; extract_lets; (repeat' split) <;> simp +zetaDelta
@[simp] theorem State.fillerResult_inv (s : State) (f e : Nat) (h : s.store.Inv) : (s.fillerResult f e).store.Inv := by
  unfold State.fillerResult; extract_lets; (repeat' split) <;> simp [h]
@[simp] theorem State.fillerResult_kept (s : State) (f e : Nat) : (s.fillerResult f e).store.kept = s.store.kept := by
  unfold State.fillerResult; extract_lets; (repeat' split) <;> simp
@[simp] theorem State.takeFillerRecord_inv (s : State) (f : Nat) (t : SMap (List Byte)) (h : s.store.Inv) : (s.takeFillerRecord f t).store.Inv := by simp [State.takeFillerRecord, h]
@[simp] theorem State.takeFillerRecord_kept (s : State) (f : Nat) (t : SMap (List Byte)) : (s.takeFillerRecord f t).store.kept = s.store.kept := by simp [State.takeFillerRecord]
@[simp] theorem State.fillerResults_inv (s : State) (t : SMap (List Byte)) (h : s.store.Inv) : (s.fillerResults t).store.Inv :=
  State.inv_foldl _ _ _ h (fun t a h => State.fillerResult_inv _ _ _ h)
@[simp] theorem State.fillerResults_kept (s : State) (t : SMap (List Byte)) : (s.fillerResults t).store.kept = s.store.kept :=
  State.kept_foldl _ _ _ (fun t a => State.fillerResult_kept _ _ _)
@[simp] theorem State.gatherMismatch_store (s : State) (n : Nat) (t : SMap (List Byte)) : (State.gatherMismatch s n t).store = s.store := by simp [State.gatherMismatch]
@[simp] theorem State.stepNotOk_kept (s : State) (n w : Nat) (t : SMap (List Byte)) : (State.stepNotOk s n w t).store.kept = s.store.kept := by simp [State.stepNotOk]
@[simp] theorem State.stepNotOk_inv (s : State) (n w : Nat) (t : SMap (List Byte)) (h : s.store.Inv) : (State.stepNotOk s n w t).store.Inv := by simp [State.stepNotOk, h]
@[simp] theorem State.applyStep_inv (s : State) (t : SMap (List Byte)) (h : s.store.Inv) : (s.applyStep t).store.Inv := by
  unfold State.applyStep
  extract_lets n w u v
  have hv : v.store.Inv := State.fillerResults_inv _ _ (by simpa [u] using h)
  clear_value v
  split
  · simp [hv]
  · simp [hv]
@[simp] theorem State.applyStep_kept (s : State) (t : SMap (List Byte)) : (s.applyStep t).store.kept = s.store.kept := by
  unfold State.applyStep
  extract_lets n w u v
  have hv : v.store.kept = s.store.kept := (State.fillerResults_kept _ _).trans (by simp [u])
  clear_value v
  split
  · simp [hv]
  · simp [hv]
@[simp] theorem State.closingOk_inv (s : State) (slot n : Nat) (h : s.store.Inv) : (s.closingOk slot n).store.Inv := by
  unfold State.closingOk
  extract_lets t j
  have ht : t.store.Inv := by simpa [t] using h
  clear_value t
  (repeat' split) <;> simp +zetaDelta [ht]
@[simp] theorem State.closingOk_kept (s : State) (slot n : Nat) : (s.closingOk slot n).store.kept = s.store.kept := by
  unfold State.closingOk
  extract_lets t j
  have ht : t.store.kept = s.store.kept := by simp [t]
  clear_value t
  (repeat' split) <;> simp +zetaDelta [ht]
@[simp] theorem State.refuseLayout_inv (s : State) (n : Nat) (h : s.store.Inv) : (s.refuseLayout n).store.Inv := by
  unfold State.refuseLayout
  extract_lets code t
  have ht : t.store.Inv := by simpa [t] using h
  refine ite_keeps (fun w : State => w.store.Inv) (by simp [h]) (State.closeBoundary_inv _ _ ?_)
  exact ite_keeps (fun w : State => w.store.Inv) (by simpa using ht) ht
@[simp] theorem State.refuseLayout_kept (s : State) (n : Nat) : (s.refuseLayout n).store.kept = s.store.kept := by
  unfold State.refuseLayout
  extract_lets code t
  have ht : t.store.kept = s.store.kept := by simp [t]
  refine ite_keeps (fun w : State => w.store.kept = s.store.kept) (by simp) ((State.closeBoundary_kept _ _).trans ?_)
  exact ite_keeps (fun w : State => w.store.kept = s.store.kept) (by simpa using ht) ht
@[simp] theorem State.mirrorRetry_kept (s : State) (slot n : Nat) (t : SMap (List Byte)) : (State.mirrorRetry s slot n t).store.kept = s.store.kept := by simp [State.mirrorRetry]
@[simp] theorem State.mirrorRetry_inv (s : State) (slot n : Nat) (t : SMap (List Byte)) (h : s.store.Inv) : (State.mirrorRetry s slot n t).store.Inv := by simp [State.mirrorRetry, h]
@[simp] theorem State.closingAgain_kept (s : State) (slot n w : Nat) : (State.closingAgain s slot n w).store.kept = s.store.kept := by simp [State.closingAgain]
@[simp] theorem State.closingAgain_inv (s : State) (slot n w : Nat) (h : s.store.Inv) : (State.closingAgain s slot n w).store.Inv := by simp [State.closingAgain, h]
@[simp] theorem State.closingNotOk_inv (s : State) (slot n w : Nat) (t : SMap (List Byte)) (h : s.store.Inv) : (s.closingNotOk slot n w t).store.Inv := by
  unfold State.closingNotOk
  extract_lets u j
  have hu : u.store.Inv := by simp [u, h]
  clear_value u
  (repeat' split) <;> simp +zetaDelta [hu]
@[simp] theorem State.closingNotOk_kept (s : State) (slot n w : Nat) (t : SMap (List Byte)) : (s.closingNotOk slot n w t).store.kept = s.store.kept := by
  unfold State.closingNotOk
  extract_lets u j
  have hu : u.store.kept = s.store.kept := by simp [u]
  clear_value u
  (repeat' split) <;> simp +zetaDelta [hu]
@[simp] theorem State.admissionResult_inv (s : State) (w : Nat) (h : s.store.Inv) : (s.admissionResult w).store.Inv :=
  ite_keeps (fun w : State => w.store.Inv) (by simp [h]) (by simp [h])
@[simp] theorem State.admissionResult_kept (s : State) (w : Nat) : (s.admissionResult w).store.kept = s.store.kept :=
  ite_keeps (fun w : State => w.store.kept = s.store.kept) (by simp) (by simp)
@[simp] theorem State.rollbackResult_inv (s : State) (w : Nat) (h : s.store.Inv) : (s.rollbackResult w).store.Inv := by
  unfold State.rollbackResult
  generalize s.rfld faultStatus 11 8 = k
  (repeat' split) <;> simp [h]
@[simp] theorem State.rollbackResult_kept (s : State) (w : Nat) : (s.rollbackResult w).store.kept = s.store.kept := by
  unfold State.rollbackResult
  generalize s.rfld faultStatus 11 8 = k
  (repeat' split) <;> simp
@[simp] theorem State.applyClosing_inv (s : State) (slot : Nat) (t : SMap (List Byte)) (h : s.store.Inv) : (s.applyClosing slot t).store.Inv := by
  unfold State.applyClosing
  dsimp only
  have hu : (s.countRound (decide (worstCause t = 0))).store.Inv := by simpa using h
  revert hu
  generalize s.countRound (decide (worstCause t = 0)) = u
  intro hu
  refine ite_keeps (fun w : State => w.store.Inv) (by simp [hu]) (ite_keeps (fun w : State => w.store.Inv) (by simp [hu]) ?_)
  exact ite_keeps (fun w : State => w.store.Inv) (by simp [hu]) (by simp [hu])
@[simp] theorem State.applyClosing_kept (s : State) (slot : Nat) (t : SMap (List Byte)) : (s.applyClosing slot t).store.kept = s.store.kept := by
  unfold State.applyClosing
  dsimp only
  have hu : (s.countRound (decide (worstCause t = 0))).store.kept = s.store.kept := by simp
  revert hu
  generalize s.countRound (decide (worstCause t = 0)) = u
  intro hu
  refine ite_keeps (fun w : State => w.store.kept = s.store.kept) (by simp [hu]) (ite_keeps (fun w : State => w.store.kept = s.store.kept) (by simp [hu]) ?_)
  exact ite_keeps (fun w : State => w.store.kept = s.store.kept) (by simp [hu]) (by simp [hu])
@[simp] theorem State.applyResult_inv (slot : Nat) (s : State) (r : Round) (t : SMap (List Byte)) (h : s.store.Inv) : (State.applyResult slot s r t).store.Inv :=
  ite_keeps (fun w : State => w.store.Inv) (by simp [h]) (ite_keeps (fun w : State => w.store.Inv) (by simp [h]) (by simp [h]))
@[simp] theorem State.applyResult_kept (slot : Nat) (s : State) (r : Round) (t : SMap (List Byte)) : (State.applyResult slot s r t).store.kept = s.store.kept :=
  ite_keeps (fun w : State => w.store.kept = s.store.kept) (by simp) (ite_keeps (fun w : State => w.store.kept = s.store.kept) (by simp) (by simp))
@[simp] theorem State.holdToKids_store (s : State) (slot tag step cause low : Nat) : (State.holdToKids s slot tag step cause low).store = s.store := by simp [State.holdToKids]
@[simp] theorem State.tellHold_store (s : State) (slot tag step cause low : Nat) : (State.tellHold s slot tag step cause low).store = s.store := by unfold State.tellHold; extract_lets; (repeat' split) <;> simp +zetaDelta
@[simp] theorem State.tellOwn_store (s : State) (slot cause : Nat) : (State.tellOwn s slot cause).store = s.store := by simp [State.tellOwn]
@[simp] theorem State.beginHold_store (s : State) (slot cause : Nat) : (State.beginHold s slot cause).store = s.store := by simp [State.beginHold]
@[simp] theorem State.endHold_store (s : State) (slot : Nat) : (State.endHold s slot).store = s.store := by simp [State.endHold]
@[simp] theorem State.castStep_inv (s : State) (slot : Nat) (h : s.store.Inv) : (s.castStep slot).store.Inv := by
  unfold State.castStep
  extract_lets n t u v nan f w q r
  have hw : w.store.Inv := ite_keeps (fun w : State => w.store.Inv) (by simp [f, v, u, t, h]) (by simp [v, u, t, h])
  clear_value w
  exact State.advanceRound_inv _ _ _ _ hw (fun t r v h => State.applyResult_inv _ _ _ _ h)
@[simp] theorem State.castStep_kept (s : State) (slot : Nat) : (s.castStep slot).store.kept = s.store.kept := by
  unfold State.castStep
  extract_lets n t u v nan f w q r
  have hw : w.store.kept = s.store.kept := ite_keeps (fun w : State => w.store.kept = s.store.kept) (by simp [f, v, u, t]) (by simp [v, u, t])
  clear_value w
  exact (State.advanceRound_kept _ _ _ _ (fun t r v => State.applyResult_kept _ _ _ _)).trans hw
@[simp] theorem State.castClosing_inv (s : State) (slot step cause : Nat) (h : s.store.Inv) : (s.castClosing slot step cause).store.Inv := by
  unfold State.castClosing
  extract_lets r
  exact ite_keeps (fun w : State => w.store.Inv) h (State.advanceRound_inv _ _ _ _ (by simp +zetaDelta [h]) (fun t r v h => State.applyResult_inv _ _ _ _ h))
@[simp] theorem State.castClosing_kept (s : State) (slot step cause : Nat) : (s.castClosing slot step cause).store.kept = s.store.kept := by
  unfold State.castClosing
  extract_lets r
  exact ite_keeps (fun w : State => w.store.kept = s.store.kept) rfl
    ((State.advanceRound_kept _ _ _ _ (fun t r v => State.applyResult_kept _ _ _ _)).trans (by simp +zetaDelta))
@[simp] theorem State.castRollback_inv (s : State) (h : s.store.Inv) : s.castRollback.store.Inv := by
  unfold State.castRollback
  extract_lets r t r1 r2 x
  have ht : t.store.Inv := by simpa [t] using h
  clear_value t
  have hx : x.1.store.Inv := foldl_keeps (fun y : State × Round => y.1.store.Inv) _ _ _ ht (fun b a hb => by simpa using hb)
  clear_value x
  exact ite_keeps (fun w : State => w.store.Inv) h (ite_keeps (fun w : State => w.store.Inv) (by simp [ht])
    (State.advanceRound_inv _ _ _ _ hx (fun t r v h => State.applyResult_inv _ _ _ _ h)))
@[simp] theorem State.castRollback_kept (s : State) : s.castRollback.store.kept = s.store.kept := by
  unfold State.castRollback
  extract_lets r t r1 r2 x
  have ht : t.store.kept = s.store.kept := by simp [t]
  clear_value t
  have hx : x.1.store.kept = s.store.kept := foldl_keeps (fun y : State × Round => y.1.store.kept = s.store.kept) _ _ _ ht (fun b a hb => by simpa using hb)
  clear_value x
  exact ite_keeps (fun w : State => w.store.kept = s.store.kept) rfl (ite_keeps (fun w : State => w.store.kept = s.store.kept) (by simp [ht])
    ((State.advanceRound_kept _ _ _ _ (fun t r v => State.applyResult_kept _ _ _ _)).trans hx))
@[simp] theorem State.runningClosing_inv (s : State) (slot : Nat) (h : s.store.Inv) : (s.runningClosing slot).store.Inv := by
  unfold State.runningClosing
  extract_lets j n t
  have ht : t.store.Inv := ite_keeps (fun w : State => w.store.Inv) (by simpa using h) h
  clear_value t
  (repeat' split) <;> simp [h, ht]
@[simp] theorem State.runningClosing_kept (s : State) (slot : Nat) : (s.runningClosing slot).store.kept = s.store.kept := by
  unfold State.runningClosing
  extract_lets j n t
  have ht : t.store.kept = s.store.kept := ite_keeps (fun w : State => w.store.kept = s.store.kept) (by simp) rfl
  clear_value t
  (repeat' split) <;> simp [ht]
@[simp] theorem State.release_kept (s : State) (slot n : Nat) : (State.release s slot n).store.kept = s.store.kept := by unfold State.release; apply State.kept_foldl; intro s a; simp
@[simp] theorem State.release_inv (s : State) (slot n : Nat) (h : s.store.Inv) : (State.release s slot n).store.Inv := by unfold State.release; apply State.inv_foldl _ _ _ (by simp [h]); intro s a h; (repeat' split) <;> simp [h]
@[simp] theorem State.signalCommit_kept (s : State) (slot : Nat) : (s.signalCommit slot).store.kept = s.store.kept :=
  State.kept_foldl _ _ _ (fun t a => by simp)
@[simp] theorem State.signalCommit_inv (s : State) (slot : Nat) (h : s.store.Inv) : (s.signalCommit slot).store.Inv :=
  State.inv_foldl _ _ _ h (fun t a h => State.inv_updCore _ _ _ h (fun k hk => CoreState.inv_updSlot k _ _ hk (fun c => by
    exact CoreSlot.setToken_queues _ _ _)))
theorem SMap.getD_map {α : Type} (m : SMap α) (f : α → α) (a : Nat) (d : α) (P : α → Prop) (hd : P d) (hf : ∀ x, P x → P (f x))
    (h : P (SMap.getD m a d)) : P (SMap.getD (m.map (fun k => (k.1, f k.2))) a d) := by
  induction m with
  | nil => exact hd
  | cons e m ih =>
    obtain ⟨k, v⟩ := e
    unfold SMap.getD SMap.find? at h ⊢
    simp only [List.map_cons]
    split at h
    · rename_i hk
      rw [if_pos hk]
      exact hf _ h
    · rename_i hk
      rw [if_neg hk]
      exact ih h
theorem CoreState.inv_default : CoreState.Inv {} :=
  ⟨rfl, rfl, by simp [tqWithin], fun i u => by simp [SMap.getD, CoreSlot.queue]⟩
@[simp] theorem State.clearBeats_kept (s : State) : s.clearBeats.store.kept = s.store.kept := State.kept_mk ..
@[simp] theorem State.clearBeats_inv (s : State) (h : s.store.Inv) : s.clearBeats.store.Inv := by
  refine ⟨h.1, h.2.1, h.2.2.1, fun c => ?_⟩
  exact SMap.getD_map s.cores (fun k => { k with units := k.units.map (fun (u : Nat × UnitState) =>
    (u.1, { u.2 with primaryBeats := 0, fillerBeats := 0 })) }) c {} CoreState.Inv CoreState.inv_default (fun k hk => hk) (h.2.2.2 c)
@[simp] theorem State.commitNumerics_store (s : State) (n : Nat) : (State.commitNumerics s n).store = s.store := by simp [State.commitNumerics]
@[simp] theorem State.commitDense_store (s : State) : (State.commitDense s).store = s.store := by simp [State.commitDense]
@[simp] theorem State.enrol_kept (s : State) (h' : List Byte) : (s.enrol h').store.kept = s.store.kept := by
  unfold State.enrol
  dsimp only
  refine ite_keeps (fun w : State => w.store.kept = s.store.kept) rfl (ite_keeps (fun w : State => w.store.kept = s.store.kept) ?_ (by simp))
  rw [State.setBit_store]
  rfl
theorem State.confirmSlot_keep (s t : State) (h : s.confirmSlot = some t) : t.store.kept = s.store.kept ∧ (s.store.Inv → t.store.Inv) := by
  unfold State.confirmSlot at h
  split at h
  · cases h
  · split at h
    · cases h
    · dsimp only at h
      cases h
      refine ⟨?_, fun hi => ?_⟩
      · rw [State.setReg_store]
        exact (State.enrol_kept _ _).trans (by simp)
      · rw [State.setReg_store]
        exact State.enrol_inv _ _ (by simp [hi])
@[simp] theorem State.confirmTrial_kept (s : State) : s.confirmTrial.store.kept = s.store.kept := by
  unfold State.confirmTrial
  cases h : s.confirmSlot with
  | none => exact ite_keeps (fun w : State => w.store.kept = s.store.kept) rfl rfl
  | some t => exact ite_keeps (fun w : State => w.store.kept = s.store.kept) (s.confirmSlot_keep t h).1 rfl
@[simp] theorem State.confirmTrial_inv (s : State) (h : s.store.Inv) : s.confirmTrial.store.Inv := by
  unfold State.confirmTrial
  cases hc : s.confirmSlot with
  | none => exact ite_keeps (fun w : State => w.store.Inv) h h
  | some t => exact ite_keeps (fun w : State => w.store.Inv) ((s.confirmSlot_keep t hc).2 h) h
@[simp] theorem State.commitPrimary_kept (s : State) (n : Nat) : (State.commitPrimary s n).store.kept = s.store.kept := by simp [State.commitPrimary]
@[simp] theorem State.commitPrimary_inv (s : State) (n : Nat) (h : s.store.Inv) : (State.commitPrimary s n).store.Inv := by simp [State.commitPrimary, h]

end Sys2Proof.Machine
end

