-- ==== Sys2Proof/Laws/Links.lean ====
section
/-! SUPPORT. What the link layer and discovery leave of a port (R311, R319, R322, R343): sending changes only the sequence of
sent flits, the retry buffer, the credits and what waits to be sent. -/

namespace Sys2Proof.Machine

open Sys2Proof

/-- The part of a port that sending leaves alone. -/
def Port.fixed (t : Port) : Port :=
  { t with txSeq := 0, retry := [], freed := [], ackSince := 0, credits := [], wait := [], txFrame := [], txSlot := 0, lanes := [] }

/-- Every port keeps its fixed part from `s` to `t`. -/
def PortsFixed (s t : State) : Prop := ∀ p, (t.port p).fixed = (s.port p).fixed

theorem PortsFixed.refl (s : State) : PortsFixed s s := fun _ => rfl

theorem PortsFixed.trans {s t u : State} (h : PortsFixed s t) (k : PortsFixed t u) : PortsFixed s u := fun p => (k p).trans (h p)

theorem PortsFixed.of_ports {s t : State} (h : t.ports = s.ports) : PortsFixed s t := fun p => by simp [State.port, h]

theorem PortsFixed.ite {s a b : State} {c : Prop} [Decidable c] (ha : PortsFixed s a) (hb : PortsFixed s b) :
    PortsFixed s (if c then a else b) := by split <;> assumption

theorem PortsFixed.updPort (s : State) (p : Nat) (f : Port → Port) (h : ∀ t, (f t).fixed = t.fixed) : PortsFixed s (s.updPort p f) := by
  intro q
  rw [State.port, State.updPort, SMap.getD_upd]
  split
  · rename_i hq; subst hq; exact h _
  · rfl

theorem PortsFixed.foldl {α : Type} (f : State → α → State) (l : List α) (s : State) (h : ∀ t a, PortsFixed t (f t a)) :
    PortsFixed s (l.foldl f s) := by
  induction l generalizing s with
  | nil => exact .refl _
  | cons a l ih => exact (h s a).trans (ih _)

theorem Port.place_fixed (t : Port) (p : Nat) (f : Flit) : (t.place p f).fixed = t.fixed := by
  unfold Port.place
  dsimp only
  split
  · rfl
  · split <;> rfl

theorem PortsFixed.sendFlit (s : State) (p : Nat) (f : Flit) : PortsFixed s (s.sendFlit p f) := by
  intro q
  unfold State.sendFlit
  rw [State.port_emit]
  exact PortsFixed.updPort s p _ (fun t => t.place_fixed p f) q

theorem PortsFixed.txFlit (s : State) (p type vl : Nat) (payload : List Byte) : PortsFixed s (s.txFlit p type vl payload) :=
  (PortsFixed.updPort s p _ (by intro t; rfl)).trans (.sendFlit _ _ _)

theorem PortsFixed.txControl (s : State) (p : Nat) (payload : List Byte) : PortsFixed s (s.txControl p payload) :=
  .ite (.txFlit _ _ _ _ _) (.refl _)

theorem PortsFixed.txMessage (s : State) (p vl : Nat) (m : Message) : PortsFixed s (s.txMessage p vl m) :=
  (PortsFixed.updPort s p _ (by intro t; rfl)).trans (.foldl _ _ _ (fun t a => .txFlit _ _ _ _ _))

theorem PortsFixed.flushWait (n : Nat) (s : State) (p : Nat) : PortsFixed s (s.flushWait n p) := by
  induction n generalizing s with
  | zero => exact .refl _
  | succ n ih =>
    unfold State.flushWait
    split
    · exact .refl _
    · exact .ite (((PortsFixed.updPort s p _ (by intro t; rfl)).trans (.txMessage _ _ _ _)).trans (ih _)) (.refl _)

theorem PortsFixed.flushPort (s : State) (p : Nat) : PortsFixed s (s.flushPort p) := .flushWait _ _ _

theorem PortsFixed.sendBeacon (s : State) (b : BeaconEntry) (p : Nat) : PortsFixed s (s.sendBeacon b p) :=
  (PortsFixed.updPort s p _ (by intro t; rfl)).trans (.flushPort _ _)

theorem State.ports_jqueue (s : State) (e : JEntry) : (s.jqueue e).ports = s.ports := by
  unfold State.jqueue
  dsimp only
  split
  · rfl
  · split <;> rfl

theorem PortsFixed.jqueue (s : State) (e : JEntry) : PortsFixed s (s.jqueue e) := .of_ports (State.ports_jqueue s e)

theorem PortsFixed.announce (s : State) : PortsFixed s s.announce := by
  unfold State.announce
  refine .ite (.refl _) ?_
  have h : ∀ f g, PortsFixed s (State.queueFabric (State.refreshFrozen { { s with fabric := f } with fabric := g })) := by
    intro f g
    exact (PortsFixed.of_ports (s := s) (t := State.refreshFrozen { s with fabric := g }) rfl).trans (.jqueue _ _)
  exact (h _ _).trans (.foldl _ _ _ (fun t a => .sendBeacon _ _ _))

theorem PortsFixed.linksChanged (s : State) : PortsFixed s s.linksChanged :=
  (PortsFixed.of_ports (s := s) (t := { s with fabric := _ }) rfl).trans (.announce _)

theorem PortsFixed.leaveUp (s : State) (p : Nat) : PortsFixed s (s.leaveUp p) :=
  (PortsFixed.of_ports (s := s) (t := { s with fabric := _ }) rfl).trans (.linksChanged _)

theorem PortsFixed.raiseError (s : State) (e : ErrInfo) : PortsFixed s (s.raiseError e) := .of_ports (State.raiseError_ports s e)

theorem PortsFixed.inc (s : State) (o n : Nat) : PortsFixed s (s.inc o n) := fun p => by rw [State.port_inc]

@[simp] theorem State.ports_serviceError (s : State) (a b c d e f g h i : Nat) :
    (s.serviceError a b c d e f g h i).ports = s.ports := by
  unfold State.serviceError State.stopEffect
  dsimp only
  split
  · simp
  · split
    · simp [State.voteCause]
    · split <;> simp [State.voteCause]

theorem PortsFixed.messageLost (s : State) (p : Nat) (m : Message) : PortsFixed s (s.messageLost p m) :=
  .ite (.raiseError _ _) (.of_ports (State.ports_serviceError _ _ _ _ _ _ _ _ _ _))

/-- The part of a port that going down leaves alone besides its state: its lost flits are cleared. -/
def Port.kept (t : Port) : Port := { t.fixed with partials := [] }

theorem PortsFixed.kept {s t : State} (h : PortsFixed s t) (p : Nat) : (t.port p).kept = (s.port p).kept := by
  unfold Port.kept
  rw [h p]

theorem State.kept_dropPort (s : State) (p q : Nat) : ((s.dropPort p).port q).kept = (s.port q).kept := by
  unfold State.dropPort
  have h : ∀ (l : List Message) (u : State), PortsFixed u
      (l.foldl (fun s m => State.messageLost (State.inc s (portReg p 0x58) 1) p m) u) :=
    fun l u => PortsFixed.foldl _ _ _ (fun t a => (PortsFixed.inc _ _ _).trans (.messageLost _ _ _))
  dsimp only
  rw [(h _ _).kept, State.port_updPort]
  split
  · rename_i hq; subst hq; rfl
  · rfl

/-- R319: a port taken down has the state and the reason given; of the other ports only what is sent over them changes. -/
theorem State.kept_takeDown (s : State) (p q st reason : Nat) : ((s.takeDown p st reason).port q).kept =
    if q = p then { (s.port p).kept with state := st, reason := reason, sub := 0 } else (s.port q).kept := by
  have h0 : ((s.setPort p st reason).port q).kept =
      if q = p then { (s.port p).kept with state := st, reason := reason, sub := 0 } else (s.port q).kept := by
    unfold State.setPort
    rw [State.port_updPort]
    split <;> rfl
  rw [← h0]
  unfold State.takeDown
  dsimp only
  split <;> split
  · rw [(PortsFixed.leaveUp _ _).kept, State.kept_dropPort]
  · first | rw [State.kept_dropPort] | rw [(PortsFixed.leaveUp _ _).kept]
  · first | rw [State.kept_dropPort] | rw [(PortsFixed.leaveUp _ _).kept]
  · rfl

theorem Port.kept_fields {t u : Port} (h : t.kept = u.kept) : t.state = u.state ∧ t.reason = u.reason ∧ t.sub = u.sub ∧
    t.power = u.power ∧ t.calib = u.calib ∧ t.rxSeq = u.rxSeq ∧ t.nakSent = u.nakSent ∧ t.loggedReason = u.loggedReason ∧
    t.identValid = u.identValid ∧ t.retrains = u.retrains ∧ t.resync = u.resync :=
  ⟨(show t.kept.state = u.kept.state from congrArg Port.state h),
    (show t.kept.reason = u.kept.reason from congrArg Port.reason h),
    (show t.kept.sub = u.kept.sub from congrArg Port.sub h),
    (show t.kept.power = u.kept.power from congrArg Port.power h),
    (show t.kept.calib = u.kept.calib from congrArg Port.calib h),
    (show t.kept.rxSeq = u.kept.rxSeq from congrArg Port.rxSeq h),
    (show t.kept.nakSent = u.kept.nakSent from congrArg Port.nakSent h),
    (show t.kept.loggedReason = u.kept.loggedReason from congrArg Port.loggedReason h),
    (show t.kept.identValid = u.kept.identValid from congrArg Port.identValid h),
    (show t.kept.retrains = u.kept.retrains from congrArg Port.retrains h),
    (show t.kept.resync = u.kept.resync from congrArg Port.resync h)⟩

/-- R318: an excluded port is in EXCLUDED with its reason. -/
theorem State.port_exclude (s : State) (p q reason : Nat) : ((s.exclude p reason).port q).state = (if q = p then 8 else (s.port q).state) ∧
    ((s.exclude p reason).port q).reason = if q = p then reason else (s.port q).reason := by
  have h : ∀ u : State, (∀ q, (u.port q).kept = ((s.takeDown p 8 reason).port q).kept) →
      (u.port q).state = (if q = p then 8 else (s.port q).state) ∧ (u.port q).reason = if q = p then reason else (s.port q).reason := by
    intro u hu
    have := (hu q).trans (State.kept_takeDown s p q 8 reason)
    by_cases hq : q = p
    · rw [if_pos hq] at this
      rw [if_pos hq, if_pos hq]
      exact ⟨congrArg Port.state this, congrArg Port.reason this⟩
    · rw [if_neg hq] at this
      rw [if_neg hq, if_neg hq]
      exact ⟨(Port.kept_fields this).1, (Port.kept_fields this).2.1⟩
  unfold State.exclude
  dsimp only
  split
  · refine h _ (fun q => ?_)
    rw [State.port_inc]
  · have h2 : ∀ u : State, (∀ q, (u.port q).state = (((s.takeDown p 8 reason).port q).state) ∧ (u.port q).reason = ((s.takeDown p 8 reason).port q).reason) →
        (u.port q).state = (if q = p then 8 else (s.port q).state) ∧ (u.port q).reason = if q = p then reason else (s.port q).reason := by
      intro u hu
      rw [(hu q).1, (hu q).2]
      exact h _ (fun _ => rfl)
    refine h2 _ (fun q => ?_)
    rw [State.port_raiseError, State.port_updPort]
    split
    · rename_i hq; subst hq; simp
    · simp

end Sys2Proof.Machine
end

