-- ==== Sys2Proof/WellFormed.lean ====
section
/-! DEFINITION. Which commands are well formed: the operands whose type admits more than the hardware can present are
checked against their ranges. A command that is not well formed is never sent by a real host, link or sensor. -/

namespace Sys2Proof

/-- The envelope's LEN agrees with the body, at most 4,096 bytes (R338). -/
def Message.wf (m : Message) : Bool := decide (m.body.length ≤ 512)

/-- A read returns at most one ingest frame of 64 MiB (Table 14-11), the largest transfer of the host link. -/
def ReadResult.wf : ReadResult → Bool
  | .ok bs => decide (bs.length ≤ 2 ^ 26)
  | .failed => true

/-- Microbatch indices are below 2^24 and at most 2^16 samples form a microbatch (R18, R153). -/
def SampleRef.wf (r : SampleRef) : Bool := decide (r.mb < 2 ^ 24) && decide (r.j < 2 ^ 16)

/-- Rail voltages are 16-bit millivolts (Table 17-9). -/
def RailReading.wf (r : RailReading) : Bool :=
  decide (r.target < 2 ^ 16) && decide (r.output < 2 ^ 16) && decide (r.remote < 2 ^ 16) && decide (r.localMv < 2 ^ 16)

/-- Paces are 16 bits wide and a trim is a signed 16-bit voltage (Tables 15-8, 17-9). -/
def CalReading.wf (r : CalReading) : Bool :=
  decide (r.low < 2 ^ 16) && decide (r.high < 2 ^ 16) && decide (-(2 ^ 15) ≤ r.trim) && decide (r.trim < 2 ^ 15)

/-- The widths of an IDENT control flit (R316). -/
def Ident.wf (i : Ident) : Bool :=
  decide (i.magic < 2 ^ 64) && decide (i.version < 2 ^ 64) && decide (i.serial < 2 ^ 64) && decide (i.fabricId < 2 ^ 64) &&
  decide (i.port < 16) && decide (i.delayNs < 2 ^ 64)

/-- A request names a 48-bit module address, at most one line and a class of Table 10-4 (R276, R277). -/
def MemRequest.wf (q : MemRequest) : Bool :=
  decide (q.addr < 2 ^ 48) && decide (0 < q.len) && decide (q.addr % 64 + q.len ≤ 64) && decide (1 ≤ q.cls) && decide (q.cls ≤ 4)

/-- Counts of a 1 µs window fit 16 bits (Table 17-9). -/
def PaceCount.wf (c : PaceCount) : Bool := decide (c.beats < 2 ^ 16) && decide (c.monitor < 2 ^ 16)

/-- A reading in 0.01 dBm or 0.125 °C is a signed 16-bit number (Tables 11-9, 17-9). -/
def reading16 (x : Int) : Bool := decide (-(2 ^ 15) ≤ x) && decide (x < 2 ^ 15)

/-- BAR0 is 64 MiB (R373). -/
def bar0Size : Nat := 2 ^ 26

/-- The checks on a command. -/
def Instr.wf : Instr → Bool
  | .localReexecution _ p => decide (p ≤ 10)
  | .bagScan _ _ l => l.all SampleRef.wf
  | .denseGatherServe _ g => decide (g < 2 ^ 32)
  | .messageForward k | .messageHoldDrop k => decide (k < 2 ^ 32)
  | .countMsg m | .rowRequest m | .rowResponse m | .gradBatch m | .reduceUp m | .bcastDown m | .voteUp m | .resultDown m
  | .mirrorDigest m | .holdUp m | .holdDown m | .permute m => m.wf
  | .beacon _ m => m.wf
  | .descriptorRead _ r | .frameRead _ r | .mailboxArgumentRead r | .imageWrite r => r.wf
  | .bar2Write o bs => decide (o + bs.length ≤ 2 ^ 39)
  | .bar2EarlyRead o => decide (o < 2 ^ 39)
  | .bar0BadRead o n => decide (o < bar0Size) && !((n = 8 && o % 8 = 0) || (n = 4 && o % 4 = 0)) && decide (n ≤ 4096)
  | .registerWrite o _ | .liveSettingWrite o _ | .needListConfig o _ => decide (o < bar0Size) && decide (o % 8 = 0)
  | .narrowerWrite o n _ => decide (o < bar0Size) && !(n = 8 && o % 8 = 0) && decide (n ≤ 4096)
  | .smbRegRead q => decide (q.off < bar0Size)
  | .exportDense _ g => decide (g < 2 ^ 32)
  | .functionReady r w => decide (1 ≤ r) && decide (r ≤ 6) && decide (w ≤ 16)
  | .inputRise n => decide (n < 8)
  | .softStartEnd _ r => r.wf
  | .paceCalibration l => l.all CalReading.wf
  | .lightCheck _ w b => decide (w.rx.length = 4) && decide (b.length = 4) && decide (w.tx.length = 4) && (w.rx ++ b ++ w.tx).all reading16
  | .lowPowerWarning _ w => decide (w.rx.length = 4) && decide (w.tx.length = 4) && (w.rx ++ w.tx).all reading16
  | .lockComplete _ k => decide (k.polarity < 16) && decide (k.calib.length ≤ 16)
  | .alignComplete _ l => decide (l.length = 4) && l.all (fun x => decide (x.2 < 2 ^ 16))
  | .identFlit _ i => i.wf
  | .qualifyEnd _ p l => decide (p < 2 ^ 64) && decide (l.length ≤ 16)
  | .nak _ n => decide (n < 2 ^ 16)
  | .lossOfSignal _ l | .lossOfAlignment _ l => decide (l < 4)
  | .memoryRead q => q.wf
  | .memoryWrite q bs => q.wf && decide (bs.length = q.len)
  | .class1ReadAge _ p => decide (p < 64)
  | .slateLate k | .slateRetry k _ | .slateTestTimeout k => decide (k < 2 ^ 32)
  | .paceWindow l => decide (l.length ≤ 256) && l.all PaceCount.wf
  | .powerSample w v => decide (w < 2 ^ 16) && decide (v < 2 ^ 16)
  | .sensorRead a b => a.all reading16 && b.all reading16 && decide (a.length ≤ 2 ^ 16) && decide (b.length ≤ 8)
  | .crossingTimeout x | .partnerDead x => decide (x.index < 2 ^ 16)
  | .samplePreload n => decide (n < 2 ^ 4096)
  | .jtagDebug _ o => decide (o < 2 ^ 48)
  | .bypass n => decide (n < 256)
  | .resizableBar g => decide (g ≤ 512)
  | .smbusOtherCode n => decide (n < 256)
  | _ => true

end Sys2Proof
end

