-- ==== Sys2Proof/Laws/PerInstr.lean ====
section
/-! SUPPORT. Per command: what a well-formed command carries into the module is bounded. -/

namespace Sys2Proof.Laws.Bounded

open Sys2Proof

/-- The bytes that a message brings: envelope and body. -/
def messageSize (m : Message) : Nat := 32 + 8 * m.body.length

/-- The bytes that a read returned. -/
def readSize : ReadResult → Nat
  | .ok bs => bs.length
  | .failed => 0

/-- The bytes that a command carries. -/
def size : Instr → Nat
  | .countMsg m | .rowRequest m | .rowResponse m | .gradBatch m | .reduceUp m | .bcastDown m | .voteUp m | .resultDown m
  | .mirrorDigest m | .holdUp m | .holdDown m | .permute m | .beacon _ m => messageSize m
  | .descriptorRead _ r | .frameRead _ r | .mailboxArgumentRead r | .imageWrite r => readSize r
  | .bar2Write _ bs | .memoryWrite _ bs => bs.length
  | .registerWrite _ _ | .liveSettingWrite _ _ | .needListConfig _ _ => 8
  | _ => 0

/-- What one command may carry: a message up to 4,128 bytes (R338), a read up to 64 MiB (Table 14-11), a write of BAR2 up to
its aperture (R373), a memory write up to one line (R277). -/
def limit : Instr → Nat
  | .descriptorRead _ _ | .frameRead _ _ | .mailboxArgumentRead _ | .imageWrite _ => 2 ^ 26
  | .bar2Write _ _ => 2 ^ 39
  | .memoryWrite _ _ => 64
  | _ => 4128

/-- A well-formed command carries no more than its limit. -/
def Statement (i : Instr) : Prop := i.wf = true → size i ≤ limit i

theorem messageSize_le (m : Message) (h : m.wf = true) : messageSize m ≤ 4128 := by
  simp only [Message.wf, decide_eq_true_eq] at h
  unfold messageSize; omega

theorem readSize_le (r : ReadResult) (h : r.wf = true) : readSize r ≤ 2 ^ 26 := by
  cases r with
  | ok bs => simpa [ReadResult.wf, readSize] using h
  | failed => exact Nat.zero_le _

theorem sqDispatch (c : CoreId) (s : SlotId) : Statement (.sqDispatch c s) := fun _ => Nat.zero_le _
theorem entryComplete (c : CoreId) (u : UnitId) : Statement (.entryComplete c u) := fun _ => Nat.zero_le _
theorem nop (c : CoreId) (s : SlotId) : Statement (.nop c s) := fun _ => Nat.zero_le _
theorem loop (c : CoreId) (s : SlotId) : Statement (.loop c s) := fun _ => Nat.zero_le _
theorem fence (c : CoreId) (s : SlotId) : Statement (.fence c s) := fun _ => Nat.zero_le _
theorem rsig (c : CoreId) (s : SlotId) : Statement (.rsig c s) := fun _ => Nat.zero_le _
theorem stepEnd (c : CoreId) (s : SlotId) : Statement (.stepEnd c s) := fun _ => Nat.zero_le _
theorem watchdogExpiry (c : CoreId) : Statement (.watchdogExpiry c) := fun _ => Nat.zero_le _
theorem localReexecution (s : SlotId) (phase : Nat) : Statement (.localReexecution s phase) := fun _ => Nat.zero_le _
theorem fillerChunkStart (c : CoreId) (u : UnitId) : Statement (.fillerChunkStart c u) := fun _ => Nat.zero_le _
theorem fillerChunkEnd (c : CoreId) (u : UnitId) : Statement (.fillerChunkEnd c u) := fun _ => Nat.zero_le _
theorem skMove (c : CoreId) (s : SlotId) : Statement (.skMove c s) := fun _ => Nat.zero_le _
theorem clear (c : CoreId) (a : ArrayId) (s : SlotId) : Statement (.clear c a s) := fun _ => Nat.zero_le _
theorem drain (c : CoreId) (a : ArrayId) (s : SlotId) : Statement (.drain c a s) := fun _ => Nat.zero_le _
theorem pass (c : CoreId) (a : ArrayId) (s : SlotId) : Statement (.pass c a s) := fun _ => Nat.zero_le _
theorem tileDrain (c : CoreId) (a : ArrayId) : Statement (.tileDrain c a) := fun _ => Nat.zero_le _
theorem veAdd (c : CoreId) (s : SlotId) : Statement (.veAdd c s) := fun _ => Nat.zero_le _
theorem veSub (c : CoreId) (s : SlotId) : Statement (.veSub c s) := fun _ => Nat.zero_le _
theorem veMul (c : CoreId) (s : SlotId) : Statement (.veMul c s) := fun _ => Nat.zero_le _
theorem axpy (c : CoreId) (s : SlotId) : Statement (.axpy c s) := fun _ => Nat.zero_le _
theorem veDiv (c : CoreId) (s : SlotId) : Statement (.veDiv c s) := fun _ => Nat.zero_le _
theorem veMin (c : CoreId) (s : SlotId) : Statement (.veMin c s) := fun _ => Nat.zero_le _
theorem veMax (c : CoreId) (s : SlotId) : Statement (.veMax c s) := fun _ => Nat.zero_le _
theorem veAbs (c : CoreId) (s : SlotId) : Statement (.veAbs c s) := fun _ => Nat.zero_le _
theorem veNeg (c : CoreId) (s : SlotId) : Statement (.veNeg c s) := fun _ => Nat.zero_le _
theorem sqrt (c : CoreId) (s : SlotId) : Statement (.sqrt c s) := fun _ => Nat.zero_le _
theorem rsqrt (c : CoreId) (s : SlotId) : Statement (.rsqrt c s) := fun _ => Nat.zero_le _
theorem veExp (c : CoreId) (s : SlotId) : Statement (.veExp c s) := fun _ => Nat.zero_le _
theorem veLog (c : CoreId) (s : SlotId) : Statement (.veLog c s) := fun _ => Nat.zero_le _
theorem sigmoid (c : CoreId) (s : SlotId) : Statement (.sigmoid c s) := fun _ => Nat.zero_le _
theorem tanh (c : CoreId) (s : SlotId) : Statement (.tanh c s) := fun _ => Nat.zero_le _
theorem cvt (c : CoreId) (s : SlotId) : Statement (.cvt c s) := fun _ => Nat.zero_le _
theorem cmpLt (c : CoreId) (s : SlotId) : Statement (.cmpLt c s) := fun _ => Nat.zero_le _
theorem cmpLe (c : CoreId) (s : SlotId) : Statement (.cmpLe c s) := fun _ => Nat.zero_le _
theorem cmpEq (c : CoreId) (s : SlotId) : Statement (.cmpEq c s) := fun _ => Nat.zero_le _
theorem cmpUn (c : CoreId) (s : SlotId) : Statement (.cmpUn c s) := fun _ => Nat.zero_le _
theorem veSelect (c : CoreId) (s : SlotId) : Statement (.veSelect c s) := fun _ => Nat.zero_le _
theorem iadd (c : CoreId) (s : SlotId) : Statement (.iadd c s) := fun _ => Nat.zero_le _
theorem isub (c : CoreId) (s : SlotId) : Statement (.isub c s) := fun _ => Nat.zero_le _
theorem iaddSat (c : CoreId) (s : SlotId) : Statement (.iaddSat c s) := fun _ => Nat.zero_le _
theorem isubSat (c : CoreId) (s : SlotId) : Statement (.isubSat c s) := fun _ => Nat.zero_le _
theorem uaddSat (c : CoreId) (s : SlotId) : Statement (.uaddSat c s) := fun _ => Nat.zero_le _
theorem veAnd (c : CoreId) (s : SlotId) : Statement (.veAnd c s) := fun _ => Nat.zero_le _
theorem veOr (c : CoreId) (s : SlotId) : Statement (.veOr c s) := fun _ => Nat.zero_le _
theorem veXor (c : CoreId) (s : SlotId) : Statement (.veXor c s) := fun _ => Nat.zero_le _
theorem veNot (c : CoreId) (s : SlotId) : Statement (.veNot c s) := fun _ => Nat.zero_le _
theorem shl (c : CoreId) (s : SlotId) : Statement (.shl c s) := fun _ => Nat.zero_le _
theorem shr (c : CoreId) (s : SlotId) : Statement (.shr c s) := fun _ => Nat.zero_le _
theorem sar (c : CoreId) (s : SlotId) : Statement (.sar c s) := fun _ => Nat.zero_le _
theorem imin (c : CoreId) (s : SlotId) : Statement (.imin c s) := fun _ => Nat.zero_le _
theorem imax (c : CoreId) (s : SlotId) : Statement (.imax c s) := fun _ => Nat.zero_le _
theorem umin (c : CoreId) (s : SlotId) : Statement (.umin c s) := fun _ => Nat.zero_le _
theorem umax (c : CoreId) (s : SlotId) : Statement (.umax c s) := fun _ => Nat.zero_le _
theorem add64 (c : CoreId) (s : SlotId) : Statement (.add64 c s) := fun _ => Nat.zero_le _
theorem rsumRow (c : CoreId) (s : SlotId) : Statement (.rsumRow c s) := fun _ => Nat.zero_le _
theorem rmaxRow (c : CoreId) (s : SlotId) : Statement (.rmaxRow c s) := fun _ => Nat.zero_le _
theorem rminRow (c : CoreId) (s : SlotId) : Statement (.rminRow c s) := fun _ => Nat.zero_le _
theorem rmaxabsRow (c : CoreId) (s : SlotId) : Statement (.rmaxabsRow c s) := fun _ => Nat.zero_le _
theorem rsumCol (c : CoreId) (s : SlotId) : Statement (.rsumCol c s) := fun _ => Nat.zero_le _
theorem rmaxCol (c : CoreId) (s : SlotId) : Statement (.rmaxCol c s) := fun _ => Nat.zero_le _
theorem rmaxabsCol (c : CoreId) (s : SlotId) : Statement (.rmaxabsCol c s) := fun _ => Nat.zero_le _
theorem histLog2 (c : CoreId) (s : SlotId) : Statement (.histLog2 c s) := fun _ => Nat.zero_le _
theorem softmax (c : CoreId) (s : SlotId) : Statement (.softmax c s) := fun _ => Nat.zero_le _
theorem cvtToSb (c : CoreId) (s : SlotId) : Statement (.cvtToSb c s) := fun _ => Nat.zero_le _
theorem cvtFromSb (c : CoreId) (s : SlotId) : Statement (.cvtFromSb c s) := fun _ => Nat.zero_le _
theorem cvtBi32 (c : CoreId) (s : SlotId) : Statement (.cvtBi32 c s) := fun _ => Nat.zero_le _
theorem vload (c : CoreId) (s : SlotId) : Statement (.vload c s) := fun _ => Nat.zero_le _
theorem vstore (c : CoreId) (s : SlotId) : Statement (.vstore c s) := fun _ => Nat.zero_le _
theorem bagScan (c : CoreId) (s : SlotId) (samples : List SampleRef) : Statement (.bagScan c s samples) := fun _ => Nat.zero_le _
theorem keyMerge (c : CoreId) (s : SlotId) : Statement (.keyMerge c s) := fun _ => Nat.zero_le _
theorem spillChunkGrant (c : CoreId) : Statement (.spillChunkGrant c) := fun _ => Nat.zero_le _
theorem respExpand (c : CoreId) (s : SlotId) : Statement (.respExpand c s) := fun _ => Nat.zero_le _
theorem gradScan (c : CoreId) (s : SlotId) : Statement (.gradScan c s) := fun _ => Nat.zero_le _
theorem gradFlush (c : CoreId) (s : SlotId) : Statement (.gradFlush c s) := fun _ => Nat.zero_le _
theorem gradMerge (c : CoreId) (s : SlotId) : Statement (.gradMerge c s) := fun _ => Nat.zero_le _
theorem exchClose (c : CoreId) (s : SlotId) : Statement (.exchClose c s) := fun _ => Nat.zero_le _
theorem agreeMax (c : CoreId) (s : SlotId) : Statement (.agreeMax c s) := fun _ => Nat.zero_le _
theorem reduceScatter (c : CoreId) (s : SlotId) : Statement (.reduceScatter c s) := fun _ => Nat.zero_le _
theorem allGather (c : CoreId) (s : SlotId) : Statement (.allGather c s) := fun _ => Nat.zero_le _
theorem denseGatherServe (s : SlotId) (g : Nat) : Statement (.denseGatherServe s g) := fun _ => Nat.zero_le _
theorem messageForward (k : Nat) : Statement (.messageForward k) := fun _ => Nat.zero_le _
theorem messageHoldDrop (k : Nat) : Statement (.messageHoldDrop k) := fun _ => Nat.zero_le _
theorem countMsg (m : Message) : Statement (.countMsg m) := fun h => messageSize_le m h
theorem rowRequest (m : Message) : Statement (.rowRequest m) := fun h => messageSize_le m h
theorem rowResponse (m : Message) : Statement (.rowResponse m) := fun h => messageSize_le m h
theorem gradBatch (m : Message) : Statement (.gradBatch m) := fun h => messageSize_le m h
theorem reduceUp (m : Message) : Statement (.reduceUp m) := fun h => messageSize_le m h
theorem bcastDown (m : Message) : Statement (.bcastDown m) := fun h => messageSize_le m h
theorem voteUp (m : Message) : Statement (.voteUp m) := fun h => messageSize_le m h
theorem resultDown (m : Message) : Statement (.resultDown m) := fun h => messageSize_le m h
theorem mirrorDigest (m : Message) : Statement (.mirrorDigest m) := fun h => messageSize_le m h
theorem mirrorDigestTimeout (s : SlotId) : Statement (.mirrorDigestTimeout s) := fun _ => Nat.zero_le _
theorem holdUp (m : Message) : Statement (.holdUp m) := fun h => messageSize_le m h
theorem holdDown (m : Message) : Statement (.holdDown m) := fun h => messageSize_le m h
theorem holdNoticeTimer (s : SlotId) : Statement (.holdNoticeTimer s) := fun _ => Nat.zero_le _
theorem ingestHoldTimeout (c : CoreId) : Statement (.ingestHoldTimeout c) := fun _ => Nat.zero_le _
theorem permute (m : Message) : Statement (.permute m) := fun h => messageSize_le m h
theorem permuteComplete (s : SlotId) : Statement (.permuteComplete s) := fun _ => Nat.zero_le _
theorem guidonVote (s : SlotId) : Statement (.guidonVote s) := fun _ => Nat.zero_le _
theorem closingVote (s : SlotId) : Statement (.closingVote s) := fun _ => Nat.zero_le _
theorem voteTimeout (s : SlotId) : Statement (.voteTimeout s) := fun _ => Nat.zero_le _
theorem rowUpdate (e : EngineId) : Statement (.rowUpdate e) := fun _ => Nat.zero_le _
theorem recordWriteAccept (st : StackId) : Statement (.recordWriteAccept st) := fun _ => Nat.zero_le _
theorem phase9Complete (s : SlotId) : Statement (.phase9Complete s) := fun _ => Nat.zero_le _
theorem commitPoint (s : SlotId) : Statement (.commitPoint s) := fun _ => Nat.zero_le _
theorem idleCommitPoint : Statement (.idleCommitPoint) := fun _ => Nat.zero_le _
theorem rollbackDrainEnd : Statement (.rollbackDrainEnd) := fun _ => Nat.zero_le _
theorem rollbackWait : Statement (.rollbackWait) := fun _ => Nat.zero_le _
theorem flintPointEnd (passed : Bool) : Statement (.flintPointEnd passed) := fun _ => Nat.zero_le _
theorem flintRetest : Statement (.flintRetest) := fun _ => Nat.zero_le _
theorem fillerFlint (passed : Bool) : Statement (.fillerFlint passed) := fun _ => Nat.zero_le _
theorem ringDoorbell (r : RingId) (v : Word) : Statement (.ringDoorbell r v) := fun _ => Nat.zero_le _
theorem ringConfig (r : RingId) (v : Word) : Statement (.ringConfig r v) := fun _ => Nat.zero_le _
theorem descriptorRead (r : RingId) (res : ReadResult) : Statement (.descriptorRead r res) := fun h => readSize_le res h
theorem frameRead (r : RingId) (res : ReadResult) : Statement (.frameRead r res) := fun h => readSize_le res h
theorem ringResume (r : RingId) (v : Word) : Statement (.ringResume r v) := fun _ => Nat.zero_le _
theorem frameLanding (r : RingId) : Statement (.frameLanding r) := fun _ => Nat.zero_le _
theorem ingestFence : Statement (.ingestFence) := fun _ => Nat.zero_le _
theorem bar2Write (off : Nat) (bytes : List Byte) : Statement (.bar2Write off bytes) := by
  intro h
  simp only [Instr.wf, decide_eq_true_eq] at h
  show bytes.length ≤ 2 ^ 39
  omega
theorem bar2EarlyRead (off : Nat) : Statement (.bar2EarlyRead off) := fun _ => Nat.zero_le _
theorem bar0BadRead (off : Nat) (len : Nat) : Statement (.bar0BadRead off len) := fun _ => Nat.zero_le _
theorem registerWrite (off : Nat) (v : Word) : Statement (.registerWrite off v) := fun _ => by show 8 ≤ 4128; decide
theorem liveSettingWrite (off : Nat) (v : Word) : Statement (.liveSettingWrite off v) := fun _ => by show 8 ≤ 4128; decide
theorem hlLiveHold (v : Word) : Statement (.hlLiveHold v) := fun _ => Nat.zero_le _
theorem exportRow (s : SlotId) : Statement (.exportRow s) := fun _ => Nat.zero_le _
theorem exportSweep (s : SlotId) : Statement (.exportSweep s) := fun _ => Nat.zero_le _
theorem exportDense (s : SlotId) (g : Nat) : Statement (.exportDense s g) := fun _ => Nat.zero_le _
theorem exportNumerics (s : SlotId) : Statement (.exportNumerics s) := fun _ => Nat.zero_le _
theorem exportMap (s : SlotId) : Statement (.exportMap s) := fun _ => Nat.zero_le _
theorem exportManifest (s : SlotId) : Statement (.exportManifest s) := fun _ => Nat.zero_le _
theorem exportRelease (v : Word) : Statement (.exportRelease v) := fun _ => Nat.zero_le _
theorem exportFence : Statement (.exportFence) := fun _ => Nat.zero_le _
theorem ackStep (s : SlotId) (v : Word) : Statement (.ackStep s v) := fun _ => Nat.zero_le _
theorem needEntryWrite : Statement (.needEntryWrite) := fun _ => Nat.zero_le _
theorem needListConfig (off : Nat) (v : Word) : Statement (.needListConfig off v) := fun _ => by show 8 ≤ 4128; decide
theorem needRelease (v : Word) : Statement (.needRelease v) := fun _ => Nat.zero_le _
theorem restoreDoorbell (v : Word) : Statement (.restoreDoorbell v) := fun _ => Nat.zero_le _
theorem restoreRecord : Statement (.restoreRecord) := fun _ => Nat.zero_le _
theorem restoreDone (v : Word) : Statement (.restoreDone v) := fun _ => Nat.zero_le _
theorem replayAck (v : Word) : Statement (.replayAck v) := fun _ => Nat.zero_le _
theorem mailboxArgumentRead (res : ReadResult) : Statement (.mailboxArgumentRead res) := fun h => readSize_le res h
theorem attest : Statement (.attest) := fun _ => Nat.zero_le _
theorem imageWrite (res : ReadResult) : Statement (.imageWrite res) := fun h => readSize_le res h
theorem activate : Statement (.activate) := fun _ => Nat.zero_le _
theorem confirm : Statement (.confirm) := fun _ => Nat.zero_le _
theorem abandon : Statement (.abandon) := fun _ => Nat.zero_le _
theorem mboxRestore : Statement (.mboxRestore) := fun _ => Nat.zero_le _
theorem grow : Statement (.grow) := fun _ => Nat.zero_le _
theorem shutdownDrain : Statement (.shutdownDrain) := fun _ => Nat.zero_le _
theorem shutdownImmediate : Statement (.shutdownImmediate) := fun _ => Nat.zero_le _
theorem shutdownTimeout : Statement (.shutdownTimeout) := fun _ => Nat.zero_le _
theorem errlog : Statement (.errlog) := fun _ => Nat.zero_le _
theorem mailboxReservedCode : Statement (.mailboxReservedCode) := fun _ => Nat.zero_le _
theorem perstAssert : Statement (.perstAssert) := fun _ => Nat.zero_le _
theorem perstDeassert : Statement (.perstDeassert) := fun _ => Nat.zero_le _
theorem functionLevelReset : Statement (.functionLevelReset) := fun _ => Nat.zero_le _
theorem d3hotEntry : Statement (.d3hotEntry) := fun _ => Nat.zero_le _
theorem linkLeavesL0 : Statement (.linkLeavesL0) := fun _ => Nat.zero_le _
theorem linkReturn : Statement (.linkReturn) := fun _ => Nat.zero_le _
theorem linkLossTimeout : Statement (.linkLossTimeout) := fun _ => Nat.zero_le _
theorem functionReady (rate : Nat) (width : Nat) : Statement (.functionReady rate width) := fun _ => Nat.zero_le _
theorem inputRise (straps : Nat) : Statement (.inputRise straps) := fun _ => Nat.zero_le _
theorem underVoltage : Statement (.underVoltage) := fun _ => Nat.zero_le _
theorem lossOfInput : Statement (.lossOfInput) := fun _ => Nat.zero_le _
theorem overVoltage : Statement (.overVoltage) := fun _ => Nat.zero_le _
theorem overVoltageClear : Statement (.overVoltageClear) := fun _ => Nat.zero_le _
theorem pwrEnAssert : Statement (.pwrEnAssert) := fun _ => Nat.zero_le _
theorem pwrEnDeassert : Statement (.pwrEnDeassert) := fun _ => Nat.zero_le _
theorem softStartEnd (d : DomainId) (rail : RailReading) : Statement (.softStartEnd d rail) := fun _ => Nat.zero_le _
theorem shortedOutput (d : DomainId) : Statement (.shortedOutput d) := fun _ => Nat.zero_le _
theorem imageSelection : Statement (.imageSelection) := fun _ => Nat.zero_le _
theorem journalRestore : Statement (.journalRestore) := fun _ => Nat.zero_le _
theorem paceCalibration (readings : List CalReading) : Statement (.paceCalibration readings) := fun _ => Nat.zero_le _
theorem hbmInitialised : Statement (.hbmInitialised) := fun _ => Nat.zero_le _
theorem slateInitialised : Statement (.slateInitialised) := fun _ => Nat.zero_le _
theorem journalFlush : Statement (.journalFlush) := fun _ => Nat.zero_le _
theorem laserFail (k : EngineUnit) : Statement (.laserFail k) := fun _ => Nat.zero_le _
theorem lightCheck (p : PortId) (powers : LanePowers) (reverse : List Int) : Statement (.lightCheck p powers reverse) := fun _ => Nat.zero_le _
theorem lightPartialTimeout (p : PortId) : Statement (.lightPartialTimeout p) := fun _ => Nat.zero_le _
theorem lockComplete (p : PortId) (lock : LaneLock) : Statement (.lockComplete p lock) := fun _ => Nat.zero_le _
theorem lockTimeout (p : PortId) : Statement (.lockTimeout p) := fun _ => Nat.zero_le _
theorem alignComplete (p : PortId) (marks : List (Codeword × Nat)) : Statement (.alignComplete p marks) := fun _ => Nat.zero_le _
theorem alignTimeout (p : PortId) : Statement (.alignTimeout p) := fun _ => Nat.zero_le _
theorem identSend (p : PortId) : Statement (.identSend p) := fun _ => Nat.zero_le _
theorem identFlit (p : PortId) (ident : Ident) : Statement (.identFlit p ident) := fun _ => Nat.zero_le _
theorem identTimeout (p : PortId) : Statement (.identTimeout p) := fun _ => Nat.zero_le _
theorem qualifyEnd (p : PortId) (ppm : Nat) (calib : List Word) : Statement (.qualifyEnd p ppm calib) := fun _ => Nat.zero_le _
theorem retrainTimeout (p : PortId) : Statement (.retrainTimeout p) := fun _ => Nat.zero_le _
theorem excludedRetry (p : PortId) : Statement (.excludedRetry p) := fun _ => Nat.zero_le _
theorem flitReceive (p : PortId) (got : LaneCodeword) (pos : Fin 5) : Statement (.flitReceive p got pos) := fun _ => Nat.zero_le _
theorem nak (p : PortId) (seq : Nat) : Statement (.nak p seq) := fun _ => Nat.zero_le _
theorem nakRepeat (p : PortId) : Statement (.nakRepeat p) := fun _ => Nat.zero_le _
theorem ackTimer (p : PortId) : Statement (.ackTimer p) := fun _ => Nat.zero_le _
theorem lossOfSignal (p : PortId) (lane : Nat) : Statement (.lossOfSignal p lane) := fun _ => Nat.zero_le _
theorem lossOfAlignment (p : PortId) (lane : Nat) : Statement (.lossOfAlignment p lane) := fun _ => Nat.zero_le _
theorem ackProgressTimeout (p : PortId) : Statement (.ackProgressTimeout p) := fun _ => Nat.zero_le _
theorem beacon (p : PortId) (m : Message) : Statement (.beacon p m) := fun h => messageSize_le m h
theorem databaseQuiet : Statement (.databaseQuiet) := fun _ => Nat.zero_le _
theorem mapStall : Statement (.mapStall) := fun _ => Nat.zero_le _
theorem memoryRead (q : MemRequest) : Statement (.memoryRead q) := fun _ => Nat.zero_le _
theorem memoryWrite (q : MemRequest) (bytes : List Byte) : Statement (.memoryWrite q bytes) := by
  intro h
  simp only [Instr.wf, MemRequest.wf, Bool.and_eq_true, decide_eq_true_eq] at h
  show bytes.length ≤ 64
  omega
theorem class1ReadAge (st : StackId) (pc : Nat) : Statement (.class1ReadAge st pc) := fun _ => Nat.zero_le _
theorem scrub (st : StackId) : Statement (.scrub st) := fun _ => Nat.zero_le _
theorem promoteWindow : Statement (.promoteWindow) := fun _ => Nat.zero_le _
theorem pagePromotion : Statement (.pagePromotion) := fun _ => Nat.zero_le _
theorem slateLate (k : Nat) : Statement (.slateLate k) := fun _ => Nat.zero_le _
theorem slateRetry (k : Nat) (ok : Bool) : Statement (.slateRetry k ok) := fun _ => Nat.zero_le _
theorem slateTestTimeout (k : Nat) : Statement (.slateTestTimeout k) := fun _ => Nat.zero_le _
theorem paceWindow (counts : List PaceCount) : Statement (.paceWindow counts) := fun _ => Nat.zero_le _
theorem governorTick : Statement (.governorTick) := fun _ => Nat.zero_le _
theorem slopeCeilingTick : Statement (.slopeCeilingTick) := fun _ => Nat.zero_le _
theorem powerSample (watts : Nat) (volts : Nat) : Statement (.powerSample watts volts) := fun _ => Nat.zero_le _
theorem powerDecreaseTick : Statement (.powerDecreaseTick) := fun _ => Nat.zero_le _
theorem powerIncreaseTick : Statement (.powerIncreaseTick) := fun _ => Nat.zero_le _
theorem sensorRead (junction : List Int) (hbm : List Int) : Statement (.sensorRead junction hbm) := fun _ => Nat.zero_le _
theorem thermalTrip (d : DomainId) : Statement (.thermalTrip d) := fun _ => Nat.zero_le _
theorem tripRecovery : Statement (.tripRecovery) := fun _ => Nat.zero_le _
theorem crossingTimeout (x : Crossing) : Statement (.crossingTimeout x) := fun _ => Nat.zero_le _
theorem partnerDead (x : Crossing) : Statement (.partnerDead x) := fun _ => Nat.zero_le _
theorem smbCapability : Statement (.smbCapability) := fun _ => Nat.zero_le _
theorem smbFaultSummary : Statement (.smbFaultSummary) := fun _ => Nat.zero_le _
theorem smbIdent : Statement (.smbIdent) := fun _ => Nat.zero_le _
theorem smbStart : Statement (.smbStart) := fun _ => Nat.zero_le _
theorem smbTemperature : Statement (.smbTemperature) := fun _ => Nat.zero_le _
theorem smbPower : Statement (.smbPower) := fun _ => Nat.zero_le _
theorem smbPace : Statement (.smbPace) := fun _ => Nat.zero_le _
theorem smbRegRead (read : SmbRead) : Statement (.smbRegRead read) := fun _ => Nat.zero_le _
theorem sclLowTimeout : Statement (.sclLowTimeout) := fun _ => Nat.zero_le _
theorem sdaLowTimeout : Statement (.sdaLowTimeout) := fun _ => Nat.zero_le _
theorem busClear (longLow : Bool) : Statement (.busClear longLow) := fun _ => Nat.zero_le _
theorem idcode : Statement (.idcode) := fun _ => Nat.zero_le _
theorem samplePreload (data : Nat) : Statement (.samplePreload data) := fun _ => Nat.zero_le _
theorem extest : Statement (.extest) := fun _ => Nat.zero_le _
theorem highz : Statement (.highz) := fun _ => Nat.zero_le _
theorem clamp : Statement (.clamp) := fun _ => Nat.zero_le _
theorem jtagDebug (space : DebugSpace) (off : Nat) : Statement (.jtagDebug space off) := fun _ => Nat.zero_le _
theorem bypass (code : Nat) : Statement (.bypass code) := fun _ => Nat.zero_le _
theorem narrowerWrite (off : Nat) (len : Nat) (v : Word) : Statement (.narrowerWrite off len v) := fun _ => Nat.zero_le _
theorem lowPowerWarning (p : PortId) (powers : LanePowers) : Statement (.lowPowerWarning p powers) := fun _ => Nat.zero_le _
theorem resizableBar (gib : Nat) : Statement (.resizableBar gib) := fun _ => Nat.zero_le _
theorem smbusOtherCode (code : Nat) : Statement (.smbusOtherCode code) := fun _ => Nat.zero_le _
theorem trstAssert : Statement (.trstAssert) := fun _ => Nat.zero_le _

end Sys2Proof.Laws.Bounded
end

