-- ==== Sys2Proof/Tests/Slice0.lean ====
section
/-! SUPPORT. Named tests: an ill-formed term for each check of `WellFormed`, a state and operands that meet the hypotheses of
each statement, and single steps whose results are the spec's own. -/

namespace Sys2Proof.Tests

open Sys2Proof Sys2Proof.Machine

/-! An ill-formed term for each check. -/

theorem test_wf_refuses_message_of_more_than_4096_bytes : Instr.wf (.beacon 0 { body := List.replicate 513 0 }) = false := by decide +kernel
theorem test_wf_refuses_forwarded_message_of_more_than_4096_bytes : Instr.wf (.countMsg { body := List.replicate 513 0 }) = false := by decide +kernel
theorem test_wf_refuses_sample_of_a_microbatch_that_no_24_bits_hold : Instr.wf (.bagScan 0 0 [⟨2 ^ 24, 0⟩]) = false := by decide
theorem test_wf_refuses_sample_beyond_its_microbatch : Instr.wf (.bagScan 0 0 [⟨0, 2 ^ 16⟩]) = false := by decide
theorem test_wf_refuses_phase_11 : Instr.wf (.localReexecution 0 11) = false := by decide
theorem test_wf_refuses_dense_group_of_33_bits : Instr.wf (.denseGatherServe 0 (2 ^ 32)) = false := by decide
theorem test_wf_refuses_exported_slice_of_33_bits : Instr.wf (.exportDense 0 (2 ^ 32)) = false := by decide
theorem test_wf_refuses_router_place_of_33_bits : Instr.wf (.messageForward (2 ^ 32)) = false := by decide
theorem test_wf_refuses_bar2_write_past_512_GiB : Instr.wf (.bar2Write (2 ^ 39) [0]) = false := by decide
theorem test_wf_refuses_bar2_read_past_512_GiB : Instr.wf (.bar2EarlyRead (2 ^ 39)) = false := by decide
theorem test_wf_refuses_bad_read_that_is_a_good_one : Instr.wf (.bar0BadRead 8 8) = false := by decide
theorem test_wf_refuses_bad_read_past_bar0 : Instr.wf (.bar0BadRead (2 ^ 26) 2) = false := by decide
theorem test_wf_refuses_register_write_off_a_word : Instr.wf (.registerWrite 4 0) = false := by decide
theorem test_wf_refuses_register_write_past_bar0 : Instr.wf (.registerWrite (2 ^ 26) 0) = false := by decide
theorem test_wf_refuses_live_setting_off_a_word : Instr.wf (.liveSettingWrite 0x40001 0) = false := by decide
theorem test_wf_refuses_need_list_register_off_a_word : Instr.wf (.needListConfig 3 0) = false := by decide
theorem test_wf_refuses_narrow_write_of_a_whole_word : Instr.wf (.narrowerWrite 8 8 0) = false := by decide
theorem test_wf_refuses_smbus_read_past_bar0 : Instr.wf (.smbRegRead { off := 2 ^ 26 }) = false := by decide
theorem test_wf_refuses_link_speed_of_seventh_generation : Instr.wf (.functionReady 7 16) = false := by decide
theorem test_wf_refuses_link_width_32 : Instr.wf (.functionReady 5 32) = false := by decide
theorem test_wf_refuses_eight_address_straps : Instr.wf (.inputRise 8) = false := by decide
theorem test_wf_refuses_rail_of_66_volts : Instr.wf (.softStartEnd 3 { output := 2 ^ 16 }) = false := by decide
theorem test_wf_refuses_trim_of_33_volts : Instr.wf (.paceCalibration [{ trim := 2 ^ 15 }]) = false := by decide
theorem test_wf_refuses_light_of_three_lanes : Instr.wf (.lightCheck 0 { rx := [0, 0, 0] } [0, 0, 0, 0]) = false := by decide
theorem test_wf_refuses_power_of_400_dBm : Instr.wf (.lowPowerWarning 0 { rx := [0, 0, 0, 40000] }) = false := by decide
theorem test_wf_refuses_inversion_of_a_fifth_lane : Instr.wf (.lockComplete 0 { polarity := 16 }) = false := by decide
theorem test_wf_refuses_alignment_of_three_lanes : Instr.wf (.alignComplete 0 [(0, 0), (0, 0), (0, 0)]) = false := by decide
theorem test_wf_refuses_alignment_delay_of_17_bits : Instr.wf (.alignComplete 0 [(0, 2 ^ 16), (0, 0), (0, 0), (0, 0)]) = false := by decide
theorem test_wf_refuses_calibration_of_17_words : Instr.wf (.lockComplete 0 { calib := List.replicate 17 0 }) = false := by decide
theorem test_wf_refuses_transmit_power_of_400_dBm : Instr.wf (.lightCheck 0 ⟨[0, 0, 0, 0], [0, 0, 0, 40000]⟩ [0, 0, 0, 0]) = false := by decide
theorem test_wf_refuses_ident_of_port_16 : Instr.wf (.identFlit 0 { port := 16 }) = false := by decide
theorem test_wf_refuses_qualification_of_17_words : Instr.wf (.qualifyEnd 0 0 (List.replicate 17 0)) = false := by decide
theorem test_wf_refuses_nak_of_17_bits : Instr.wf (.nak 0 (2 ^ 16)) = false := by decide
theorem test_wf_refuses_loss_on_lane_4 : Instr.wf (.lossOfSignal 0 4) = false := by decide
theorem test_wf_refuses_request_across_two_lines : Instr.wf (.memoryRead { addr := 32, len := 64 }) = false := by decide
theorem test_wf_refuses_request_of_class_5 : Instr.wf (.memoryRead { cls := 5 }) = false := by decide
theorem test_wf_refuses_write_of_another_length : Instr.wf (.memoryWrite { len := 8 } [0]) = false := by decide
theorem test_wf_refuses_pseudo_channel_64 : Instr.wf (.class1ReadAge 0 64) = false := by decide
theorem test_wf_refuses_slate_request_of_33_bits : Instr.wf (.slateLate (2 ^ 32)) = false := by decide
theorem test_wf_refuses_window_of_257_cores : Instr.wf (.paceWindow (List.replicate 257 {})) = false := by decide +kernel
theorem test_wf_refuses_window_of_too_many_beats : Instr.wf (.paceWindow [{ beats := 2 ^ 16 }]) = false := by decide
theorem test_wf_refuses_power_of_17_bits : Instr.wf (.powerSample (2 ^ 16) 0) = false := by decide
theorem test_wf_refuses_temperature_of_17_bits : Instr.wf (.sensorRead [40000] []) = false := by decide
theorem test_wf_refuses_nine_hbm_sensors : Instr.wf (.sensorRead [] (List.replicate 9 0)) = false := by decide
theorem test_wf_refuses_crossing_of_17_bits : Instr.wf (.crossingTimeout { index := 2 ^ 16 }) = false := by decide
theorem test_wf_refuses_boundary_scan_of_4097_bits : Instr.wf (.samplePreload (2 ^ 4096)) = false := by simp [Instr.wf]
theorem test_wf_refuses_debug_offset_of_49_bits : Instr.wf (.jtagDebug .fuses (2 ^ 48)) = false := by decide
theorem test_wf_refuses_jtag_code_of_9_bits : Instr.wf (.bypass 256) = false := by decide
theorem test_wf_refuses_bar_of_513_GiB : Instr.wf (.resizableBar 513) = false := by decide
theorem test_wf_refuses_smbus_code_of_9_bits : Instr.wf (.smbusOtherCode 256) = false := by decide
theorem test_wf_refuses_a_read_past_64_MiB (bs : List Byte) (h : bs.length = 2 ^ 26 + 1) : Instr.wf (.frameRead 0 (.ok bs)) = false := by
  simp [Instr.wf, ReadResult.wf, h]

theorem test_wf_admits : ReadResult.wf .failed = true ∧ Instr.wf (.sqDispatch 0 0) = true ∧ Instr.wf (.memoryRead {}) = true := by decide

/-! Small states. -/

/-- A module with the always-on domain and domains 47 and 48 running, and plain fuses. -/
def onState : State :=
  { fuses := { serial := 5 }, start := { input := true, pwrEn := true, aoOn := true, domainsOn := [47, 48], domainsUp := [47, 48] } }

/-- A port of the given state on FP0. -/
def portState (p : Port) : State := { onState with ports := [(0, p)] }

/-- Core 0 as given, in a running primary job. -/
def coreState (k : CoreState) : State := { onState with cores := [(0, k)], jobs := [(0, { member := true, admitted := true })] }

/-- Core 0 with one table line whose first entry is `e`. -/
def tableState (e : Entry) (k : CoreSlot) : State :=
  coreState { table := { bytes := Mem.putBytes [] 0 (leBytes 16 (encodeEntry e)) }, slots := [(0, { k with loaded := true, entryLines := 1 })] }

/-! Hypotheses that are met. -/

theorem test_front_of_a_queue : ∃ (s : State) (c : Instr) (rest : List Instr), s.pending = c :: rest :=
  ⟨{ onState with pending := [.pwrEnAssert, .idleCommitPoint] }, .pwrEnAssert, [.idleCommitPoint], by decide⟩

theorem test_empty_queue : State.reset.pending = [] := by decide

theorem test_reset_meets_the_invariant_of_memories :
    Memory.wf State.reset.mem = true ∧ Mem.wfF 0xFF State.reset.flash0.bytes = true ∧ State.reset.cores = [] := by decide

theorem test_a_step_from_reset : ∃ t, step { State.reset with pending := [.nop 0 0] } = .next t ∧ t = State.reset := ⟨_, rfl, rfl⟩

theorem test_next_entry_of_an_array : (tableState { unit := 1, op := 1 } {}).nextEntry 0 0 = some { unit := 1, op := 1 } := by decide

theorem test_next_entry_with_a_full_queue :
    (tableState { unit := 6, op := 1 } { queues := [(6, List.replicate 8 {})] }).nextEntry 0 0 = some { unit := 6, op := 1 } ∧
    (((tableState { unit := 6, op := 1 } { queues := [(6, List.replicate 8 {})] }).core 0).slot 0).queue 6 = List.replicate 8 {} := by decide

theorem test_next_entry_in_a_prologue :
    (tableState { unit := 3, op := 1, next := false } { prologue := true }).nextEntry 0 0 = some { unit := 3, op := 1 } := by decide

theorem test_control_entries : (tableState { op := 0 } {}).nextEntry 0 0 = some { op := 0 } ∧
    (tableState { op := 1, oper := 2, imm := 3 } {}).nextEntry 0 0 = some { op := 1, oper := 2, imm := 3 } ∧
    (tableState { op := 2 } {}).nextEntry 0 0 = some { op := 2 } ∧ ((tableState { op := 2 } {}).core 0).drained 0 = true ∧
    (tableState { op := 4 } {}).nextEntry 0 0 = some { op := 4 } := by decide

theorem test_fence_that_waits : ((tableState { op := 2 } { queues := [(3, [{}])] }).core 0).drained 0 = false ∧
    (tableState { op := 2 } { queues := [(3, [{}])] }).nextEntry 0 0 = some { op := 2 } := by decide

theorem test_rsig_to_a_full_counter : (tableState { op := 3, oper := 256 } { tokens := [(1, 255)] }).nextEntry 0 0 = some { op := 3, oper := 256 } ∧
    255 ≤ (((tableState { op := 3, oper := 256 } { tokens := [(1, 255)] }).core 0).slot 0).token 1 := by decide

/-- An entry of array 0 that runs. -/
def runEntry : RunEntry := { q := { entry := { unit := 1, op := 1, sigA := 33 } } }

theorem test_completing_entry : ((coreState { units := [(1, { running := [runEntry] })] }).core 0).unit 1 = { running := [runEntry] } ∧
    (UnitState.completing { running := [runEntry] }) = some runEntry := by decide

theorem test_completing_entry_with_full_counters : 255 < (((coreState { slots := [(0, { tokens := (List.range 32).map (fun t => (t, 255)) })] }).core 0).slot 0).token 1 + 1 ∧
    tokenList 33 0 = [1] := by decide

/-- An entry that runs when CLEAR takes it from its queue. -/
def clearEntry : QEntry := { entry := { unit := 1, op := 1, phase := 3 } }

theorem test_an_entry_can_start : ∃ (i : Instr) (x : UnitStart) (s : State) (q : QEntry), startOf i = some x ∧ CanStart x s q :=
  ⟨.clear 0 0 0, _, coreState { slots := [(0, { loaded := true, queues := [(1, [clearEntry])] })] }, clearEntry, rfl, by
    unfold CanStart; decide⟩

theorem test_smbus : onState.start.aoOn = true ∧ onState.domainUp 48 = true ∧ onState.pins.smbStuck = false := by decide

theorem test_jtag_stages : onState.domainUp 48 = true ∧ (onState.setStage 12).stage = 12 ∧ (onState.setStage 12).domainUp 48 = true := by decide

theorem test_debug_lock : ({ onState with fuses := { debugLock := true } } : State).fuses.debugLock = true ∧
    ({ onState with fuses := { debugLock := true } } : State).domainUp 48 = true := by decide

theorem test_light_of_four_lanes : (∀ x ∈ ([-3000, -3000] : List Int), x < reverseLevel) ∧ litLanes [-300, -1100, 0, 5] = 4 ∧
    litLanes [-1101, -4000, -4000, -4000] = 0 ∧ ((portState { state := 1 }).port 0).state = 1 := by decide

theorem test_training_states : ((portState { state := 2 }).port 0).state = 2 ∧ ((portState { state := 7, sub := 2 }).port 0).sub = 2 ∧
    ((portState { state := 3 }).port 0).state = 3 ∧ ((portState { state := 4 }).port 0).state = 4 ∧ ((portState { state := 5 }).port 0).state = 5 ∧
    ((portState { state := 7, sub := 4 }).port 0).sub = 4 := by decide

theorem test_ident_that_passes : (portState { state := 4 }).identReason
    { magic := 0x4E4C4749, version := Config.identVersion, serial := 6, rxOk := true, acked := true } = 0 := by
  have h : Config.identVersion = Config.identVersion := rfl
  simp [State.identReason, identMagic]
  decide

theorem test_ident_of_itself : (portState { state := 4 }).identReason
    { magic := 0x4E4C4749, version := Config.identVersion, serial := 5 } = 7 := by
  have h : (portState { state := 4 }).fabricId = 0 := by decide
  have g : (portState { state := 4 }).fuses.serial = 5 := by decide
  simp [State.identReason, identMagic, h, g]

theorem test_partial_light : 1 ≤ litLanes (((portState { state := 1, power := [-300, -300, -300, -4000] }).port 0).power) ∧
    litLanes (((portState { state := 1, power := [-300, -300, -300, -4000] }).port 0).power) ≤ 3 := by decide

theorem test_port_that_is_up : ((portState { state := 6, retry := [0], rxSeq := 3 }).port 0).state = 6 ∧
    ((portState { state := 6, retry := [0], rxSeq := 3 }).port 0).retry ≠ [] ∧
    (((portState { state := 6, retrains := [0, 0] }).port 0).retrains.filter
      (fun x => decide ((portState { state := 6, retrains := [0, 0] }).now < x + 10000000))).length = 2 := by decide

theorem test_idle_flit : flitGood (makeFlit 0 0 0 0 0 []) = true ∧ flitType (makeFlit 0 0 0 0 0 []) = 0 := by decide +kernel

theorem test_single_flit : flitGood (makeFlit 4 0 3 0 0 []) = true ∧ flitType (makeFlit 4 0 3 0 0 []) = 4 ∧ flitSeq (makeFlit 4 0 3 0 0 []) = 3 := by
  decide +kernel

theorem test_sixteenth_resend : (({ state := 6, txSeq := 1, resends := 15, retry := [0] } : Port).acked 0).resendSeq = (({ state := 6, txSeq := 1, resends := 15, retry := [0] } : Port).acked 0).base ∧
    15 ≤ (({ state := 6, txSeq := 1, resends := 15, retry := [0] } : Port).acked 0).resends := by decide +kernel

theorem test_engine_that_runs : 40 + (2 : EngineUnit).val ∈ ({ onState with start := { onState.start with domainsUp := [42, 48] } } : State).start.domainsUp ∧
    (2 : EngineUnit).val ∉ onState.lasers := by decide

/-- A line of stack 0's local window. -/
def hbmRequest : MemRequest := { addr := 64, len := 8 }

theorem test_line_that_is_served : onState.slateStalled hbmRequest.addr 8 = false ∧ onState.refusedAddr (MemRequest.asker hbmRequest) 64 = false ∧
    SMap.find? onState.memErr 1 = none := by decide

theorem test_line_that_is_refused : onState.refusedAddr (MemRequest.asker { addr := 2 ^ 47 }) (2 ^ 47) = true := by decide

theorem test_poisoned_line : SMap.find? ({ onState with memErr := [(1, true)] } : State).memErr (hbmRequest.addr / 64) = some true ∧
    ∃ st pc, onState.place (hbmRequest.addr / 64 * 64) = .hbm st pc := ⟨by decide, _, _, rfl⟩

/-- A module whose first slate line fails. -/
def slateState : State := { onState with slate := { failLines := [(slateBase / 64, true)], requests := [{ req := { addr := slateBase } }, { req := { test := true } }] } }

theorem test_slate_line_that_fails : slateState.slateStalled slateBase 64 = true ∧ SMap.find? slateState.slate.failLines (slateBase / 64) = some true := by decide

theorem test_held_slate_requests : slateState.slate.requests[0]? = some { req := { addr := slateBase } } ∧
    slateState.slate.requests[1]? = some { req := { test := true } } := by decide

theorem test_promotion_of_a_page : ({ onState with slate := { queue := [7] } } : State).frameOf 7 = none ∧
    ({ onState with slate := { queue := [7] } } : State).pageFails 7 = false ∧ onState.poolFrames ≠ 0 ∧ freeFrame ([] : SMap Frame) 0 < onState.poolFrames := by decide

theorem test_scrubbing_is_on : onState.cfgV 0 0x60A 0 24 ≠ 0 := by decide

theorem test_pace_window : onState.start.aoOn = true ∧ State.reset.start.aoOn = false := by decide

theorem test_governor : ({ onState with start := { onState.start with domainsUp := [3] } } : State).flintRail = none ∧
    3 ∈ ({ onState with start := { onState.start with domainsUp := [3] } } : State).start.domainsUp := by decide

theorem test_slope_of_a_held_start : ∃ s : State, ∃ k ∈ s.pace.waiting, s.stillWaits k = true ∧ k / 32 / 8 = 0 :=
  ⟨{ coreState { slots := [(0, { loaded := true, queues := [(1, [clearEntry])] })] } with pace := { waiting := [4] } }, 4, by decide⟩

theorem test_ceiling_above_the_levels : ({ onState with pace := { ceilings := [(0, 2)] } } : State).levels 0 < ({ onState with pace := { ceilings := [(0, 2)] } } : State).ceiling 0 := by
  decide

theorem test_power_above_the_cap : onState.powerCap * 1 < ({ onState with pace := { samples := [1] } } : State).powerSum ∧
    ({ onState with pace := { samples := [1] } } : State).powerSum + 25 * 1 <
      (({ onState with pace := { samples := [1] } } : State).setReg (liveReg 0) 100).powerCap * 1 := by decide

theorem test_hottest_sensors : hottest [8 * 70, 8 * 80] = some (640, 1) ∧ hottest [8 * 60] = some (480, 0) := by decide

theorem test_calibration_stage : (onState.setStage 3).stage = 3 := by decide

theorem test_input_off : onState.start.aoOn = true ∧ onState.start.domainsOn ≠ [] := by decide

theorem test_trip : onState.start.aoOn = true ∧ onState.start.trip = false := by decide

theorem test_starts : ∃ s : State, s.start.trip = false ∧ s.start.domainsOn = [] ∧ s.start.pwrEn = true ∧ s.start.input = true ∧
    s.start.overVolt = false ∧ s.start.aoOn = true :=
  ⟨{ onState with start := { aoOn := true, input := true, pwrEn := true } }, by decide⟩

theorem test_recovery_from_a_trip : ∃ s : State, s.start.trip = true ∧ s.start.domainsUp ≠ [] :=
  ⟨{ onState with start := { trip := true, domainsUp := [48, 47] } }, by decide⟩

theorem test_self_reset : ∃ s : State, s.domainUp 48 = true ∧ s.domainUp 47 = true ∧ s.start.trip = false ∧ s.stage ≠ 12 ∧ s.link.ready = true ∧
    s.link.perst = false ∧ s.link.l0 = false :=
  ⟨{ onState with link := { ready := true, l0 := false, perst := false } }, by decide⟩

theorem test_rail_reading : ∃ (s : State) (d : DomainId) (r : RailReading), s.ramping d.val = true ∧ r.target ≤ 2 * r.output ∧ s.domainUp 48 = false ∧ d.val ≠ 48 :=
  ⟨{ start := { domainsOn := [47] } }, ⟨47, by decide⟩, { output := 700, target := 700, remote := 700, localMv := 700 }, by decide⟩

theorem test_rows_of_bring_up : ∃ s : State, s.start.trip = false ∧ s.stage = 3 ∧ ∃ d, d ∈ [44, 45] ∧ s.domainUp d = false ∧
    s.domainFailed d = false ∧ d ∉ s.pace.deadDomains :=
  ⟨State.setStage onState 3, by decide⟩

theorem test_memories_of_bring_up : ∃ s : State, s.start.slateReady = false ∧ s.domainUp 46 = true ∧ s.stage ∈ [3, 4, 10] ∧ s.link.earlyWrites ≠ [] :=
  ⟨State.setStage { onState with start := { onState.start with domainsUp := [46, 48] }, link := { earlyWrites := [(0, [1])] } } 3, by decide⟩

theorem test_journal_restore_stage : (onState.setStage 2).stage = 2 ∧ (onState.setStage 2).domainUp 48 = true ∧ (onState.setStage 2).start.trip = false := by decide

theorem test_mailbox_command : ∃ (s : State) (m : MboxRun) (a : List Byte), s.link.mbox = some m ∧ m.arg = some a ∧ m.cmd = 0x30 ∧ s.recovery = false ∧
    a.length = 8 ∧ leNat (a.take 8) ≤ s.regN (faultReg 8) :=
  ⟨{ onState with link := { mbox := some { cmd := 0x30, tag := 7, len := 8, arg := some (List.replicate 8 0) } } },
    { cmd := 0x30, tag := 7, len := 8, arg := some (List.replicate 8 0) }, List.replicate 8 0, by decide⟩

theorem test_grow_argument : growArg (List.replicate 8 1) = some [0x0101010101010101] ∧ growArg [] = none := by decide

theorem test_journal_flush : ∃ s : State, s.journalReady = true ∧ s.journal.queue ≠ [] :=
  ⟨{ onState with start := { domainsUp := [48] }, journal := { restored := true, queue := [{ kind := 9, body := [1, 0] }] } }, by decide⟩

theorem test_image_write : ∃ (s : State) (m : MboxRun) (a : List Byte) (w : WriteArg), s.link.mbox = some m ∧ m.arg = some a ∧ m.cmd = 0x02 ∧
    writeArg a = some w ∧ w.off = 0 ∧ w.off + w.len ≤ 0x05FF0000 ∧ w.bar2 = false ∧ s.image = none := by
  let a : List Byte := List.replicate 9 0 ++ [0x10] ++ List.replicate 14 0
  refine ⟨{ onState with link := { mbox := some { cmd := 2, tag := 7, len := 24, arg := some a } } },
    { cmd := 2, tag := 7, len := 24, arg := some a }, a, { src := 0, len := 4096, bar2 := false, off := 0 }, by decide⟩

theorem test_image_actions : activateAction [1, 0, 0, 0, 0, 0, 0, 0] = some 1 ∧ activateAction [2, 0, 0, 0, 0, 0, 0, 0] = some 2 ∧
    activateAction [3, 0, 0, 0, 0, 0, 0, 0] = some 3 ∧ activateAction [4, 0, 0, 0, 0, 0, 0, 0] = none := by decide

theorem test_shutdown : ∃ (s : State) (m : MboxRun) (a : List Byte), s.link.mbox = some m ∧ m.arg = some a ∧ m.cmd = 0x20 ∧ s.recovery = false ∧
    shutdownMode a = some 1 :=
  ⟨{ onState with link := { mbox := some { cmd := 0x20, tag := 7, len := 8, arg := some [1, 0, 0, 0, 0, 0, 0, 0] } } },
    { cmd := 0x20, tag := 7, len := 8, arg := some [1, 0, 0, 0, 0, 0, 0, 0] }, [1, 0, 0, 0, 0, 0, 0, 0], by decide⟩

theorem test_shutdown_modes : shutdownMode [0, 0, 0, 0, 0, 0, 0, 0] = some 0 ∧ shutdownMode [2, 0, 0, 0, 0, 0, 0, 0] = none := by decide

/-- A module whose host link is up. -/
def hostState : State := { onState with link := { ready := true, l0 := true, barGib := 1 } }

/-- The module of `hostState` in a start stage. -/
def hostStage (n : Nat) : State := hostState.setStage n

theorem test_last_staged_value : hostState.hostUp = true ∧ liveOffset (liveReg 0x10) = true ∧ liveOffset (liveReg 0x08) = true := by decide

theorem test_rejected_group : ({ hostState with staged := [(liveReg 0x10, 9)] } : State).rfld (liveReg 0x40) 0 0 = 0 ∧ [liveReg 0x10] ∈ liveGroups ∧
    (∃ o ∈ [liveReg 0x10], SMap.find? ({ hostState with staged := [(liveReg 0x10, 9)] } : State).staged o ≠ none) ∧
    ({ hostState with staged := [(liveReg 0x10, 9)] } : State).groupCode [liveReg 0x10] ≠ 0 := by decide

theorem test_idle_commit : ({ hostStage 9 with link := { liveWritten := true } } : State).notRunning = true ∧
    ({ hostStage 9 with link := { liveWritten := true } } : State).rfld (liveReg 0x40) 0 0 = 0 ∧ (hostStage 8).notRunning = false ∧
    ((hostStage 9).setBit (liveReg 0x40) 0).rfld (liveReg 0x40) 0 0 = 1 ∧ (hostStage 9).hostUp = true ∧
    ((hostStage 9).setBit (liveReg 0x40) 0).notRunning = true ∧ (1 : Word) &&& 1 = 1 ∧ (2 : Word) &&& 1 = 0 := by decide

theorem test_host_register : (0x2000 : Nat) % 8 = 0 ∧ 0x1828 ≤ 0x2000 ∧ 0x2000 < expReg 0x20 ∧ liveOffset 0x2000 = false ∧ (0x1820 : Nat) % 8 = 0 ∧
    0x2000 ≠ liveReg 0x40 ∧ 0x2000 ≠ liveReg 0x110 ∧ 0x2000 ≠ expReg 0x140 := by decide

theorem test_bar2_accesses : (hostState.link.barGib * gib = 2 ^ 30) ∧ hostState.start.slateReady = false ∧
    ({ hostState with start := { slateReady := true } } : State).start.slateReady = true ∧ (hostStage 3).stage ∉ [6, 7, 8, 9, 10] ∧
    hostState.link.earlyWrites = [] ∧ 2 ^ 4 ≤ hostState.modCfg 0x903 16 := by decide

/-- A frame of slot 0 of the given sequence for a job without dense values and tables. -/
def plainFrame (seq : Nat) : List Byte :=
  let w := wordsBytes [BitVec.ofNat 64 seq, 0x0000002000015346, 0]
  w ++ leBytes 4 (crc32c w) ++ List.replicate 4 0

/-- A module whose ring 0 is enabled with 16 descriptors at address 0 and serves one. -/
def ringState (x : Ring) : State :=
  { (hostState.setReg (ringReg 0 8) 0x404).setReg (ringReg 0 0x10) 1 with link := { ready := true, l0 := true, rings := [(0, x)] } }

theorem test_ring_that_serves : (ringState {}).ringServes 0 = true ∧ ((ringState {}).ring 0).desc = none ∧ ((ringState {}).ring 0).fails < 3 ∧
    3 ≤ ((ringState { fails := 3 }).ring 0).fails ∧ (ringState { fails := 3 }).ringServes 0 = true := by decide

theorem test_ring_that_is_not_valid : (hostState.writePlain (ringReg 0 8) 0x400).ringEnabled 0 = true ∧
    (hostState.writePlain (ringReg 0 8) 0x400).ringValid 0 = false ∧ (hostState.writePlain (ringReg 0 8) 0x400).ringFaulted 0 = false := by decide

theorem test_ring_descriptor : hostState.descOk (fieldAt (wordsBytes [64, 32]) 0 8) (fieldAt (wordsBytes [64, 32]) 8 8) = true ∧
    hostState.descOk (fieldAt (wordsBytes [1, 32]) 0 8) (fieldAt (wordsBytes [1, 32]) 8 8) = false := by decide

theorem test_frame_with_a_good_header : frameChecks ((plainFrame 1).take 32) = true ∧ 32 ≤ (plainFrame 1).length ∧ frameSeq ((plainFrame 1).take 32) = 1 ∧
    (ringState { desc := some (64, 32, false), lastSeq := some 2 }).headerOk 0 ((plainFrame 1).take 32) = true := by decide +kernel

theorem test_frames_with_a_bad_check_or_header : frameChecks ((List.replicate 32 1 : List Byte).take 32) = false ∧
    (ringState {}).headerOk 1 ((plainFrame 1).take 32) = false ∧ (List.replicate 31 0 : List Byte).length < 32 := by decide +kernel

/-- The module of `ringState` as the one member of a job, with the frame of a sequence read. -/
def landing (seq : Nat) (j : JobSlot) : State :=
  { ringState { desc := some (64, 32, false), frame := some (plainFrame seq) } with jobs := [(0, { j with member := true, admitted := true, ranks := [0] })] }

theorem test_frames_that_land_or_not : (landing 1 {}).ringServes 0 = true ∧ (landing 1 {}).ringSlot 0 = 0 ∧ ((landing 1 {}).job 0).restore.isOpen = false ∧
    (landing 1 { firstSeq := 2 }).framePlace 0 1 = none ∧ (landing 1 {}).framePlace 0 1 = some { step := 1, mb := 0, f := 1 } ∧
    0 % ((landing 1 {}).job 0).ranks.length = ((landing 1 {}).job 0).position ∧ ((landing 1 {}).job 0).restore.step < 1 ∧
    SMap.find? ((landing 1 {}).job 0).landed 1 = none ∧ ((landing 1 {}).job 0).committed < 1 ∧ 1 ≤ ((landing 1 {}).job 0).committed + 2 := by decide +kernel

theorem test_frames_that_are_late_or_early : 1 ≤ ((landing 1 { committed := 1 }).job 0).committed ∧ 1 ≤ ((landing 1 { restore := { step := 1 } }).job 0).restore.step ∧
    (landing 48 {}).framePlace 0 48 = some { step := 4, mb := 0, f := 0 } ∧ ((landing 48 {}).job 0).committed + 2 < 4 := by decide +kernel

/-- A member of a running job whose host has an export ring of 4 KiB, with what slot 0 owes the host. -/
def exportState (o : OwnerState) (e : ExportSlot) : State :=
  { hostState.setReg (expReg 8) 12 with jobs := [(0, { member := true, admitted := true, ranks := [0], owner := o, exp := e })] }

theorem test_export_that_owes : (exportState {} {}).exportStopped 0 = false ∧ (exportState {} {}).hostUp = true ∧ (exportState {} {}).expRing = true ∧
    (exportState {} {}).expRoom 64 = true ∧ ((exportState {} {}).setReg (expReg 0x40) 0).expRoom 4097 = false := by decide

theorem test_owed_records : ((exportState { diffs := [{ key := {}, step := 1, bytes := [0] }] } {}).job 0).owner.diffs = [{ key := {}, step := 1, bytes := [0] }] ∧
    ((exportState {} { numerics := [(1, [])] }).job 0).exp.numerics = [(1, [])] ∧ ((exportState {} { maps := [1] }).job 0).exp.maps = [1] ∧
    ((exportState {} { manifests := [(1, 0)] }).job 0).exp.manifests = [(1, 0)] ∧ (exportState {} { manifests := [(1, 0)] }).recordsDone 0 1 = true ∧
    (exportState {} {}).modCfg 0x906 0 = 0 ∧ ((exportState {} { sweeps := [(1, {})] }).job 0).exp.sweeps = [(1, {})] := by decide

theorem test_acknowledged_steps : (exportState {} { written := [3] }).regN (ackReg 0) < (3 : Word).toNat ∧
    (3 : Word).toNat ∈ ((exportState {} { written := [3] }).job 0).exp.written ∧ (4 : Word).toNat ∉ ((exportState {} { written := [3] }).job 0).exp.written ∧
    (0 : Word).toNat ≤ (exportState {} {}).regN (ackReg 0) := by decide

/-- A module with an open restore of slot 0. -/
def restoreState (r : RestoreState) : State :=
  { (hostState.setReg (expReg 0x118) 8).setReg (expReg 0x110) 0x1000 with jobs := [(0, { member := true, restore := { r with isOpen := true } })] }

theorem test_open_restore : (restoreState { unwritten := [(4, 0, 0)] }).restoring = some 0 ∧
    ((restoreState { unwritten := [(4, 0, 0)] }).job 0).restore.unwritten = [(4, 0, 0)] ∧ 8 ≤ (restoreState {}).rfld (expReg 0x118) 4 0 ∧
    (restoreState {}).regN (expReg 0x110) % 4096 = 0 ∧ (restoreState {}).regN (expReg 0x120) < (restoreState {}).regN (expReg 0x128) + 2 ^ 8 ∧
    ((restoreState {}).setReg (expReg 0x120) 256).regN (expReg 0x128) + 2 ^ 8 ≤ ((restoreState {}).setReg (expReg 0x120) 256).regN (expReg 0x120) := by decide

theorem test_restore_bytes_to_come : (restoreState {}).regN (expReg 0x130) - (restoreState {}).regN (expReg 0x138) = 0 ∧
    32 ≤ ((restoreState {}).setReg (expReg 0x130) 64).regN (expReg 0x130) - ((restoreState {}).setReg (expReg 0x130) 64).regN (expReg 0x138) := by decide

theorem test_restore_that_is_done_or_not : (restoreState { whole := true }).needsMet 0 = true ∧ (restoreState { whole := true }).link.restoreQueue = [] ∧
    (restoreState {}).needsMet 0 = false ∧ Word.fld 1 0 0 = 1 := by decide

theorem test_ingest_that_stopped : (hostState.setReg 0x1810 1).ingestStopped = true ∧ ((hostState.setReg 0x1810 1).writePlain 0x1820 1).ingestStopped = false ∧
    hostState.ingestStopped = false := by decide

/-- A message from rank 1 to rank 0 of slot 0, of step 1 and attempt 0. -/
def memberMessage (kind tag object offset : Nat) (body : List Word) : Message := mkMessage kind 0 0 1 1 0 tag object offset body

/-- Rank 0 of a job of ranks 0 and 1 as given, with a message in the inbox. -/
def memberState (j : JobSlot) (m : Message) : State :=
  { onState with inbox := [m], fabric := { rank := some 0 }, jobs := [(0, { j with member := true, admitted := true, ranks := [0, 1], members := [5, 6] })] }

/-- A router with a message that waits and ports FP0 and FP1 in UP with the given credits, rank 1 behind the route. -/
def routerState (r : Route) (c0 c1 : List Nat) (q : List Waiting) : State :=
  { onState with router := q, ports := [(0, { state := 6, credits := c0 }), (1, { state := 6, credits := c1 })], fabric := { routes := [(0, r)] } }

/-- A message that waits in the router for rank 0: of the given slot, on an escape lane or not. -/
def waiting (slot : Nat) (escape : Bool) : Waiting := { msg := mkMessage 0x05 slot 0 1 1 0 0 0 0 [0, 0], escape := escape }

theorem test_message_with_an_adaptive_port : ∀ s, s = routerState { adaptive := [0, 1], escape := some 1 } [9, 9, 9, 9] [20, 9, 9, 9] [waiting 0 false] →
    s.router[0]? = some (waiting 0 false) ∧ (waiting 0 false).msg.response = false ∧ (waiting 0 false).msg.flits = 1 ∧ (waiting 0 false).msg.slot = 0 ∧
    (s.port 1).state = 6 ∧ 1 ≤ atD (s.port 1).credits 0 0 ∧ (s.port 1).retry.length + 1 ≤ retryRoom ∧
    SMap.find? s.fabric.routes (waiting 0 false).msg.dst = some { adaptive := [0, 1], escape := some 1 } := by rintro _ rfl; decide +kernel

theorem test_message_for_the_escape_port : ∀ s, s = routerState { adaptive := [0], escape := some 1 } [0, 9, 9, 9] [0, 1, 9, 9] [waiting 0 true] →
    s.escapePort { adaptive := [0], escape := some 1 } (waiting 0 true) = some 1 ∧ atD (s.port 0).credits 0 0 = 0 ∧ 1 ≤ atD (s.port 1).credits 1 0 := by rintro _ rfl; decide +kernel

theorem test_message_that_waits : ∀ s, s = routerState { adaptive := [0], escape := some 1 } [0, 9, 9, 9] [9, 0, 9, 9] [waiting 0 false] →
    s.escapePort { adaptive := [0], escape := some 1 } (waiting 0 false) = some 1 ∧ atD (s.port 0).credits 0 0 = 0 ∧ atD (s.port 1).credits 1 0 = 0 ∧
    SMap.find? (routerState {} [] [] [{ waiting 0 false with msg := mkMessage 5 0 7 1 1 0 0 0 0 [] }]).fabric.routes 7 = none := by rintro _ rfl; decide +kernel

theorem test_filler_behind_a_primary_message : ∀ s, s = routerState { adaptive := [0] } [9, 9, 9, 9] [] [waiting 1 false, waiting 0 false] →
    s.choosePort { adaptive := [0] } (waiting 1 false) = some (0, 0) ∧ (waiting 1 false).msg.slot ≠ 0 ∧ waiting 0 false ∈ s.router ∧
    (waiting 0 false).msg.slot = 0 ∧ (waiting 0 false).msg.response = (waiting 1 false).msg.response ∧
    s.choosePort { adaptive := [0] } (waiting 0 false) = some (0, 0) := by rintro _ rfl; decide +kernel

theorem test_good_and_current : ∀ kind ∈ [0x10, 0x11, 0x18, 0x19, 0x1A], (memberMessage kind 0 0 0 []).kind = kind ∧ (memberMessage kind 0 0 0 []).good = true ∧
    (memberState {} (memberMessage kind 0 0 0 [])).stale (memberMessage kind 0 0 0 []) = false ∧
    (memberState {} (memberMessage kind 0 0 0 [])).fullStep (memberMessage kind 0 0 0 []) = 1 ∧
    (memberState { attempt := 1 } (memberMessage kind 0 0 0 [])).stale (memberMessage kind 0 0 0 []) = true ∧
    ({ memberMessage kind 0 0 0 [] with w3 := 0 } : Message).good = false := by decide +kernel

theorem test_count_messages : ∀ m ∈ [memberMessage 2 1 0 0 [3], memberMessage 2 0 0 0 [3]], m.good = true ∧ (memberState {} m).stale m = false ∧ m.kind = 0x02 ∧
    SMap.find? ((memberState {} m).job m.slot).countsRx (countKey 1 m.src) = none ∧
    SMap.find? ((memberState { countsRx := [(countKey 1 1, 3)] } m).job m.slot).countsRx (countKey 1 m.src) ≠ none := by decide +kernel

theorem test_digest_messages : ∀ m, m = memberMessage 0x1A 0 0 0 [7] → (atD m.body 0 0).toNat = 7 ∧ ((memberState {} m).job m.slot).num.ownDigest = none ∧
    ((memberState { num := { ownDigest := some 8 } } m).job m.slot).num.ownDigest = some 8 ∧
    ((memberState { num := { ownDigest := some 8 } } m).job m.slot).num.partnerDigest = none := by rintro _ rfl; decide +kernel

/-- The head of a segment with the given first words, first item and items. -/
def segmentWords (w0 w1 : Word) (first items : Nat) : List Word := [w0, w1, BitVec.ofNat 64 (items * 2 ^ 32 + first)]

theorem test_row_request : ∀ m, m = memberMessage 3 0 0 0 (segmentWords 0 1 0 1 ++ [5]) → m.good = true ∧ m.kind = 0x03 ∧ (memberState {} m).stale m = false ∧
    Word.fld (atD m.body 0 0) 63 58 = 0 ∧ Word.fld (atD m.body 1 0) 63 48 = 0 ∧ Word.fld (atD m.body 2 0) 63 32 = 1 ∧
    ((memberState {} m).job m.slot).owner.batches.find? (fun b => b.is m.src 0 1) = none ∧
    ((memberState {} m).readBatch m.slot 1 0 (m.body.drop 3)).isSome = true ∧ ((memberState {} m).readBatch m.slot 1 0 [2 ^ 52]) = none ∧
    Word.fld (2 ^ 48) 63 48 ≠ 0 := by rintro _ rfl; decide +kernel

/-- A request batch of rank 0's core 0 for owner 1: the rows of two keys. -/
def sentBatch : ReqBatch := { owner := 1, keys := [{ key := { row := 1 }, ret := true }, { key := { row := 2 }, ret := true }], sent := true }

theorem test_row_response : ∀ m s, m = memberMessage 4 0 0 0 (segmentWords 0 0 0 1 ++ [0, 0]) →
    s = { memberState {} m with cores := [(0, { gc := [(0, { batches := [(1, [sentBatch])] })] })] } → m.good = true ∧ m.kind = 0x04 ∧ s.stale m = false ∧
    (s.batchesOf 0 m.slot 1).find? (fun b => decide (b.owner = m.src)) = some sentBatch ∧ s.itemBytes m.slot sentBatch 0 ≤ segRoom ∧
    0 < sentBatch.expected ∧ ((memberState {} m).batchesOf 0 m.slot 1).find? (fun b => decide (b.owner = m.src)) = none := by rintro _ _ rfl rfl; decide +kernel

theorem test_response_piece_held : SMap.find? ({ owner := 1, pieces := [(1, [0])] } : ReqBatch).items 0 = none ∧
    SMap.find? ({ owner := 1, pieces := [(1, [0])] } : ReqBatch).pieces (2 * 0 + 1) = some [0] ∧ Word.fld ((0 : Nat) : Word) 63 32 = 0 := by decide

/-- An owner's batch of rank 1's core 0 at step 1 with one row, its update and combined-gradient slot as given. -/
def gradOwner (added : Bool) (acc : SMap GradSlot) : JobSlot :=
  { owner := { batches := [{ src := 1, step := 1, rows := [{ key := { row := 5 }, added := added }], nRows := 1, items := 1 }], grads := acc } }

/-- A gradient batch of one entry whose words are as given. -/
def gradMessage (row e1 : Word) : Message := memberMessage 5 0 0 0 (segmentWords 0 0 0 1 ++ [row, e1])

theorem test_gradient_batch : ∀ m s, m = gradMessage 5 0 → s = memberState (gradOwner false [(gradKey 0 1, {})]) m → m.good = true ∧ m.kind = 0x05 ∧
    s.stale m = false ∧ Word.fld (atD m.body 1 0) 31 24 = 0 ∧ Word.fld (atD m.body 2 0) 63 32 = 1 ∧
    (s.job m.slot).owner.batches.find? (fun b => b.is m.src 0 1) = some (atD (gradOwner false []).owner.batches 0 {}) ∧
    s.readRowEntry m.slot (atD (m.body.drop 3) 0 0) = some ({ row := 5 }, false) ∧ s.readRowEntry m.slot 6 ≠ some ({ row := 5 }, false) ∧
    Word.fld (atD (m.body.drop 3) 1 0) 55 32 < 1 := by rintro _ _ rfl rfl; decide +kernel

theorem test_gradient_pieces : gradPiece (segment (gradMessage 5 0)).1 (List.replicate 2 0) = false ∧ gradPiece (segment (gradMessage 5 0)).1 (List.replicate 3 0) = true ∧
    (joinPiece [] 0 false [0]).2 = none ∧ (joinPiece [(0, [0])] 0 true [1]).2 = some [0, 1] := by decide

theorem test_gradient_sums : ∃ sums v, (memberState {} (gradMessage 5 0)).readGrad 0 1 6 { addr := 64, len := 0 } = (some sums, v) := ⟨_, _, rfl⟩

/-- A fragment of an AGREE_MAX of slot 0 and step 1 as given. -/
def agreement (own : Option (List Int)) (kids : SMap (List Word)) (sent done : Bool) : Collective :=
  { step := 1, op := 2, own := own, kids := kids, sent := sent, done := done }

theorem test_reduce_up : ∀ m s, m = memberMessage 0x10 0 0 0 [] → s = { memberState {} m with collectives := [agreement (some []) [] false false] } →
    m.good = true ∧ s.stale m = false ∧ s.posOf m.slot m.src = some 1 ∧ s.posOf m.slot 9 = none ∧
    s.collectives.find? (fun x => x.is m.slot 1 m.tag m.object m.offset) = some (agreement (some []) [] false false) ∧
    SMap.find? (agreement (some []) [] false false).kids 1 = none ∧ s.collKids (agreement (some []) [(1, [])] false false) = [1] ∧
    SMap.find? (agreement (some []) [(1, [])] false false).kids 1 ≠ none ∧ s.collUp (agreement (some []) [(1, [])] false false) = none ∧
    (memberState { position := 1 } m).collUp (agreement (some []) [] false false) = some 0 := by rintro _ _ rfl rfl; decide +kernel

theorem test_waiting_fragment : ∀ m, m = memberMessage 0x10 0 0 0 [] → (memberState {} m).collectives.find? (fun x => x.is m.slot 1 m.tag m.object m.offset) = none ∧
    (agreement none [] false false).own = none ∧ (agreement (some []) [] true false).sent = true := by rintro _ rfl; decide +kernel

theorem test_bcast_down : ∀ m s, m = memberMessage 0x11 0 0 0 [] →
    s = (fun k : Collective => { memberState { gathers := [{ step := 1, started := true }] } m with collectives := [k] }) → m.good = true ∧ m.kind = 0x11 ∧
    (∀ k ∈ [agreement none [] false false, agreement (some []) [] false true, agreement (some []) [] false false],
      (s k).collectives.find? (fun x => x.is m.slot 1 m.tag m.object m.offset) = some k ∧ k.op = 2) ∧
    (s { agreement none [] false false with step := 2 }).collectives.find? (fun x => x.is m.slot 1 m.tag m.object m.offset) = none ∧
    ((s {}).job m.slot).gathers.find? (fun g => g.is 1 m.tag m.object) = some { step := 1, started := true } ∧
    ((memberState {} m).job m.slot).gathers.find? (fun g => g.is 1 m.tag m.object) = none ∧
    ((memberState { gathers := [{ step := 1 }] } m).job m.slot).gathers.find? (fun g => g.is 1 m.tag m.object) = some { step := 1 } := by rintro _ _ rfl rfl; decide +kernel

/-- A member with slice 3 of tensor 0 and one started gather of it in step 2. -/
def gatherState (x : SliceState) (counted : List Nat) (j : JobSlot) : State :=
  memberState { j with slices := [(3, x)], gathers := [{ step := 2, started := true, counted := counted }] } {}

theorem test_slice_served : ∀ s, s = gatherState { stamp1 := 1 } [] {} → SMap.find? (s.job 0).slices 3 = some { stamp1 := 1 } ∧ SMap.find? (s.job 0).slices 4 = none ∧
    (s.job 0).gathers.find? (fun g => g.started && decide (g.tensor = 0) && !g.served.contains 3) = some { step := 2, started := true } ∧
    (s.job 0).hardStep = none ∧ ({ stamp1 := 1 } : SliceState).gatherStamp 2 = (2 - 1) % 2 ^ 32 := by rintro _ rfl; decide +kernel

theorem test_slice_that_waits : ({} : SliceState).gatherStamp 2 ≠ (2 - 1) % 2 ^ 32 ∧ (gatherState {} [] { hardStep := some 1 }).fabric.rank = some 0 ∧
    ((gatherState {} [3] { hardStep := some 1 }).job 0).hardStep = some 1 ∧ ((gatherState {} [3] { hardStep := some 1 }).job 0).closedStep < 1 ∧
    3 ∈ (atD ((gatherState {} [3] {}).job 0).gathers 0 {}).counted ∧ 3 ∉ (atD ((gatherState {} [] {}).job 0).gathers 0 {}).counted := by decide

/-- An entry of the given phase that waits for T1. -/
def tokenEntry (phase : Nat) (next : Bool) : QEntry := { entry := { unit := 1, op := 1, phase := phase, next := next, waitA := 33 } }

/-- Core 0 of a running job with that entry in its queue. -/
def stalledCore (q : QEntry) (j : JobSlot) : State :=
  { onState with cores := [(0, { slots := [(0, { loaded := true, queues := [(1, [q])] })] })], jobs := [(0, { j with member := true, admitted := true })] }

theorem test_watchdog_that_is_due : (∀ q ∈ [tokenEntry 9 false, tokenEntry 10 false, tokenEntry 3 true],
      (stalledCore q {}).watchdogDue 0 = true ∧ ((stalledCore q {}).core 0).oldestPrimary = some q) ∧
    (stalledCore (tokenEntry 9 false) {}).cfgV 0 0x8B03 0 2 = 2 ∧ onState.watchdogDue 0 = false := by decide +kernel

theorem test_marked_phase : ∀ s, s = stalledCore (tokenEntry 9 false) { reexecPhase := 9 } → (s.job 0).reexecPhase = 9 ∧ (9 : Nat) ≠ 0 ∧ (s.job 0).member = true ∧
    (s.job 0).stopped = false ∧ (s.job 0).halted = false ∧ (s.job 0).replay = none ∧
    ((stalledCore (tokenEntry 9 false) { reexecPhase := 9, replay := some {} }).job 0).replay ≠ none := by rintro _ rfl; decide +kernel

/-- A module whose filler 1 is a member or not, with unit 3 of core 0 as given. -/
def fillerUnit (un : UnitState) (b : Bool) : State :=
  { onState with cores := [(0, { units := [(3, un)], slots := [(1, { loaded := true })] })], jobs := [(1, { member := b })] }

theorem test_filler_chunk : (fillerUnit { chunk := some 1 } true).primaryReady 0 3 = false ∧
    (fillerOrder 0).find? (fun f => (fillerUnit {} false).fillerReady 0 3 f) = none ∧
    (fillerOrder 0).find? (fun f => (fillerUnit { suspended := [1] } true).fillerReady 0 3 f) = some 1 ∧
    (fillerUnit { suspended := [1] } true).fillerBudget 0 3 = false ∧
    ((fillerUnit { suspended := [1], primaryBeats := 25600 } true).setReg (liveReg 0x18) 25).fillerBudget 0 3 = true := by decide +kernel

theorem test_filler_entry_in_chunks : ∀ r ∈ [({ slot := 1, q := { entry := { unit := 3 } }, beats := 300 } : RunEntry)],
    r.chunked = true ∧ ({ r with beats := 256 } : RunEntry).chunked = false ∧
    ({ chunk := some 1, running := [r] } : UnitState).running.find? (fun r => r.slot == 1) = some r ∧
    ({ chunk := some 1 } : UnitState).running.find? (fun r => r.slot == 1) = none := by decide

theorem test_tile_drains : tqRoom [] 0 = true ∧ tqRoom (List.replicate 12 {}) 0 = false ∧ (∃ e ∈ [1024 * 2], e / 1024 = 2) ∧ (∀ e ∈ [1024], e / 1024 ≠ 2) ∧
    ({ running := [{ drain := some 2 }] } : UnitState).running.find? (fun r => r.drain.isSome) = some { drain := some 2 } := by decide

/-- A module whose core 0 waits for a spill chunk of a pool of the given words. -/
def chunkState (words : List Nat) : State :=
  { onState with cores := [(0, { slots := [(0, { loaded := true, queues := [(5, [{ step := 1, desc := words }])] })] })], jobs := [(0, { member := true, spillWait := [0] })] }

theorem test_spill_chunk : ∀ s, s = chunkState ((List.range 8).map (fun _ => 1024)) →
    (List.range 4).find? (fun sl => (s.job sl).spillWait.head? = some 0) = some 0 ∧ (s.head 0 5 0).isSome = true ∧
    ((s.head 0 5 0).map (fun q => (List.range (poolChunks q)).find? (fun n => !(s.chunksHeld 0).contains n))) = some (some 0) ∧
    (((chunkState []).head 0 5 0).map (fun q => (List.range (poolChunks q)).find? (fun n => !((chunkState []).chunksHeld 0).contains n))) = some none ∧
    (∀ sl, sl < 4 → (onState.job sl).spillWait.head? ≠ some 0) := by rintro _ rfl; decide +kernel

theorem test_vote_fragment : ∀ m s, m = memberMessage 0x18 0 0 0 [] → s = (fun r => memberState { rounds := [r] } m) → m.good = true ∧ (s {}).stale m = false ∧
    ((s { step := 1 }).roundOf 0 ((s { step := 1 }).roundNamed m)) = { step := 1 } ∧ ((s {}).roundNamed m).rollback = false ∧
    SMap.find? (SMap.getD ({} : Round).kids m.src []) ((s {}).fragmentAt m {}) = none ∧ (s {}).treeUp ((s {}).roundRanks 0 false) = none ∧
    1 ∈ (s {}).treeDown ((s {}).roundRanks 0 false) := by rintro _ _ rfl rfl; decide +kernel

theorem test_vote_fragment_that_comes_twice : ∀ m s, m = memberMessage 0x18 0 0 0 [] → s = memberState {} m →
    SMap.find? (SMap.getD ({ kids := [(1, [(s.fragmentAt m {}, [])])] } : Round).kids m.src []) (s.fragmentAt m {}) ≠ none ∧
    ({ own := some [] } : Round).own = some [] ∧ ({ sent := true } : Round).sent = true := by rintro _ _ rfl rfl; decide +kernel

theorem test_result_fragment : ∀ m s, m = memberMessage 0x19 0 0 0 [] → s = memberState {} m → m.good = true ∧ s.stale m = false ∧
    ({ own := some [] } : Round).own ≠ none ∧ SMap.find? ({ own := some [] } : Round).result (s.fragmentAt m {}) = none ∧
    SMap.find? ({ result := [(s.fragmentAt m {}, [])] } : Round).result (s.fragmentAt m {}) ≠ none ∧
    (∀ p ∈ [1], (memberState { position := 1 } m).fabric.rank = some 0 ∧ p = 1) := by rintro _ _ rfl rfl; decide +kernel

/-- A member of a running job, as given. -/
def runningMember (j : JobSlot) : State := (memberState j {}).setStage 8

theorem test_vote_that_waits : wholeRecord ((runningMember {}).roundSections 0 {}) [] = false ∧ (runningMember {}).mayVote 0 = true ∧
    (runningMember { committed := 1 }).voteReady 0 = false ∧ (runningMember { committed := 1 }).mayVote 0 = true ∧ (runningMember { cause := 0x3001 }).mayVote 0 = true ∧ (runningMember { cause := 0x2001 }).voteReady 0 = true ∧
    onState.mayVote 0 = false := by decide +kernel

theorem test_export_window : (runningMember { cause := 0x2001, committed := 9, voted := 9, okStep := 9 }).voteReady 0 = true ∧
    (runningMember { cause := 0x2001, committed := 9, voted := 9, okStep := 9 }).exportWindow ≤
      (runningMember { cause := 0x2001, committed := 9, voted := 9, okStep := 9 }).unacked 0 ∧
    ((runningMember { cause := 0x2001 }).setReg (liveReg 0x10) 2).unacked 0 < ((runningMember { cause := 0x2001 }).setReg (liveReg 0x10) 2).exportWindow := by
  decide +kernel

theorem test_rounds_of_start_up_and_rollback : ((memberState {} {}).setStage 7).stage = 7 ∧ (((memberState {} {}).setStage 7).roundOf 0 { closing := true }).own = none ∧
    (((memberState { rounds := [{ closing := true, own := some [] }] } {}).setStage 7).roundOf 0 { closing := true }).own ≠ none ∧
    ((runningMember {}).setReg faultStatus 0x304).rfld faultStatus 2 2 = 1 ∧ ((runningMember {}).setReg faultStatus 0x304).rfld faultStatus 11 8 = 3 ∧
    ((runningMember {}).setReg faultStatus 0x404).rfld faultStatus 11 8 = 4 ∧ ((runningMember {}).setReg faultStatus 0x604).rfld faultStatus 11 8 = 6 ∧
    (runningMember {}).stage ≠ 7 := by decide +kernel

theorem test_closing_vote_that_is_due : (runningMember { okStep := 1, hardStep := some 1 }).closingDue 0 = true ∧ (runningMember {}).closingDue 0 = false ∧
    (runningMember { rounds := [{ step := 1, own := some [] }] }).timedRound 0 = some { step := 1, own := some [] } ∧ (runningMember {}).timedRound 0 = none := by
  decide +kernel

theorem test_phase_nine_and_commit : (runningMember { okStep := 1 }).phase9Done 0 1 = true ∧
    (runningMember { okStep := 1, slices := [(0, {})] }).phase9Done 0 1 = false ∧ (runningMember { okStep := 1, phase9 := 1 }).commitReady 0 1 = true ∧
    (runningMember {}).commitReady 0 1 = false := by decide +kernel

theorem test_hold_notices : ∀ s, s = (fun j => memberState j (memberMessage 0x1B 0 0 0 [1])) → (memberMessage 0x1B 0 0 0 [1]).good = true ∧
    (memberMessage 0x1C 0 0 0 [1]).good = true ∧ (s {}).stale (memberMessage 0x1B 0 0 0 [1]) = false ∧ ((s { holdFwd := true }).job 0).holdFwd = true ∧
    (s {}).treeUp ((s {}).job 0).ranks = none ∧ (memberState { held := true, holdCause := 1 } {}).stillHeld 0 = false ∧
    ((s { held := true }).job 0).held = true ∧ ((s {}).job 0).held = false := by rintro _ rfl; decide +kernel

theorem test_hold_that_lasts : ∀ s, s = runningMember { held := true, holdCause := 1, cause := 0x2001, committed := 9, voted := 9, okStep := 9 } →
    (s.job 0).held = true ∧ s.stillHeld 0 = true := by rintro _ rfl; decide +kernel

/-- A member whose core 0 waits for T24 in the entry that its dispatch comes to. -/
def ingestCore : State :=
  { onState with cores := [(0, { slots := [(0, { loaded := true, queues := [(1, [{ entry := { unit := 1, op := 1, waitA := 56 } }])] })] })], jobs := [(0, { member := true, admitted := true })] }

theorem test_core_held_for_ingest : (ingestCore.job 0).member = true ∧ (ingestCore.job 0).admitted = true ∧ ingestCore.inRollback 0 = false ∧
    ingestCore.ingestHeld 0 0 = true ∧ (ingestCore.job 0).held = false ∧ onState.ingestHeld 0 0 = false := by decide +kernel

theorem test_no_ready_row : ∀ sl, sl < 4 → (memberState {} {}).readyRows sl 0 = [] := by decide +kernel

theorem test_ready_row : ∀ u : UpdateRow, u = { addr := 64, step := 1 } →
    (memberState { owner := { updates := [u] }, okStep := 1 } {}).readyRows 0 0 = [u] := by
  rintro _ rfl; decide +kernel

theorem test_record_that_is_accepted : ∀ r : RecordWrite, r = { step := 1 } → ∀ s : State, s = { memberState {} {} with controllers := [(0, { records := [r] })] } →
    (s.mc 0).records = [r] ∧ (s.mc 1).records = [] ∧ ∀ b ∈ (s.job 0).owner.batches, b.whole = false ∨ b.answered = true := by
  rintro _ rfl _ rfl; decide +kernel

theorem test_permute_that_is_complete : (memberState {} {}).fuses.serial = 5 ∧ ((memberState { permuting := true, proposal := [5] } {}).job 0).permuted = true ∧
    5 ∈ ((memberState { permuting := true, proposal := [5] } {}).job 0).proposal ∧ 5 ∉ ((memberState { permuting := true, proposal := [6] } {}).job 0).proposal ∧
    ((memberState {} {}).job 0).permuted = false := by decide +kernel

theorem test_rollback_stages : ((runningMember {}).setReg faultStatus 0x204).rfld faultStatus 2 2 = 1 ∧ ((runningMember {}).setReg faultStatus 0x204).rfld faultStatus 11 8 = 2 ∧
    ((runningMember {}).setReg faultStatus 0x304).rfld faultStatus 11 8 = 3 ∧ (runningMember {}).rfld faultStatus 2 2 ≠ 1 := by decide

theorem test_flint_runs : ({ flintPoint := some 3 } : FaultState).flintPoint = some 3 ∧ ({ flintPoint := some 4 } : FaultState).flintPoint = some 4 ∧
    ((onState.setStage 9).setReg faultStatus 0x10).rfld faultStatus 4 4 = 1 ∧ ((onState.setStage 9).setReg faultStatus 0x10).faults.flintPoint = none ∧
    onState.fillerFlint = false := by decide

theorem test_filler_flint : ∀ s, s = (runningMember {}) → s.jobRunning = true := by rintro _ rfl; decide +kernel

theorem test_image_selection : (onState.setStage 1).stage = 1 ∧ 48 ∈ onState.start.domainsUp ∧ onState.bootOrder = [] := by decide +kernel

theorem test_crossings : ∀ x ∈ [({ domain := 0, cls := 0 } : Crossing)], x ∉ onState.pace.stalled := by decide

/-- A module whose slots hold control blocks of the given states. -/
def slotStates (x y : Nat) : State :=
  { onState with flash0 := ({} : FlashDevice).write 0 ((cbBytes { state := x }).take 64), flash1 := ({} : FlashDevice).write 0 ((cbBytes { state := y }).take 64) }

theorem test_boot_orders : (slotStates 3 4).bootOrder = [0, 1] ∧ ((slotStates 3 4).cb 0).state = 3 := by decide +kernel

theorem test_stalled_crossings : ∀ x ∈ [({ domain := 0 } : Crossing), { cls := 5 }, { cls := 7 }, { cls := 9, index := 2 }, { cls := 9, index := 3 }, { cls := 9, index := 4 },
      { cls := 10, domain := 48 }],
    x ∈ ({ onState with pace := { stalled := [x] } } : State).pace.stalled ∧ x ∉ onState.pace.stalled ∧
    ({ onState with start := { domainsUp := [0, 48] } } : State).domainUp 0 = true ∧ ({ onState with start := { domainsUp := [0, 48] } } : State).domainUp 48 = true := by
  decide

theorem test_partners : crossPartner { domain := 0 } = .island ∧ crossPartner { cls := 5 } = .optical [0] ∧ crossPartner { cls := 7 } = .pcie ∧
    crossPartner { cls := 9, index := 2 } = .flash ∧ crossPartner { cls := 9, index := 3 } = .smbus ∧ crossPartner { cls := 9, index := 4 } = .jtag ∧
    crossPartner { cls := 10, domain := 48 } = .service := by decide

/-- A beacon of the given serial and epoch. -/
def beaconOf (serial epoch : Nat) : BeaconEntry := { serial := serial, epoch := epoch }

/-- The message of that beacon. -/
def beaconMessage (serial epoch : Nat) : Message := mkMessage 1 0 0 0 0 0 0 0 0 (beaconOf serial epoch).body

theorem test_beacons : (∀ e ∈ [5, 6], (beaconMessage e 3).kind = 1 ∧ (beaconMessage e 3).good = true ∧ readBeacon (beaconMessage e 3).body = beaconOf e 3) ∧
    (onState.fuses.serial = 5) ∧ (3 : Nat) < ({ epoch := 4 } : FabricState).epoch ∧ (beaconOf 6 3).fabricId = onState.fabricId ∧
    SMap.find? onState.fabric.db 6 = none ∧ ({ beaconMessage 6 3 with w3 := 1 } : Message).good = false := by decide +kernel

theorem test_newer_beacons : ∀ s : State, s = { onState with fabric := { db := [(6, beaconOf 6 2)] } } → SMap.find? s.fabric.db 6 = some (beaconOf 6 2) ∧
    (beaconOf 6 2).links = (beaconOf 6 3).links ∧ (beaconOf 6 2).epoch < (beaconOf 6 3).epoch ∧ (beaconOf 6 2).noisy (beaconOf 6 3) = false ∧
    (beaconOf 6 2).noisy { beaconOf 6 3 with rv := true } = true ∧ (beaconOf 6 2).links ≠ [{ neighbour := 5 }] := by
  rintro _ rfl; decide

theorem test_quiet_database : ∀ s : State, s = { onState.setStage 3 with fabric := { quiet := true, waiting := true, digest := some 0, computed := [(5, [])], db := [(5, { dv := true })] } } →
    s.fabric.quiet = true ∧ s.fabric.waiting = true ∧ s.fabric.refused = false ∧ s.fabric.stalled = false ∧ s.fabric.digest = some 0 ∧
    (∀ x ∈ s.fabric.computed, ∃ e, SMap.find? s.fabric.db x.1 = some e ∧ e.dv = true ∧ e.digest = 0) ∧ diameter s.fabric.computed ≤ 32 ∧ 3 ≤ s.stage := by
  rintro _ rfl
  refine ⟨by decide, by decide, by decide, by decide, by decide, fun x h => ?_, by decide, by decide⟩
  simp only [List.mem_singleton] at h
  subst h
  exact ⟨_, rfl, rfl, rfl⟩

theorem test_database_that_is_not_quiet : (onState.setStage 3).fabric.quiet = false ∧ (onState.setStage 3).stage ≠ 10 ∧ (onState.setStage 3).stage ≠ 12 ∧
    48 ∈ (onState.setStage 3).start.domainsUp ∧ ({ dv := false } : BeaconEntry).dv = false := by decide

theorem test_sums_of_a_row : ∃ acc b, (memberState {} {}).rowSums 0 { addr := 64, step := 1 } = (some acc, b) := ⟨_, _, rfl⟩

theorem test_filler_flint_enabled : ({ runningMember {} with cfg := [(cfgKey 0 0xB01 0, 1)] } : State).fillerFlint = true ∧
    ({ runningMember {} with cfg := [(cfgKey 0 0xB01 0, 1)] } : State).jobRunning = true := by decide

/-- What receive lane `l` of FP0 takes up of an alignment slot of the far port. -/
def alignMark (l : Nat) : Codeword := atD (alignLanes 3 9) l 0

theorem test_aligned_lanes : readAlign ((portState { state := 3 }).laneWord 0 0 (alignMark 1)) = some (1, 3, 9) ∧
    readAlign ((portState { state := 3 }).laneWord 0 1 (alignMark 0)) = some (0, 3, 9) := by decide +kernel

theorem test_aligned_lanes_above : readAlign ((portState { state := 3 }).laneWord 0 2 (alignMark 2)) = some (2, 3, 9) ∧
    readAlign ((portState { state := 3 }).laneWord 0 3 (alignMark 3)) = some (3, 3, 9) := by decide +kernel

theorem test_lanes_and_skew : [1, 0, 2, 3].Perm [0, 1, 2, 3] ∧ deskews [(9, 9), (12, 9), (25, 9), (10, 9)] = true ∧ deskews [(9, 9), (26, 9)] = false := by decide

theorem test_codeword_that_decodes : (rsDecode (ofLevels false (toLevels (rsEncode 5)))).isSome = true := by decide +kernel

theorem test_reserved_flit : flitGood (makeFlit 6 0 0 0 0 []) = true ∧ 6 ≤ flitType (makeFlit 6 0 0 0 0 []) ∧ flitGood 1 = false := by decide +kernel

theorem test_full_retry_buffer : 2048 ≤ ((portState { state := 6, retry := List.replicate 2048 0 }).port 0).retry.length ∧
    ((portState { state := 6, nakSent := true }).port 0).retry.length < 2048 := by decide +kernel

theorem test_waiting_request : ({ hbmRequest with waits := true } : MemRequest).waits = true ∧ onState.suffer { hbmRequest with waits := true } false = onState ∧
    (onState.channel (onState.place (hbmRequest.addr / 64 * 64))).queue = [] ∧ SMap.find? onState.memErr (hbmRequest.addr / 64) = none := by decide

/-- A read of a slate line that suffers the given fate. -/
def slateRequest (f : LineFate) : MemRequest := { addr := slateBase, fate := f }

theorem test_slate_requests_that_do_not_complete :
    (∀ f ∈ [LineFate.slow, .fails], (onState.suffer (slateRequest f) false).slateStalled slateBase 64 = true) ∧
    (onState.suffer (slateRequest .slow) false).slateFate (slateBase / 64) = some false ∧
    (onState.suffer (slateRequest .fails) false).slateFate (slateBase / 64) = some true ∧
    (onState.suffer (slateRequest .fails) false).slate.migrating.contains (slatePage slateBase) = false ∧
    ((onState.setStage 8).testPhase = false) ∧ (onState.setStage 3).testPhase = true := by decide

theorem test_slate_request_to_a_migration : ({ onState with slate := { migrating := [slatePage slateBase] } } : State).slateStalled slateBase 64 = true ∧
    ({ onState with slate := { migrating := [slatePage slateBase] } } : State).slate.migrating.contains (slatePage slateBase) = true := by decide

theorem test_slate_requests_of_one_line : slateState.slateBehind 0 { req := { addr := slateBase } } = false ∧
    ({ onState with slate := { requests := [{ req := { addr := slateBase } }, { req := { addr := slateBase } }] } } : State).slateBehind 1
      { req := { addr := slateBase } } = true := by decide

theorem test_page_that_fails : ({ onState with slate := { queue := [0], failLines := [(slateBase / 64, true)] } } : State).pageFails 0 = true ∧
    onState.pageFails 0 = false := by decide

/-- A channel whose write queue is full. -/
def fullChannel : Channel := { queue := List.replicate 64 { write := true } }

theorem test_write_queues : (onState.channel (.hbm 0 0)).writes < 64 ∧
    64 ≤ (({ onState with controllers := [(0, { channels := [(0, fullChannel)] })] } : State).channel (.hbm 0 0)).writes := by decide

/-! Single steps. -/

/-- A module that exec of a command answers. -/
def after (i : Instr) (s : State) : State :=
  match exec i s with
  | .next t => t
  | .fault _ => s
  | .refused _ => s

/-- R14, the worked example: FP13's engine is OE3, and its lane 2 is lane 6 of that engine. -/
theorem test_port_13_is_on_engine_3 : 13 / 4 = 3 ∧ (4 * 13 + 2) % 16 = 6 := by decide

/-- Table 2-5: LOOP of one entry with IMM = 3 runs its body four times. -/
theorem test_loop_counts_imm_plus_one :
    (((after (.loop 0 0) (tableState { op := 1, oper := 1, imm := 3 } {})).core 0).slot 0).loops = [{ start := 1, stop := 2, count := 4 }] := by decide

/-- Table 2-5: STEP_END goes back to entry 0. -/
theorem test_step_end_starts_the_next_iteration :
    (((after (.stepEnd 0 0) (tableState { op := 4 } { iter := 6, prologue := true })).core 0).slot 0).iter = 7 := by decide

/-- R47: a unit entry moves to its unit's queue. -/
theorem test_dispatch_moves_an_entry : ((((after (.sqDispatch 0 0) (tableState { unit := 4, op := 1 } {})).core 0).slot 0).queue 4).length = 1 := by decide

/-- R55: an entry that completes leaves its unit and signals T1. -/
theorem test_completion_signals :
    (((after (.entryComplete 0 1) (coreState { units := [(1, { running := [runEntry] })] })).core 0).slot 0).token 1 = 1 := by decide

/-- R320, Table 11-3: with light on four lanes FP0 goes on to LOCK. -/
theorem test_light_on_four_lanes : ((after (.lightCheck 0 ⟨[-300, -300, -300, -300], [0, 0, 0, 0]⟩ [-4000, -4000, -4000, -4000]) (portState { state := 1 })).port 0).state = 2 := by
  decide

/-- Table 11-4: reverse light excludes the port with the reason CROSSED. -/
theorem test_reverse_light : ((after (.lightCheck 0 ⟨[-300, -300, -300, -300], [0, 0, 0, 0]⟩ [-300, -4000, -4000, -4000]) (portState { state := 1 })).port 0).reason = 3 := by
  decide

/-- R276: a write is read back, and its neighbour stays. -/
theorem test_memory_write : Mem.get (after (.memoryWrite { addr := 64, len := 2 } [7, 9]) onState).mem 65 = 9 ∧
    Mem.get (after (.memoryWrite { addr := 64, len := 2 } [7, 9]) onState).mem 66 = 0 := by decide

/-- R502: a window adds 1 microsecond to local time. -/
theorem test_window_adds_a_microsecond : (after (.paceWindow []) onState).now = 1 := by decide +kernel

/-- R514: a sample of 1.25 times the cap and above cuts the power limit to nine tenths. -/
theorem test_power_sample : (after (.powerSample 1000 0) { onState with pace := { pPow := 1000 } }).pace.pPow = 900 := by decide

/-- R57: a host sees the stall of a full queue in its counter. -/
theorem test_full_queue_counts :
    (after (.sqDispatch 0 0) (tableState { unit := 6, op := 1 } { queues := [(6, List.replicate 8 {})] })).regN (coreReg 0 0x10 + 40) = 1 := by decide

/-- R464: PWR_EN low turns the domains off and keeps the always-on domain. -/
theorem test_pwr_en_low : (after .pwrEnDeassert onState).start.domainsUp = [] ∧ (after .pwrEnDeassert onState).start.aoOn = true := by decide

/-- Table 18-7: CAPABILITY is one byte. -/
theorem test_smb_capability : (after .smbCapability onState).out = [.smbusBlock [17] 98] := by decide +kernel

/-- R543: the check value of CRC-8 with the polynomial of SMBus over the digits 1 to 9 is 0xF4. -/
theorem test_packet_error_code : crc8 [0x31, 0x32, 0x33, 0x34, 0x35, 0x36, 0x37, 0x38, 0x39] = 0xF4 := by decide +kernel

/-- R543: a write with a wrong packet error code is refused and changes nothing else. -/
theorem test_wrong_packet_error_code : (after (.smbRegRead ⟨8, some 0⟩) onState).out = [.smbusPecRefused 0x20] ∧ (after (.smbRegRead ⟨8, some 0⟩) onState).regs = onState.regs := by decide +kernel

/-- Table 18-8: BYPASS shifts its single 0. -/
theorem test_bypass : (after (.bypass 0x7F) onState).out = [.jtagData 1 0] := by decide

end Sys2Proof.Tests
end

section
/-! SUPPORT. Reasoning rules for the memory controllers and the slate tier (10_memory_tiers.md): what an operation on one line leaves
alone. `ServiceOnly` is what serving requests may change, `LineReached` what an access to a line keeps until its protection is
read; the rules of the shared operations are stated through them. -/

namespace Sys2Proof.Machine

open Sys2Proof

/-! Errors that a controller raises (R278, R294). -/

theorem EventOnly.stopEffect (s : State) (slot phase : Nat) (next either : Bool) :
    EventOnly s (s.stopEffect slot phase next either).2 := by
  unfold State.stopEffect
  dsimp only
  split
  · exact .updJob _ _ _
  · split
    · exact .updJob _ _ _
    · split <;> exact .updJob _ _ _

theorem State.stopEffect_regs (s : State) (slot phase : Nat) (next either : Bool) :
    (s.stopEffect slot phase next either).2.regs = s.regs := by
  unfold State.stopEffect
  dsimp only
  split
  · rfl
  · split
    · rfl
    · split <;> rfl

theorem EventOnly.serviceError (s : State) (code unit index slot step phase d5 d6 d7 : Nat) :
    EventOnly s (s.serviceError code unit index slot step phase d5 d6 d7) :=
  (EventOnly.stopEffect s slot phase false false).trans (.raiseError _ _)

theorem EventOnly.inputsLost (s : State) (code unit index slot step phase d5 d6 d7 : Nat) :
    EventOnly s (s.inputsLost code unit index slot step phase d5 d6 d7) :=
  (EventOnly.updJob s slot _).trans (.raiseError _ _)

theorem EventOnly.addrFault (s : State) (k : Asker) (a : Nat) : EventOnly s (s.addrFault k a) :=
  (EventOnly.inc s _ 1).trans (.serviceError _ _ _ _ _ _ _ _ _ _)

theorem EventOnly.mem {s t : State} (h : EventOnly s t) : t.mem = s.mem := by unfold EventOnly at h; rw [h]
theorem EventOnly.memErr {s t : State} (h : EventOnly s t) : t.memErr = s.memErr := by unfold EventOnly at h; rw [h]
theorem EventOnly.cores {s t : State} (h : EventOnly s t) : t.cores = s.cores := by unfold EventOnly at h; rw [h]
theorem EventOnly.slate {s t : State} (h : EventOnly s t) : t.slate = s.slate := by unfold EventOnly at h; rw [h]
theorem EventOnly.controllers {s t : State} (h : EventOnly s t) : t.controllers = s.controllers := by unfold EventOnly at h; rw [h]

theorem EventOnly.channel {s t : State} (h : EventOnly s t) (p : Place) : t.channel p = s.channel p := by
  cases p <;> simp only [State.channel, State.mc, h.controllers, h.slate]

/-- An error of the service complex writes no register outside the fault block but HL_INT_STATUS. -/
theorem State.reg_serviceError (s : State) (code unit index slot step phase d5 d6 d7 o : Nat) (h : o < 0x200000 ∨ 0x300000 ≤ o)
    (k : o ≠ hlIntStatus) : (s.serviceError code unit index slot step phase d5 d6 d7).reg o = s.reg o := by
  rw [State.serviceError, State.reg_raiseError _ _ _ h k, State.reg, State.stopEffect_regs, ← State.reg]

theorem spreadHash_stack_lt (g : Nat) : (spreadHash g).1 < 8 := Nat.mod_lt _ (by decide)

/-- R278: a refused request is counted in MC_ADDR_FAULT of its stack. -/
theorem State.reg_addrFault (s : State) (k : Asker) (a : Nat) :
    (s.addrFault k a).reg (dieReg (spreadHash (a / 256)).1 0x168) =
      BitVec.ofNat 64 (min (2 ^ 64 - 1) (s.regN (dieReg (spreadHash (a / 256)).1 0x168) + 1)) := by
  have hst := spreadHash_stack_lt (a / 256)
  have hlow : dieReg (spreadHash (a / 256)).1 0x168 < 0x200000 := by unfold dieReg; omega
  have hint : dieReg (spreadHash (a / 256)).1 0x168 ≠ hlIntStatus := by unfold dieReg hlIntStatus; omega
  rw [State.addrFault, State.reg_serviceError _ _ _ _ _ _ _ _ _ _ _ (.inl hlow) hint, State.reg_inc, if_pos rfl, State.regN]

/-! What a request's line suffers as the request reaches it (R294, R296). -/

/-- A request's fate marks its own line, in the protection of an HBM line or among the failing slate lines, and nothing else. -/
theorem State.suffer_eq (s : State) (q : MemRequest) (write : Bool) :
    ∃ e fl, s.suffer q write = { s with memErr := e, slate := { s.slate with failLines := fl } } ∧
      ∀ l, l ≠ q.addr / 64 → SMap.find? e l = SMap.find? s.memErr l := by
  have marked (b : Bool) (l : Nat) (h : l ≠ q.addr / 64) :
      SMap.find? (SMap.put s.memErr (q.addr / 64) b) l = SMap.find? s.memErr l := SMap.find_put_other _ _ _ _ h
  unfold State.suffer
  dsimp only
  split
  · split
    · exact ⟨_, _, rfl, marked false⟩
    · exact ⟨_, _, rfl, marked true⟩
    · exact ⟨_, _, rfl, fun _ _ => rfl⟩
  · split
    · exact ⟨_, _, rfl, fun _ _ => rfl⟩
    · split <;> exact ⟨_, _, rfl, fun _ _ => rfl⟩

section
variable (s : State) (q : MemRequest) (write : Bool)

@[simp] theorem State.suffer_mem : (s.suffer q write).mem = s.mem := by
  obtain ⟨e, fl, h, -⟩ := s.suffer_eq q write; rw [h]
@[simp] theorem State.suffer_cores : (s.suffer q write).cores = s.cores := by
  obtain ⟨e, fl, h, -⟩ := s.suffer_eq q write; rw [h]
@[simp] theorem State.suffer_jobs : (s.suffer q write).jobs = s.jobs := by
  obtain ⟨e, fl, h, -⟩ := s.suffer_eq q write; rw [h]
@[simp] theorem State.suffer_flash0 : (s.suffer q write).flash0 = s.flash0 := by
  obtain ⟨e, fl, h, -⟩ := s.suffer_eq q write; rw [h]
@[simp] theorem State.suffer_flash1 : (s.suffer q write).flash1 = s.flash1 := by
  obtain ⟨e, fl, h, -⟩ := s.suffer_eq q write; rw [h]
@[simp] theorem State.suffer_out : (s.suffer q write).out = s.out := by
  obtain ⟨e, fl, h, -⟩ := s.suffer_eq q write; rw [h]
@[simp] theorem State.suffer_regs : (s.suffer q write).regs = s.regs := by
  obtain ⟨e, fl, h, -⟩ := s.suffer_eq q write; rw [h]
@[simp] theorem State.suffer_requests : (s.suffer q write).slate.requests = s.slate.requests := by
  obtain ⟨e, fl, h, -⟩ := s.suffer_eq q write; rw [h]
@[simp] theorem State.reg_suffer (o : Nat) : (s.suffer q write).reg o = s.reg o := by simp [State.reg]

/-- The marks of other lines stay. -/
theorem State.find_memErr_suffer (l : Nat) (hl : l ≠ q.addr / 64) :
    SMap.find? (s.suffer q write).memErr l = SMap.find? s.memErr l := by
  obtain ⟨e, fl, h, he⟩ := s.suffer_eq q write
  rw [h]
  exact he l hl

end

/-! Serving requests. -/

/-- What serving requests may change: `t` is `s` but for what went out, registers, the controllers, and of the slate tier its
page counts, its queue of pages, its frames, its channels and the note of a stalled access. -/
def ServiceOnly (s t : State) : Prop :=
  t = { s with
    out := t.out, regs := t.regs, controllers := t.controllers
    slate := { s.slate with counts := t.slate.counts, queue := t.slate.queue, frames := t.slate.frames
                            channels := t.slate.channels, blocked := t.slate.blocked } }

theorem ServiceOnly.refl (s : State) : ServiceOnly s s := rfl

theorem ServiceOnly.trans {s t u : State} (h : ServiceOnly s t) (k : ServiceOnly t u) : ServiceOnly s u := by
  unfold ServiceOnly at *
  rw [k, h]

theorem ServiceOnly.ite {s a b : State} {c : Prop} [Decidable c] (ha : ServiceOnly s a) (hb : ServiceOnly s b) :
    ServiceOnly s (if c then a else b) := by split <;> assumption

theorem ServiceOnly.store {s t : State} (h : ServiceOnly s t) : t.store = s.store := by unfold ServiceOnly at h; rw [h]; rfl
theorem ServiceOnly.mem {s t : State} (h : ServiceOnly s t) : t.mem = s.mem := by unfold ServiceOnly at h; rw [h]
theorem ServiceOnly.memErr {s t : State} (h : ServiceOnly s t) : t.memErr = s.memErr := by unfold ServiceOnly at h; rw [h]
theorem ServiceOnly.cores {s t : State} (h : ServiceOnly s t) : t.cores = s.cores := by unfold ServiceOnly at h; rw [h]
theorem ServiceOnly.jobs {s t : State} (h : ServiceOnly s t) : t.jobs = s.jobs := by unfold ServiceOnly at h; rw [h]
theorem ServiceOnly.flash0 {s t : State} (h : ServiceOnly s t) : t.flash0 = s.flash0 := by unfold ServiceOnly at h; rw [h]
theorem ServiceOnly.flash1 {s t : State} (h : ServiceOnly s t) : t.flash1 = s.flash1 := by unfold ServiceOnly at h; rw [h]
theorem ServiceOnly.cfg {s t : State} (h : ServiceOnly s t) : t.cfg = s.cfg := by unfold ServiceOnly at h; rw [h]
theorem ServiceOnly.requests {s t : State} (h : ServiceOnly s t) : t.slate.requests = s.slate.requests :=
  congrArg (·.slate.requests) h

theorem ServiceOnly.emit (s : State) (e : OutEvent) : ServiceOnly s (s.emit e) := rfl

theorem ServiceOnly.inc (s : State) (o n : Nat) : ServiceOnly s (s.inc o n) := by
  unfold State.inc
  exact .ite (.refl _) rfl

theorem ServiceOnly.noteStall (s : State) (a n : Nat) : ServiceOnly s (s.noteStall a n) := by
  unfold State.noteStall
  exact .ite rfl (.refl _)

theorem ServiceOnly.updChannel (s : State) (p : Place) (f : Channel → Channel) : ServiceOnly s (s.updChannel p f) := by
  cases p <;> rfl

theorem ServiceOnly.setMode (s : State) (p : Place) (write : Bool) : ServiceOnly s (s.setMode p write) := by
  unfold State.setMode
  exact .ite (.refl _) ((ServiceOnly.updChannel s p _).trans (.inc _ _ _))

theorem ServiceOnly.countLine (s : State) (p : Place) (cls : Nat) (write : Bool) : ServiceOnly s (s.countLine p cls write) := by
  cases p <;> exact .inc _ _ _

/-- R290 to R293: one service of the scheduler. -/
theorem ServiceOnly.issueOne (s : State) (p : Place) : ServiceOnly s (s.issueOne p) := by
  unfold State.issueOne
  refine .ite (.refl _) ?_
  extract_lets s1 c forced
  have h1 : ServiceOnly s s1 := .setMode _ _ _
  clear_value s1
  split
  · exact h1
  · rename_i i r _
    extract_lets s2 s3 s4 n s5
    have h2 : ServiceOnly s s2 := h1.trans ((ServiceOnly.setMode _ _ _).trans (.countLine _ _ _ _))
    have h3 : ServiceOnly s s3 := by
      simp only [s3]
      split
      · exact h2.trans (.inc _ _ _)
      · exact h2
    have h4 : ServiceOnly s s4 := h3.trans (.updChannel _ _ _)
    have h5 : ServiceOnly s s5 := .ite (h4.trans (.setMode _ _ _)) h4
    exact .ite h5 (h5.trans (.emit _ _))

theorem ServiceOnly.issue (n : Nat) (s : State) (p : Place) : ServiceOnly s (s.issue p n) := by
  induction n generalizing s with
  | zero => exact .refl _
  | succ n ih => exact (ServiceOnly.issueOne s p).trans (ih _)

theorem ServiceOnly.enqueue (s : State) (p : Place) (r : QueuedReq) : ServiceOnly s (s.enqueue p r) := by
  unfold State.enqueue
  extract_lets s1 s2
  have h1 : ServiceOnly s s1 := .ite (.issue _ _ _) (.refl _)
  have h2 : ServiceOnly s s2 := h1.trans (.updChannel _ _ _)
  exact .ite h2 (h2.trans (.issue _ _ _))

/-! Channels and places. -/

theorem State.channel_updChannel (s : State) (p r : Place) (f : Channel → Channel) :
    (s.updChannel p f).channel r = if r = p then f (s.channel p) else s.channel r := by
  cases p with
  | hbm st pc =>
    cases r with
    | hbm st' pc' =>
      simp only [State.channel, State.updChannel, State.mc_updMc, Place.hbm.injEq]
      by_cases hst : st' = st
      · subst hst
        simp [SMap.getD_upd]
      · simp [hst]
    | package k' => simp [State.channel, State.updChannel]
  | package k =>
    cases r with
    | hbm st' pc' => rfl
    | package k' => simp [State.channel, State.updChannel, SMap.getD_upd]

/-- A frame whose record keeps its page stays the frame of that page: the map's first entry with the page. -/
theorem find_upd_keeps_page (page f : Nat) (d : Frame) (g : Frame → Frame) (hg : ∀ x, (g x).page = x.page) (m : SMap Frame)
    (h : (List.find? (fun x => decide (x.2.page = page)) m).map (·.1) = some f) :
    (List.find? (fun x => decide (x.2.page = page)) (SMap.upd m f d g)).map (·.1) = some f := by
  unfold SMap.upd
  induction m with
  | nil => simp at h
  | cons e m ih =>
    obtain ⟨k, fr⟩ := e
    by_cases hp : fr.page = page
    · obtain rfl : k = f := by simpa [hp] using h
      simp [SMap.put, SMap.getD, SMap.find?, hg, hp]
    · have hm : (List.find? (fun x => decide (x.2.page = page)) m).map (·.1) = some f := by simpa [hp] using h
      rcases Nat.lt_trichotomy f k with hk | hk | hk
      · by_cases hx : (g (SMap.getD ((k, fr) :: m) f d)).page = page
        · simp [SMap.put, hk, hx]
        · simpa [SMap.put, hk, hx, hp] using hm
      · subst hk
        have hx : (g (SMap.getD ((f, fr) :: m) f d)).page ≠ page := by simpa [SMap.getD, SMap.find?, hg] using hp
        simpa [SMap.put, hx] using hm
      · have hget : SMap.getD ((k, fr) :: m) f d = SMap.getD m f d := by simp [SMap.getD, SMap.find?, Nat.ne_of_gt hk]
        rw [hget]
        simpa [SMap.put, Nat.not_lt_of_gt hk, Nat.ne_of_gt hk, hp] using ih hm

/-- R284, R285, R287: an access leaves a promoted page in its frame. -/
theorem State.frameOf_touchPage (s : State) (a : Nat) (write : Bool) :
    (s.touchPage a write).frameOf (slatePage a) = s.frameOf (slatePage a) := by
  have hc : (s.countPage a).slate.frames = s.slate.frames := by
    unfold State.countPage
    extract_lets
    split <;> rfl
  have hf : (s.countPage a).frameOf (slatePage a) = s.frameOf (slatePage a) := by simp only [State.frameOf, hc]
  unfold State.touchPage
  extract_lets u
  split
  · rename_i f h
    rw [← hf, h]
    unfold State.frameOf at h ⊢
    dsimp only
    refine find_upd_keeps_page _ _ _ _ ?_ _ h
    exact fun _ => rfl
  · exact hf

/-- R279 to R281, R288: the configuration and the page's frame fix the place of a line. -/
theorem State.place_congr {s t : State} (a : Nat) (hc : t.cfg = s.cfg) (hf : t.frameOf (slatePage a) = s.frameOf (slatePage a)) :
    t.place a = s.place a := by
  have hlocal : t.localGib = s.localGib := by unfold State.localGib State.cfgV; rw [hc]
  have hspread : t.spreadGib = s.spreadGib := by
    unfold State.spreadGib State.poolGib State.cfgV
    rw [hc, hlocal]
  have hwindow : t.window a = s.window a := by unfold State.window; rw [hlocal, hspread]
  unfold State.place State.localBase
  rw [hwindow, hlocal, hspread, hf]

/-! Accesses to one line. -/

/-- What an access to the line at `a` keeps until the line's protection is read: it is a service, sends nothing, and leaves the
line's page in its frame and every request that waits in its channel. -/
structure LineReached (a : Nat) (s t : State) : Prop where
  service : ServiceOnly s t
  out : t.out = s.out
  frame : t.frameOf (slatePage a) = s.frameOf (slatePage a)
  queue : ∀ p, (t.channel p).queue = (s.channel p).queue

theorem LineReached.refl (a : Nat) (s : State) : LineReached a s s := ⟨.refl _, rfl, rfl, fun _ => rfl⟩

theorem LineReached.trans {a : Nat} {s t u : State} (h : LineReached a s t) (k : LineReached a t u) : LineReached a s u :=
  ⟨h.service.trans k.service, k.out.trans h.out, k.frame.trans h.frame, fun p => (k.queue p).trans (h.queue p)⟩

theorem LineReached.ite {a : Nat} {s t u : State} {c : Prop} [Decidable c] (ht : LineReached a s t) (hu : LineReached a s u) :
    LineReached a s (if c then t else u) := by split <;> assumption

theorem LineReached.place {a : Nat} {s t : State} (h : LineReached a s t) : t.place a = s.place a :=
  State.place_congr a h.service.cfg h.frame

/-- Neither the bytes nor the marks of lines bear on an access. -/
theorem LineReached.withLine {a : Nat} {s t : State} (h : LineReached a s t) (m : Mem) (e : SMap Bool) :
    LineReached a { s with mem := m, memErr := e } { t with mem := m, memErr := e } := by
  refine ⟨?_, h.out, h.frame, h.queue⟩
  have hs := h.service
  unfold ServiceOnly at *
  rw [hs]

theorem LineReached.inc (a : Nat) (s : State) (o n : Nat) : LineReached a s (s.inc o n) := by
  refine ⟨.inc _ _ _, by simp, by simp [State.frameOf], fun p => ?_⟩
  cases p <;> simp [State.channel]

theorem LineReached.updChannel (a : Nat) (s : State) (p : Place) (f : Channel → Channel) (hf : ∀ c, (f c).queue = c.queue) :
    LineReached a s (s.updChannel p f) := by
  refine ⟨.updChannel _ _ _, by cases p <;> rfl, by cases p <;> rfl, fun r => ?_⟩
  rw [State.channel_updChannel]
  split
  · rename_i h
    rw [hf, h]
  · rfl

theorem LineReached.setMode (a : Nat) (s : State) (p : Place) (write : Bool) : LineReached a s (s.setMode p write) := by
  unfold State.setMode
  exact .ite (.refl _ _) ((LineReached.updChannel a s p _ (by intro; rfl)).trans (.inc _ _ _ _))

theorem LineReached.serve (a : Nat) (s : State) (p : Place) (write : Bool) : LineReached a s (s.serve p write) := by
  unfold State.serve
  exact .ite ((LineReached.setMode _ _ _ _).trans (.setMode _ _ _ _)) (.setMode _ _ _ _)

theorem LineReached.countLine (a : Nat) (s : State) (p : Place) (cls : Nat) (write : Bool) :
    LineReached a s (s.countLine p cls write) := by
  cases p <;> exact .inc _ _ _ _

theorem LineReached.touchPage (a : Nat) (s : State) (write : Bool) : LineReached a s (s.touchPage a write) := by
  have hcount : ServiceOnly s (s.countPage a) ∧ (s.countPage a).out = s.out ∧
      ∀ p, ((s.countPage a).channel p).queue = (s.channel p).queue := by
    unfold State.countPage
    extract_lets
    split <;> exact ⟨rfl, rfl, fun p => by cases p <;> rfl⟩
  obtain ⟨hservice, hout, hqueue⟩ := hcount
  have htouch : ServiceOnly (s.countPage a) (s.touchPage a write) ∧ (s.touchPage a write).out = (s.countPage a).out ∧
      ∀ p, ((s.touchPage a write).channel p).queue = ((s.countPage a).channel p).queue := by
    unfold State.touchPage
    extract_lets u
    split <;> exact ⟨rfl, rfl, fun p => by cases p <;> rfl⟩
  exact ⟨hservice.trans htouch.1, htouch.2.1.trans hout, s.frameOf_touchPage a write, fun p => (htouch.2.2 p).trans (hqueue p)⟩

/-- The page access that each access to a line makes first: a slate page is counted and its frame's bits are set. -/
def State.accessPage (s : State) (a : Nat) (write : Bool) : State := if s.window a = .slate then s.touchPage a write else s

theorem LineReached.accessPage (a : Nat) (s : State) (write : Bool) : LineReached a s (s.accessPage a write) :=
  .ite (.touchPage _ _ _) (.refl _ _)

/-! The protection of a line (R294). -/

theorem SMap.del_del {α : Type} (m : SMap α) (a : Nat) : SMap.del (SMap.del m a) a = SMap.del m a := by
  induction m with
  | nil => rfl
  | cons e m ih =>
    obtain ⟨k, v⟩ := e
    by_cases h : a = k
    · simpa [SMap.del, h] using h ▸ ih
    · simp [SMap.del, h, ih]

/-- The write of a corrected line, of class 4, and its count. -/
theorem LineReached.corrected (a : Nat) (s : State) (p : Place) (o : Nat) :
    LineReached a s (((s.serve p true).countLine p 4 true).inc o 1) :=
  ((LineReached.serve _ _ _ _).trans (.countLine _ _ _ _ _)).trans (.inc _ _ _ _)

/-- A line that is not poisoned is read: marks change at most at the line itself, whose correctable mark goes. -/
theorem State.checkLine_sound (s : State) (k : Asker) (a : Nat) (h : SMap.find? s.memErr (a / 64) ≠ some true) :
    (s.checkLine k a).1 = false ∧
      ∃ e, SMap.del e (a / 64) = SMap.del s.memErr (a / 64) ∧ LineReached a { s with memErr := e } (s.checkLine k a).2 := by
  unfold State.checkLine
  split
  · exact ⟨rfl, s.memErr, rfl, .refl _ _⟩
  · split
    · exact ⟨rfl, s.memErr, rfl, .refl _ _⟩
    · exact ⟨rfl, SMap.del s.memErr (a / 64), SMap.del_del _ _, .corrected _ _ _ _⟩
    · contradiction

/-- A correctable error of an HBM line is corrected. -/
theorem State.checkLine_corrected (s : State) (k : Asker) (a : Nat) (h : SMap.find? s.memErr (a / 64) = some false)
    (hp : ∃ st pc, s.place a = .hbm st pc) : SMap.find? (s.checkLine k a).2.memErr (a / 64) = none := by
  obtain ⟨st, pc, hp⟩ := hp
  simp only [State.checkLine, hp, h]
  rw [(LineReached.corrected a _ _ _).service.memErr, SMap.find_del_same]

/-- A poisoned HBM line is reported, and nothing but an error event follows. -/
theorem State.checkLine_poisoned (s : State) (k : Asker) (a : Nat) (h : SMap.find? s.memErr (a / 64) = some true)
    (hp : ∃ st pc, s.place a = .hbm st pc) : (s.checkLine k a).1 = true ∧ EventOnly s (s.checkLine k a).2 := by
  obtain ⟨st, pc, hp⟩ := hp
  simp only [State.checkLine, hp, h]
  exact ⟨trivial, .ite ((EventOnly.inc _ _ _).trans (.inputsLost _ _ _ _ _ _ _ _ _ _))
    ((EventOnly.inc _ _ _).trans (.serviceError _ _ _ _ _ _ _ _ _ _))⟩

/-! One line read or written (R276). -/

/-- The place of a line read, its channel's mode, its count and its page access, before its protection. -/
def State.beforeCheck (s : State) (k : Asker) (a : Nat) : State :=
  ((s.serve (s.place a) false).countLine (s.place a) k.cls false).accessPage a false

theorem State.readLine_eq (s : State) (k : Asker) (a : Nat) : s.readLine k a = (s.beforeCheck k a).checkLine k a := rfl

theorem LineReached.beforeCheck (a : Nat) (s : State) (k : Asker) : LineReached a s (s.beforeCheck k a) :=
  ((LineReached.serve _ _ _ _).trans (.countLine _ _ _ _ _)).trans (.accessPage _ _ _)

/-- The protection of a line that an access has reached, where it is not poisoned. -/
theorem LineReached.checkLine_sound {a : Nat} {s t : State} (h : LineReached a s t) (k : Asker)
    (hsound : SMap.find? s.memErr (a / 64) ≠ some true) :
    (t.checkLine k a).1 = false ∧
      ∃ e, SMap.del e (a / 64) = SMap.del s.memErr (a / 64) ∧ LineReached a { s with memErr := e } (t.checkLine k a).2 := by
  obtain ⟨h1, e, he, h2⟩ := t.checkLine_sound k a (by rwa [h.service.memErr])
  refine ⟨h1, e, h.service.memErr ▸ he, LineReached.trans ?_ h2⟩
  have hs := h.withLine s.mem e
  rwa [show ({ t with mem := s.mem, memErr := e } : State) = { t with memErr := e } by rw [← h.service.mem]] at hs

/-- The protection of a poisoned HBM line that an access has reached. -/
theorem LineReached.checkLine_poisoned {a : Nat} {s t : State} (h : LineReached a s t) (k : Asker)
    (hbad : SMap.find? s.memErr (a / 64) = some true) (hp : ∃ st pc, s.place a = .hbm st pc) :
    (t.checkLine k a).1 = true ∧ EventOnly t (t.checkLine k a).2 :=
  t.checkLine_poisoned k a (by rwa [h.service.memErr]) (by rwa [h.place])

/-- The state with a line's bytes stored and its error mark gone. -/
def State.stored (s : State) (a : Nat) (bs : List Byte) : State :=
  { s with mem := Mem.putBytes s.mem a bs, memErr := SMap.del s.memErr (a / 64) }

theorem line_number (a : Nat) : a / 64 * 64 / 64 = a / 64 := by omega

/-- R276, R294: a line that is not poisoned, or is written whole, takes the bytes and loses its mark. -/
theorem State.mergeLine_sound (s : State) (k : Asker) (a : Nat) (bs : List Byte)
    (h : SMap.find? s.memErr (a / 64) ≠ some true ∨ bs.length = 64) :
    (s.mergeLine k a bs).1 = false ∧ LineReached (a / 64 * 64) (s.stored a bs) (s.mergeLine k a bs).2 := by
  have hmerge : s.mergeLine k a bs =
      let u := s.accessPage (a / 64 * 64) true
      let r := if bs.length = 64 then (false, u) else u.checkLine k (a / 64 * 64)
      if r.1 then r else (false, { r.2 with mem := Mem.putBytes r.2.mem a bs, memErr := SMap.del r.2.memErr (a / 64 * 64 / 64) }) := rfl
  rw [hmerge]
  extract_lets u r
  have hu : LineReached (a / 64 * 64) s u := .accessPage _ _ _
  have hr : r.1 = false ∧ ∃ e, SMap.del e (a / 64) = SMap.del s.memErr (a / 64) ∧
      LineReached (a / 64 * 64) { s with memErr := e } r.2 := by
    by_cases hwhole : bs.length = 64
    · simp only [r, if_pos hwhole]
      exact ⟨trivial, s.memErr, rfl, hu⟩
    · simp only [r, if_neg hwhole]
      have hsound := hu.checkLine_sound k (by simpa [hwhole] using h)
      rwa [line_number] at hsound
  clear_value r
  obtain ⟨hr1, e, he, hr2⟩ := hr
  rw [hr1, line_number]
  refine ⟨rfl, ?_⟩
  have hstored := hr2.withLine (Mem.putBytes r.2.mem a bs) (SMap.del r.2.memErr (a / 64))
  have hmem : r.2.mem = s.mem := hr2.service.mem
  have herr : r.2.memErr = e := hr2.service.memErr
  rw [hmem, herr, he] at hstored
  simpa [hmem, herr, he, State.stored] using hstored

/-- R276, R294: one line written, where it is not poisoned or is written whole. -/
theorem State.writeLine_sound (s : State) (k : Asker) (a : Nat) (bs : List Byte)
    (h : SMap.find? s.memErr (a / 64) ≠ some true ∨ bs.length = 64) :
    LineReached (a / 64 * 64) (s.stored a bs) (s.writeLine k a bs).2 := by
  obtain ⟨hgood, hmerge⟩ := s.mergeLine_sound k a bs h
  unfold State.writeLine
  extract_lets p r
  rw [show r.1 = false from hgood]
  exact (hmerge.trans (.serve _ _ _ _)).trans (.countLine _ _ _ _ _)

/-- R276, R294: one line read, where it is not poisoned. -/
theorem State.readLine_sound (s : State) (k : Asker) (a : Nat) (h : SMap.find? s.memErr (a / 64) ≠ some true) :
    (s.readLine k a).1 = false ∧ ∃ e, LineReached a { s with memErr := e } (s.readLine k a).2 := by
  obtain ⟨hgood, e, -, hreach⟩ := (LineReached.beforeCheck a s k).checkLine_sound k h
  exact ⟨hgood, e, hreach⟩

/-- R294: a correctable error of an HBM line is corrected by a read of it. -/
theorem State.readLine_corrected (s : State) (k : Asker) (a : Nat) (h : SMap.find? s.memErr (a / 64) = some false)
    (hp : ∃ st pc, s.place a = .hbm st pc) : SMap.find? (s.readLine k a).2.memErr (a / 64) = none := by
  have hreach := LineReached.beforeCheck a s k
  rw [State.readLine_eq]
  exact State.checkLine_corrected _ k a (by rwa [hreach.service.memErr]) (by rwa [hreach.place])

/-- R294: a poisoned HBM line is read as poisoned, and keeps its mark. -/
theorem State.readLine_poisoned (s : State) (k : Asker) (a : Nat) (h : SMap.find? s.memErr (a / 64) = some true)
    (hp : ∃ st pc, s.place a = .hbm st pc) : (s.readLine k a).1 = true ∧ (s.readLine k a).2.memErr = s.memErr := by
  have hreach := LineReached.beforeCheck a s k
  obtain ⟨hbad, hevent⟩ := hreach.checkLine_poisoned k h hp
  exact ⟨hbad, hevent.memErr.trans hreach.service.memErr⟩

/-! Requests within one line. -/

theorem lines_within (a n : Nat) (hn : 0 < n) (h : n ≤ 64 - a % 64) : lines a n = [a / 64 * 64] := by
  have hlast : (a + n - 1) / 64 = a / 64 := by omega
  simp [lines, Nat.ne_of_gt hn, hlast]

theorem State.noteStall_of_unstalled (s : State) (a n : Nat) (h : s.slateStalled a n = false) : s.noteStall a n = s := by
  simp [State.noteStall, h]

section
variable (s : State) (k : Asker) (a n : Nat) (bs : List Byte)

theorem State.memRead_within (hn : 0 < n) (hin : n ≤ 64 - a % 64) (hs : s.slateStalled a n = false)
    (hr : s.refusedAddr k (a / 64 * 64) = false) :
    s.memRead k a n = { bytes := if (s.readLine k (a / 64 * 64)).1 then none else some (Mem.bytes s.mem a n)
                        poisoned := (s.readLine k (a / 64 * 64)).1, st := (s.readLine k (a / 64 * 64)).2 } := by
  simp [State.memRead, State.noteStall_of_unstalled _ _ _ hs, lines_within a n hn hin, hr]

theorem State.memRead_refused (hn : 0 < n) (hin : n ≤ 64 - a % 64) (hs : s.slateStalled a n = false)
    (hr : s.refusedAddr k (a / 64 * 64) = true) :
    s.memRead k a n = { bytes := none, poisoned := false, st := s.addrFault k (a / 64 * 64) } := by
  simp [State.memRead, State.noteStall_of_unstalled _ _ _ hs, lines_within a n hn hin, hr]

theorem State.memWrite_within (hn : bs ≠ []) (hin : bs.length ≤ 64 - a % 64) (hs : s.slateStalled a bs.length = false)
    (hr : s.refusedAddr k (a / 64 * 64) = false) : s.memWrite k a bs = s.writeLine k a bs := by
  have hpos : 0 < bs.length := List.length_pos_iff.mpr hn
  have hrest (m : Nat) (t : State) (b : Nat) : State.writeLines m t k b [] = (false, t) := by cases m <;> rfl
  simp [State.memWrite, State.noteStall_of_unstalled _ _ _ hs, lines_within a _ hpos hin, hr, State.writeLines,
    Nat.min_eq_right hin, hn, hrest]

theorem State.memWrite_refused (hn : bs ≠ []) (hin : bs.length ≤ 64 - a % 64) (hs : s.slateStalled a bs.length = false)
    (hr : s.refusedAddr k (a / 64 * 64) = true) : s.memWrite k a bs = (true, s.addrFault k (a / 64 * 64)) := by
  have hpos : 0 < bs.length := List.length_pos_iff.mpr hn
  simp [State.memWrite, State.noteStall_of_unstalled _ _ _ hs, lines_within a _ hpos hin, hr]

end

/-! Requests that join a scheduler's queue (R292). -/

/-- A read that waits is the last of its channel's queue, and nothing else of the channels' queues changes. -/
theorem State.enqueue_waiting_read (s : State) (p : Place) (r : QueuedReq) (hr : r.write = false) (hw : r.req.waits = true) :
    s.enqueue p r = s.updChannel p (fun c => { c with queue := c.queue ++ [r] }) := by
  simp [State.enqueue, hr, hw]

theorem State.queueRead_refused (s : State) (q : MemRequest) (n : Nat)
    (hr : s.refusedAddr (MemRequest.asker q) (q.addr / 64 * 64) = true) :
    s.queueRead q n = s.addrFault (MemRequest.asker q) (q.addr / 64 * 64) := if_pos hr

theorem State.queueWrite_refused (s : State) (q : MemRequest) (bs : List Byte)
    (hr : s.refusedAddr (MemRequest.asker q) (q.addr / 64 * 64) = true) :
    s.queueWrite q bs = s.addrFault (MemRequest.asker q) (q.addr / 64 * 64) := if_pos hr

/-- The protection of the line of a read that joins a queue. -/
def State.queueCheck (s : State) (q : MemRequest) : Bool × State :=
  (s.accessPage (q.addr / 64 * 64) false).checkLine (MemRequest.asker q) (q.addr / 64 * 64)

theorem State.queueRead_taken (s : State) (q : MemRequest) (n : Nat)
    (hr : s.refusedAddr (MemRequest.asker q) (q.addr / 64 * 64) = false) :
    s.queueRead q n = (s.queueCheck q).2.enqueue (s.place (q.addr / 64 * 64))
      { req := q, data := if (s.queueCheck q).1 then [] else Mem.bytes s.mem q.addr n, poisoned := (s.queueCheck q).1 } := by
  have hmem : (s.accessPage (q.addr / 64 * 64) false).mem = s.mem := (LineReached.accessPage _ s false).service.mem
  rw [← hmem]
  exact if_neg (by simp [hr])

/-- A read that joins a queue leaves the store alone. -/
theorem State.queueRead_store (s : State) (q : MemRequest) (n : Nat) : (s.queueRead q n).store = s.store := by
  cases hr : s.refusedAddr (MemRequest.asker q) (q.addr / 64 * 64) with
  | true => rw [State.queueRead_refused _ _ _ hr, State.addrFault_store]
  | false =>
    rw [State.queueRead_taken _ _ _ hr, (ServiceOnly.enqueue _ _ _).store, State.queueCheck, State.checkLine_store,
      (LineReached.accessPage _ _ _).service.store]

/-- R292, R294: a waiting read of a line that is not poisoned holds the line's bytes, and sends nothing. -/
theorem State.queueRead_sound (s : State) (q : MemRequest) (n : Nat) (hw : q.waits = true)
    (hr : s.refusedAddr (MemRequest.asker q) (q.addr / 64 * 64) = false)
    (hsound : SMap.find? s.memErr (q.addr / 64) ≠ some true) :
    ((s.queueRead q n).channel (s.place (q.addr / 64 * 64))).queue =
      (s.channel (s.place (q.addr / 64 * 64))).queue ++ [{ req := q, data := Mem.bytes s.mem q.addr n }] ∧
    (s.queueRead q n).out = s.out := by
  obtain ⟨hgood, e, -, hreach⟩ := (LineReached.accessPage (q.addr / 64 * 64) s false).checkLine_sound (MemRequest.asker q)
    (by rwa [line_number])
  change (s.queueCheck q).1 = false at hgood
  change LineReached _ _ (s.queueCheck q).2 at hreach
  rw [State.queueRead_taken _ _ _ hr, hgood, State.enqueue_waiting_read _ _ _ rfl hw]
  refine ⟨?_, ?_⟩
  · rw [State.channel_updChannel, if_pos rfl]
    exact congrArg (· ++ _) (hreach.queue _)
  · cases s.place (q.addr / 64 * 64) <;> exact hreach.out

/-- R292, R294: a waiting read of a poisoned HBM line waits without data, marked poisoned. -/
theorem State.queueRead_poisoned (s : State) (q : MemRequest) (n : Nat) (hw : q.waits = true)
    (hr : s.refusedAddr (MemRequest.asker q) (q.addr / 64 * 64) = false)
    (hbad : SMap.find? s.memErr (q.addr / 64) = some true) (hp : ∃ st pc, s.place (q.addr / 64 * 64) = .hbm st pc) :
    ((s.queueRead q n).channel (s.place (q.addr / 64 * 64))).queue =
      (s.channel (s.place (q.addr / 64 * 64))).queue ++ [{ req := q, poisoned := true }] := by
  have hacc := LineReached.accessPage (q.addr / 64 * 64) s false
  obtain ⟨hpoison, hevent⟩ := hacc.checkLine_poisoned (MemRequest.asker q) (by rwa [line_number]) hp
  change (s.queueCheck q).1 = true at hpoison
  change EventOnly _ (s.queueCheck q).2 at hevent
  rw [State.queueRead_taken _ _ _ hr, hpoison, State.enqueue_waiting_read _ _ _ rfl hw, State.channel_updChannel, if_pos rfl]
  exact congrArg (· ++ _) ((congrArg Channel.queue (hevent.channel _)).trans (hacc.queue _))

/-- R292: a write that joins a queue has its bytes in memory at once (log entry 31). -/
theorem State.queueWrite_sound (s : State) (q : MemRequest) (bs : List Byte)
    (hr : s.refusedAddr (MemRequest.asker q) (q.addr / 64 * 64) = false)
    (h : SMap.find? s.memErr (q.addr / 64) ≠ some true ∨ bs.length = 64) :
    ServiceOnly (s.stored q.addr bs) (s.queueWrite q bs) := by
  obtain ⟨hgood, hmerge⟩ := s.mergeLine_sound (MemRequest.asker q) q.addr bs h
  unfold State.queueWrite
  simp only [hr, hgood]
  exact hmerge.service.trans (.enqueue _ _ _)

end Sys2Proof.Machine
end

section
/-! MEMORY_READ and MEMORY_WRITE (10_memory_tiers.md R276, R278, R290 to R294): each command is one of a refusal, a request that
joins its channel's queue, and one that is served at once. O23 and O24. -/

namespace Sys2Proof.Machine

open Sys2Proof

/-! Reads that are served at once (R294). -/

/-- The answer to a read that is served at once. -/
def State.answerRead (s : State) (q : MemRequest) (n : Nat) : State :=
  let r := s.readLine (MemRequest.asker q) (q.addr / 64 * 64)
  r.2.emit (.memoryData q (if r.1 then [] else Mem.bytes s.mem q.addr n) r.1)

section
variable (s : State) (q : MemRequest) (n : Nat)

theorem State.answerRead_store : (s.answerRead q n).store = s.store :=
  s.readLine_store (MemRequest.asker q) (q.addr / 64 * 64)

/-- A line that is not poisoned is sent. -/
theorem State.answerRead_out (h : SMap.find? s.memErr (q.addr / 64) ≠ some true) :
    (s.answerRead q n).out = s.out ++ [.memoryData q (Mem.bytes s.mem q.addr n) false] := by
  obtain ⟨hgood, e, hreach⟩ := s.readLine_sound (MemRequest.asker q) (q.addr / 64 * 64) (by rwa [line_number])
  rw [State.answerRead, State.emit_out, hgood, hreach.out]
  rfl

theorem State.answerRead_corrected (h : SMap.find? s.memErr (q.addr / 64) = some false)
    (hp : ∃ st pc, s.place (q.addr / 64 * 64) = .hbm st pc) : SMap.find? (s.answerRead q n).memErr (q.addr / 64) = none := by
  have hfixed := s.readLine_corrected (MemRequest.asker q) (q.addr / 64 * 64) (by rwa [line_number]) hp
  rwa [line_number] at hfixed

/-- A poisoned line is sent without data, and keeps its mark. -/
theorem State.answerRead_poisoned (h : SMap.find? s.memErr (q.addr / 64) = some true)
    (hp : ∃ st pc, s.place (q.addr / 64 * 64) = .hbm st pc) :
    (s.answerRead q n).memErr = s.memErr ∧ ∃ pre, (s.answerRead q n).out = pre ++ [.memoryData q [] true] := by
  obtain ⟨hpoison, hmarks⟩ := s.readLine_poisoned (MemRequest.asker q) (q.addr / 64 * 64) (by rwa [line_number]) hp
  exact ⟨hmarks, _, by rw [State.answerRead, State.emit_out, hpoison]; rfl⟩

end

/-! The memory commands, once the line has suffered what the request names. -/

theorem exec_memoryRead (q : MemRequest) (s : State) : exec (.memoryRead q) s = execMemoryRead q s := rfl
theorem exec_memoryWrite (q : MemRequest) (bs : List Byte) (s : State) : exec (.memoryWrite q bs) s = execMemoryWrite q bs s := rfl
theorem exec_slateLate (k : Nat) (s : State) : exec (.slateLate k) s = execSlateLate k s := rfl
theorem exec_slateRetry (k : Nat) (ok : Bool) (s : State) : exec (.slateRetry k ok) s = execSlateRetry k ok s := rfl
theorem exec_slateTestTimeout (k : Nat) (s : State) : exec (.slateTestTimeout k) s = execSlateTestTimeout k s := rfl

/-- A request's bytes are cut at the line's end, and some remain. -/
theorem within_line (a n : Nat) (hn : 0 < n) : 0 < min n (64 - a % 64) ∧ min n (64 - a % 64) ≤ 64 - a % 64 := by omega

section
variable (q : MemRequest) (s u : State)

/-- A read joins its channel's queue where it waits, or others wait before it. -/
theorem execMemoryRead_queues (hu : u = s.suffer q false) (hs : u.slateStalled q.addr (min q.len (64 - q.addr % 64)) = false)
    (hq : q.waits = true ∨ (u.channel (u.place (q.addr / 64 * 64))).queue ≠ []) :
    exec (.memoryRead q) s = .next (u.queueRead q (min q.len (64 - q.addr % 64))) := by
  have hqueue : (q.waits || !(u.channel (u.place (q.addr / 64 * 64))).queue.isEmpty) = true := by simpa using hq
  simp only [exec_memoryRead, execMemoryRead, ← hu, hs, hqueue, if_true, Bool.false_eq_true, if_false]

/-- A read that meets an empty queue is served at once. -/
theorem execMemoryRead_serves (hu : u = s.suffer q false) (hn : 0 < q.len)
    (hs : u.slateStalled q.addr (min q.len (64 - q.addr % 64)) = false) (hw : q.waits = false)
    (hq : (u.channel (u.place (q.addr / 64 * 64))).queue = [])
    (hr : u.refusedAddr (MemRequest.asker q) (q.addr / 64 * 64) = false) :
    exec (.memoryRead q) s = .next (u.answerRead q (min q.len (64 - q.addr % 64))) := by
  obtain ⟨hpos, hin⟩ := within_line q.addr q.len hn
  simp only [exec_memoryRead, execMemoryRead, ← hu, State.answerRead, hs, hw, hq, u.memRead_within _ _ _ hpos hin hs hr]
  cases (u.readLine (MemRequest.asker q) (q.addr / 64 * 64)).1 <;> rfl

/-- R278: a read of a refused line. -/
theorem execMemoryRead_refuses (hu : u = s.suffer q false) (hn : 0 < q.len)
    (hs : u.slateStalled q.addr (min q.len (64 - q.addr % 64)) = false)
    (hr : u.refusedAddr (MemRequest.asker q) (q.addr / 64 * 64) = true) :
    exec (.memoryRead q) s = .next (u.addrFault (MemRequest.asker q) (q.addr / 64 * 64)) := by
  obtain ⟨hpos, hin⟩ := within_line q.addr q.len hn
  simp [exec_memoryRead, execMemoryRead, ← hu, hs, u.queueRead_refused _ _ hr, u.memRead_refused _ _ _ hpos hin hs hr]

theorem length_take_line (bs : List Byte) : (bs.take (64 - q.addr % 64)).length = min bs.length (64 - q.addr % 64) := by
  rw [List.length_take, Nat.min_comm]

/-- A write of a line that no controller refuses and that is not poisoned, or is written whole: the bytes are stored, at once or
as the write joins its channel's queue, and serving does the rest. A write that meets an empty queue sends nothing. -/
theorem execMemoryWrite_stores (bs : List Byte) (hu : u = s.suffer q true) (hbs : bs ≠ [])
    (hs : u.slateStalled q.addr (min bs.length (64 - q.addr % 64)) = false)
    (hr : u.refusedAddr (MemRequest.asker q) (q.addr / 64 * 64) = false)
    (h : SMap.find? u.memErr (q.addr / 64) ≠ some true ∨ min bs.length (64 - q.addr % 64) = 64) :
    ∃ t, exec (.memoryWrite q bs) s = .next t ∧ ServiceOnly (u.stored q.addr (bs.take (64 - q.addr % 64))) t ∧
      (q.waits = false → (u.channel (u.place (q.addr / 64 * 64))).queue = [] → t.out = u.out) := by
  obtain ⟨hpos, hin⟩ := within_line q.addr bs.length (List.length_pos_iff.mpr hbs)
  rw [← length_take_line] at hs h hpos hin
  simp only [exec_memoryWrite, execMemoryWrite, ← hu]
  generalize bs.take (64 - q.addr % 64) = l at *
  rw [hs]
  by_cases hq : q.waits || !(u.channel (u.place (q.addr / 64 * 64))).queue.isEmpty
  · refine ⟨_, rfl, ?_, fun hw hempty => ?_⟩
    · simpa [hq] using u.queueWrite_sound q l hr h
    · simp [hw, hempty] at hq
  · have hreach := u.writeLine_sound (MemRequest.asker q) q.addr l h
    have hserve := u.memWrite_within (MemRequest.asker q) q.addr l (List.length_pos_iff.mp hpos) hin hs hr
    refine ⟨_, rfl, ?_, fun _ _ => ?_⟩
    · simpa [hq, hserve] using hreach.service
    · rw [if_neg Bool.false_ne_true, if_neg hq, hserve]
      exact hreach.out

/-- R278: a write of a refused line. -/
theorem execMemoryWrite_refuses (bs : List Byte) (hu : u = s.suffer q true) (hbs : bs ≠ [])
    (hs : u.slateStalled q.addr (min bs.length (64 - q.addr % 64)) = false)
    (hr : u.refusedAddr (MemRequest.asker q) (q.addr / 64 * 64) = true) :
    exec (.memoryWrite q bs) s = .next (u.addrFault (MemRequest.asker q) (q.addr / 64 * 64)) := by
  obtain ⟨hpos, hin⟩ := within_line q.addr bs.length (List.length_pos_iff.mpr hbs)
  rw [← length_take_line] at hs hpos hin
  simp only [exec_memoryWrite, execMemoryWrite, ← hu]
  generalize bs.take (64 - q.addr % 64) = l at *
  have hdirect := u.memWrite_refused _ _ l (List.length_pos_iff.mp hpos) hin hs hr
  simp [hs, u.queueWrite_refused _ _ hr, hdirect]

/-- What a refused request leaves: memory, marks and cores, and its count in MC_ADDR_FAULT. -/
theorem refusal_of_suffer (write : Bool) (hu : u = s.suffer q write) :
    let t := u.addrFault (MemRequest.asker q) (q.addr / 64 * 64)
    t.mem = s.mem ∧ t.memErr = u.memErr ∧ t.cores = s.cores ∧
      t.reg (dieReg (spreadHash (q.addr / 64 * 64 / 256)).1 0x168) =
        BitVec.ofNat 64 (min (2 ^ 64 - 1) (s.regN (dieReg (spreadHash (q.addr / 64 * 64 / 256)).1 0x168) + 1)) := by
  have hevent := EventOnly.addrFault u (MemRequest.asker q) (q.addr / 64 * 64)
  subst hu
  refine ⟨hevent.mem.trans (s.suffer_mem _ _), hevent.memErr, hevent.cores.trans (s.suffer_cores _ _), ?_⟩
  rw [State.reg_addrFault, State.regN, State.reg_suffer, State.regN]

end

/-- Settles O23: the write stores its bytes in the state that its line's fate leaves, and all that follows is service. -/
theorem memoryWriteChangesItsBytesAlone : Obligations.MemoryWriteChangesItsBytesAlone := by
  unfold Obligations.MemoryWriteChangesItsBytesAlone
  intro q bs s u hbs hu
  refine ⟨fun hs hr h => ?_, fun hs hr => ⟨_, execMemoryWrite_refuses q s u bs hu hbs hs hr, refusal_of_suffer q s u true hu⟩⟩
  obtain ⟨t, hexec, hservice, hout⟩ := execMemoryWrite_stores q s u bs hu hbs hs hr h
  subst hu
  rw [← length_take_line]
  refine ⟨t, hexec, fun i hi => ?_, fun a ha => ?_, ?_, fun l hl => ?_, hservice.cores.trans (s.suffer_cores _ _),
    hservice.jobs.trans (s.suffer_jobs _ _), hservice.flash0.trans (s.suffer_flash0 _ _),
    hservice.flash1.trans (s.suffer_flash1 _ _), fun hw hempty => (hout hw hempty).trans (s.suffer_out _ _)⟩
  · have hi' : i < bs.length := Nat.lt_of_lt_of_le hi (List.length_take_le' _ _)
    rw [hservice.mem, State.stored, Mem.get_putBytes_inside _ _ _ _ hi, List.getElem_take,
      List.getD_eq_getElem?_getD, List.getElem?_eq_getElem hi', Option.getD_some]
  · rw [hservice.mem, State.stored, Mem.get_putBytes_outside _ _ _ _ ha, State.suffer_mem]
  · rw [hservice.memErr, State.stored, SMap.find_del_same]
  · rw [hservice.memErr, State.stored, SMap.find_del_other _ _ _ hl, State.find_memErr_suffer _ _ _ _ hl]

/-- Settles O24: a read is refused, joins its channel's queue, or is served at once, as its line's protection says. -/
theorem memoryReadReturnsTheBytes : Obligations.MemoryReadReturnsTheBytes := by
  unfold Obligations.MemoryReadReturnsTheBytes
  intro q s u hn hu hs
  refine ⟨fun hr => ?_, fun hr => ⟨_, execMemoryRead_refuses q s u hu hn hs hr, refusal_of_suffer q s u false hu⟩⟩
  have hmem : u.mem = s.mem := hu ▸ s.suffer_mem q false
  have hcores : u.cores = s.cores := hu ▸ s.suffer_cores q false
  have hout : u.out = s.out := hu ▸ s.suffer_out q false
  by_cases hq : q.waits = true ∨ (u.channel (u.place (q.addr / 64 * 64))).queue ≠ []
  · have hkept := u.queueRead_store q (min q.len (64 - q.addr % 64))
    refine ⟨_, execMemoryRead_queues q s u hu hs hq, (congrArg Store.mem hkept).trans hmem,
      (congrArg Store.cores hkept).trans hcores, fun hw hempty => ?_,
      fun hw => ⟨fun hclean => ?_, fun hsound => ?_, u.queueRead_poisoned q _ hw hr⟩⟩
    · simp [hw, hempty] at hq
    · exact (u.queueRead_sound q _ hw hr (by simp [hclean])).2.trans hout
    · rw [← hmem]
      exact (u.queueRead_sound q _ hw hr hsound).1
  · obtain ⟨hw, hempty⟩ : q.waits = false ∧ (u.channel (u.place (q.addr / 64 * 64))).queue = [] := by simpa using hq
    have hkept := u.answerRead_store q (min q.len (64 - q.addr % 64))
    have hdata := u.answerRead_out q (min q.len (64 - q.addr % 64))
    rw [hmem, hout] at hdata
    refine ⟨_, execMemoryRead_serves q s u hu hn hs hw hempty hr, (congrArg Store.mem hkept).trans hmem,
      (congrArg Store.cores hkept).trans hcores, fun _ _ => ⟨fun h => ⟨_, hdata h⟩, fun h => hdata (by simp [h]),
        u.answerRead_corrected q _, u.answerRead_poisoned q _⟩, fun hwaits => ?_⟩
    simp [hw] at hwaits

end Sys2Proof.Machine
end

section
/-! Slate requests that do not complete, and the commands of those that are held (10_memory_tiers.md R286, R292, R296, R297, R299).
O25. -/

namespace Sys2Proof.Machine

open Sys2Proof

/-! Slate requests that do not complete (R286, R296, R297, R299). -/

theorem State.now_of_reg {s t : State} (h : t.reg hlLocalTime = s.reg hlLocalTime) : t.now = s.now := by
  unfold State.now State.rfld
  rw [h]

/-- The registers of the slate tier are not local time. -/
theorem State.now_inc_ltReg (s : State) (o n : Nat) : (s.inc (ltReg o) n).now = s.now := by
  have hne : hlLocalTime ≠ ltReg o := by unfold hlLocalTime ltReg; omega
  exact State.now_of_reg (by rw [State.reg_inc, if_neg hne])

theorem State.now_setBit_ltReg (s : State) (o b : Nat) : (s.setBit (ltReg o) b).now = s.now := by
  have hne : hlLocalTime ≠ ltReg o := by unfold hlLocalTime ltReg; omega
  exact State.now_of_reg (by rw [State.reg_setBit, if_neg hne])

@[simp] theorem State.now_suffer (s : State) (q : MemRequest) (write : Bool) : (s.suffer q write).now = s.now :=
  State.now_of_reg (s.reg_suffer q write _)

@[simp] theorem State.testPhase_suffer (s : State) (q : MemRequest) (write : Bool) : (s.suffer q write).testPhase = s.testPhase := by
  have hstage : (s.suffer q write).stage = s.stage := by unfold State.stage State.rfld; rw [State.reg_suffer]
  unfold State.testPhase
  rw [hstage]

/-- Table 10-10: a count of the slate tier, past an error event. -/
theorem State.reg_raiseError_ltReg (s : State) (e : ErrInfo) (o : Nat) (ho : o < 0x1000) :
    (s.raiseError e).reg (ltReg o) = s.reg (ltReg o) :=
  State.reg_raiseError _ _ _ (.inl (by unfold ltReg; omega)) (by unfold ltReg hlIntStatus; omega)

theorem State.reg_inc_same (s : State) (o : Nat) : (s.inc o 1).reg o = BitVec.ofNat 64 (min (2 ^ 64 - 1) (s.regN o + 1)) := by
  rw [State.reg_inc, if_pos rfl, State.regN]

@[simp] theorem State.holdSlate_mem (s : State) (r : SlateRequest) : (s.holdSlate r).mem = s.mem := rfl
@[simp] theorem State.holdSlate_reg (s : State) (r : SlateRequest) (o : Nat) : (s.holdSlate r).reg o = s.reg o := rfl
@[simp] theorem State.holdSlate_rfld (s : State) (r : SlateRequest) (o h l : Nat) : (s.holdSlate r).rfld o h l = s.rfld o h l := rfl
@[simp] theorem State.holdSlate_requests (s : State) (r : SlateRequest) :
    (s.holdSlate r).slate.requests = s.slate.requests ++ [{ r with since := s.now }] := rfl

section
variable (s : State) (q : MemRequest) (write : Bool) (bs : List Byte)

theorem State.slateFail_of_migrating (h : s.slate.migrating.contains (slatePage q.addr) = true) :
    s.slateFail q write bs = (s.inc (ltReg 0x38) 1).holdSlate { req := q, write := write, bytes := bs } := if_pos h

theorem State.slateFail_of_not_failing (h : s.slate.migrating.contains (slatePage q.addr) = false)
    (hf : s.slateFate (q.addr / 64) ≠ some true) :
    s.slateFail q write bs = s.holdSlate { req := q, write := write, bytes := bs } := by
  simp only [State.slateFail, h, Bool.false_eq_true, if_false, if_pos hf]

theorem State.slateFail_of_failing (h : s.slate.migrating.contains (slatePage q.addr) = false)
    (hf : s.slateFate (q.addr / 64) = some true) :
    s.slateFail q write bs =
      if q.test || q.service || s.testPhase then
        ((s.inc (ltReg 0x58) 1).raiseError { code := 0x0305, unit := 11, index := slatePackage q.addr, slot := q.slot.val
                                             d5 := slatePackage q.addr, d6 := q.addr }).emit (.memoryError q)
      else ((s.inc (ltReg 0x50) 1).setBit (ltReg 0) 0).holdSlate { req := q, write := write, bytes := bs, failing := true } := by
  simp only [State.slateFail, h, Bool.false_eq_true, if_false, hf, ne_eq, not_true_eq_false]

end

theorem execMemoryRead_stalls (q : MemRequest) (s : State)
    (hs : (s.suffer q false).slateStalled q.addr (min q.len (64 - q.addr % 64)) = true) :
    exec (.memoryRead q) s = .next ((s.suffer q false).slateFail q false []) := by
  simp only [exec_memoryRead, execMemoryRead, hs, if_true]

/-! Reads and writes of memory leave the held requests alone. -/

theorem EventOnly.requests {s t : State} (h : EventOnly s t) : t.slate.requests = s.slate.requests := by rw [h.slate]

theorem LineReached.requests {a : Nat} {s t : State} (h : LineReached a s t) : t.slate.requests = s.slate.requests :=
  h.service.requests

@[simp] theorem State.checkLine_requests (s : State) (k : Asker) (a : Nat) :
    (s.checkLine k a).2.slate.requests = s.slate.requests := by
  by_cases hbad : SMap.find? s.memErr (a / 64) = some true ∧ ∃ st pc, s.place a = .hbm st pc
  · exact (s.checkLine_poisoned k a hbad.1 hbad.2).2.requests
  · cases hp : s.place a with
    | package p => simp [State.checkLine, hp]
    | hbm st pc =>
      obtain ⟨-, e, -, hreach⟩ := s.checkLine_sound k a (fun h => hbad ⟨h, st, pc, hp⟩)
      exact hreach.requests

theorem State.memRead_requests (s : State) (k : Asker) (a n : Nat) : (s.memRead k a n).st.slate.requests = s.slate.requests := by
  unfold State.memRead
  extract_lets u
  have hu : u.slate.requests = s.slate.requests := (ServiceOnly.noteStall s a n).requests
  clear_value u
  split
  · exact (EventOnly.addrFault u k _).requests.trans hu
  · refine foldl_keeps (fun acc : Bool × State => acc.2.slate.requests = s.slate.requests) _ _ _ hu (fun acc l ha => ?_)
    rw [State.readLine_eq, State.checkLine_requests, (LineReached.beforeCheck l acc.2 k).requests]
    exact ha

theorem State.mergeLine_requests (s : State) (k : Asker) (a : Nat) (bs : List Byte) :
    (s.mergeLine k a bs).2.slate.requests = s.slate.requests := by
  unfold State.mergeLine
  extract_lets l u r
  have hu : u.slate.requests = s.slate.requests := (LineReached.accessPage l s true).requests
  have hr : r.2.slate.requests = s.slate.requests := by simp only [r]; split <;> simp [hu]
  split <;> exact hr

theorem State.writeLine_requests (s : State) (k : Asker) (a : Nat) (bs : List Byte) :
    (s.writeLine k a bs).2.slate.requests = s.slate.requests := by
  unfold State.writeLine
  extract_lets p r
  have hr : r.2.slate.requests = s.slate.requests := s.mergeLine_requests k a bs
  split
  · exact hr
  · exact ((LineReached.serve 0 r.2 p true).trans (.countLine _ _ _ _ _)).requests.trans hr

theorem State.writeLines_requests (n : Nat) (s : State) (k : Asker) (a : Nat) (bs : List Byte) :
    (State.writeLines n s k a bs).2.slate.requests = s.slate.requests := by
  induction n generalizing s a bs with
  | zero => rfl
  | succ n ih =>
    unfold State.writeLines
    split
    · rfl
    · exact (ih _ _ _).trans (s.writeLine_requests _ _ _)

theorem State.memWrite_requests (s : State) (k : Asker) (a : Nat) (bs : List Byte) :
    (s.memWrite k a bs).2.slate.requests = s.slate.requests := by
  unfold State.memWrite
  extract_lets u
  have hu : u.slate.requests = s.slate.requests := (ServiceOnly.noteStall s a bs.length).requests
  clear_value u
  split
  · exact (EventOnly.addrFault u k _).requests.trans hu
  · exact (u.writeLines_requests _ _ _ _).trans hu

/-! Held requests (R292, R297). -/

/-- The state with held request `k` marked late. -/
def State.markLate (s : State) (k : Nat) : State :=
  { s with slate := { s.slate with requests := modAt s.slate.requests k (fun r => { r with late := true }) } }

/-- What SLATE_LATE makes of request `k`: it is marked late and counted in LT_LATE, and memory stays. -/
def LateMarked (s : State) (k : Nat) (r : SlateRequest) (t : State) : Prop :=
  t.slate.requests[k]? = some { r with late := true } ∧
  t.reg (ltReg 0x48) = BitVec.ofNat 64 (min (2 ^ 64 - 1) (s.regN (ltReg 0x48) + 1)) ∧ t.mem = s.mem

/-- The record of a late request does not undo its mark. -/
theorem LateMarked.recorded {s t u : State} {k : Nat} {r : SlateRequest} (h : LateMarked s k r t)
    (hreq : u.slate.requests = t.slate.requests) (hregs : u.regs = t.regs) (hmem : u.mem = t.mem) (e : ErrInfo) :
    LateMarked s k r (u.raiseError e) := by
  obtain ⟨hmark, hcount, hm⟩ := h
  refine ⟨?_, ?_, ?_⟩
  · rw [State.raiseError_slate, hreq, hmark]
  · rw [State.reg_raiseError_ltReg _ _ _ (by decide), State.reg, hregs, ← State.reg, hcount]
  · rw [State.raiseError_mem, hmem, hm]

theorem LateMarked.ite {s t u : State} {k : Nat} {r : SlateRequest} {c : Prop} [Decidable c] (ht : LateMarked s k r t)
    (hu : LateMarked s k r u) : LateMarked s k r (if c then t else u) := by split <;> assumption

section
variable (s : State) (k : Nat) (r : SlateRequest) (hk : s.slate.requests[k]? = some r)
include hk

theorem execSlateLate_marks (hlate : r.late = false) : ∃ t, exec (.slateLate k) s = .next t ∧ LateMarked s k r t := by
  have hmark : LateMarked s k r ((s.markLate k).inc (ltReg 0x48) 1) :=
    ⟨by rw [State.inc_slate]; exact modAt_get _ _ _ _ hk, State.reg_inc_same _ _, State.inc_mem _ _ _⟩
  rw [exec_slateLate]
  refine ⟨_, rfl, ?_⟩
  rw [hk]
  extract_lets slate marked u slate'
  have hu : LateMarked s k r u := hmark
  clear_value u
  dsimp only
  rw [if_neg (by simp [hlate])]
  refine .ite hu (.ite hu (hu.recorded ?_ ?_ ?_ _)) <;> rfl

/-- R297: a test request ends with an error completion. -/
theorem execSlateTestTimeout_ends (h : r.req.test = true ∨ r.req.service = true ∨ s.testPhase = true) :
    ∃ t, exec (.slateTestTimeout k) s = .next t ∧ t.slate.requests = s.slate.requests.eraseIdx k ∧ t.mem = s.mem ∧
      ∃ pre, t.out = pre ++ [.memoryError r.req] := by
  have hends : (r.req.test || r.req.service || s.testPhase) = true := by simpa [or_assoc] using h
  simp only [exec_slateTestTimeout, execSlateTestTimeout, hk, hends, if_true]
  exact ⟨_, rfl, by simp, by simp, _, rfl⟩

variable (htest : r.req.test = false) (hservice : r.req.service = false)
include htest hservice

/-- R297: a retry of a service request that fails is counted, on the request and in LT_FAIL. -/
theorem execSlateRetry_fails : ∃ t, exec (.slateRetry k false) s = .next t ∧
    t.slate.requests[k]? = some { r with retries := r.retries + 1 } ∧
    t.reg (ltReg 0x50) = BitVec.ofNat 64 (min (2 ^ 64 - 1) (s.regN (ltReg 0x50) + 1)) ∧ t.mem = s.mem := by
  simp only [exec_slateRetry, execSlateRetry, hk, htest, hservice, Bool.or_self, Bool.false_and, Bool.false_eq_true, if_false,
    Bool.not_false, if_true]
  refine ⟨_, rfl, ?_, s.reg_inc_same _, s.inc_mem _ _⟩
  rw [State.inc_slate]
  exact modAt_get _ _ _ _ hk

/-- R292, R297: a retry that succeeds completes the request, which leaves the held ones. -/
theorem execSlateRetry_completes (h : s.slateBehind k r = false) :
    ∃ t, exec (.slateRetry k true) s = .next t ∧ t.slate.requests = s.slate.requests.eraseIdx k := by
  simp only [exec_slateRetry, execSlateRetry, hk, htest, hservice, h, Bool.or_self, Bool.and_false, Bool.false_eq_true, if_false,
    Bool.not_true]
  refine ⟨_, rfl, ?_⟩
  split
  · exact State.memWrite_requests _ _ _ _
  · split
    · exact State.memRead_requests _ _ _ _
    · exact State.memRead_requests _ _ _ _

/-- R286, R292: one that stands behind another, or behind a migration of its page, is not completed yet. -/
theorem execSlateRetry_behind (h : s.slateBehind k r = true) : exec (.slateRetry k true) s = .next s := by
  simp only [exec_slateRetry, execSlateRetry, hk, htest, hservice, h, Bool.or_self, Bool.and_self, Bool.false_or, if_true]

end

/-- Settles O25: the cases of a stalled read are those of `State.slateFail`, and the held requests' commands act on one request. -/
theorem slateRequestsWaitAndFail : Obligations.SlateRequestsWaitAndFail := by
  unfold Obligations.SlateRequestsWaitAndFail
  intro s
  refine ⟨?_, fun k r hk => ⟨execSlateLate_marks s k r hk, execSlateTestTimeout_ends s k r hk, fun htest hservice =>
    ⟨execSlateRetry_fails s k r hk htest hservice, execSlateRetry_completes s k r hk htest hservice,
      execSlateRetry_behind s k r hk htest hservice⟩⟩⟩
  rintro q u rfl hs
  have hexec := execMemoryRead_stalls q s hs
  refine ⟨fun hmig => ?_, fun hmig hfate => ?_, fun hmig hfate => ⟨fun htest hservice hphase => ?_, fun hends => ?_⟩⟩
  · rw [State.slateFail_of_migrating _ _ _ _ hmig] at hexec
    refine ⟨_, hexec, by simp, by simp [State.now_inc_ltReg], ?_⟩
    rw [State.holdSlate_reg, State.reg_inc_same, State.regN, State.reg_suffer, State.regN]
  · rw [hexec, State.slateFail_of_not_failing _ _ _ _ hmig hfate]
    simp [State.holdSlate]
  · rw [State.slateFail_of_failing _ _ _ _ hmig hfate, if_neg (by simp [htest, hservice, hphase])] at hexec
    refine ⟨_, hexec, by simp [State.now_setBit_ltReg, State.now_inc_ltReg], by simp, ?_⟩
    rw [State.holdSlate_rfld, State.rfld_setBit_same _ _ _ (by decide)]
  · rw [State.slateFail_of_failing _ _ _ _ hmig hfate, if_pos (by simpa [or_assoc] using hends)] at hexec
    exact ⟨_, hexec, by simp, by simp, _, rfl⟩

end Sys2Proof.Machine
end

section
/-! SUPPORT. Reasoning rules for the ports in training (11_fabric_links.md R315 to R318, R320): the registers of the port blocks, what a
command on one port leaves of the others, the powers read, exclusion and the showing of a neighbour's IDENT. -/

namespace Sys2Proof.Machine

open Sys2Proof

/-! Registers of the port blocks. -/

@[simp] theorem portReg_inj (p a b : Nat) : portReg p a = portReg p b ↔ a = b := by unfold portReg; omega

theorem portReg_ne_fabStatus (p o : Nat) : portReg p o ≠ fabStatus := by unfold portReg fabStatus fabReg; omega

/-- An error event writes no register of a port. -/
theorem State.reg_raiseError_portReg (s : State) (e : ErrInfo) (p : PortId) (o : Nat) (ho : o < 0x100) :
    (s.raiseError e).reg (portReg p.val o) = s.reg (portReg p.val o) :=
  State.reg_raiseError _ _ _ (.inl (by unfold portReg; omega)) (by unfold portReg hlIntStatus; omega)

@[simp] theorem State.regN_updPort (s : State) (p : Nat) (f : Port → Port) (o : Nat) : (s.updPort p f).regN o = s.regN o := rfl

@[simp] theorem State.rfld_updPort (s : State) (p : Nat) (f : Port → Port) (o h l : Nat) : (s.updPort p f).rfld o h l = s.rfld o h l := rfl

theorem State.rfld_of_reg {s t : State} {o : Nat} (h : t.reg o = s.reg o) (hi lo : Nat) : t.rfld o hi lo = s.rfld o hi lo := by
  rw [State.rfld, State.rfld, h]

/-! The other ports. -/

/-- Every port but `p` is the same in `t` as in `s`. -/
def OtherPortsKept (p : Nat) (s t : State) : Prop := ∀ q, q ≠ p → t.port q = s.port q

theorem OtherPortsKept.trans {p : Nat} {s t u : State} (h : OtherPortsKept p s t) (k : OtherPortsKept p t u) : OtherPortsKept p s u :=
  fun q hq => (k q hq).trans (h q hq)

theorem OtherPortsKept.of_ports {p : Nat} {s t : State} (h : t.ports = s.ports) : OtherPortsKept p s t :=
  fun q _ => by rw [State.port, State.port, h]

theorem OtherPortsKept.updPort (s : State) (p : Nat) (f : Port → Port) : OtherPortsKept p s (s.updPort p f) :=
  fun q hq => by rw [State.port_updPort, if_neg hq]

theorem OtherPortsKept.foldl {α : Type} {p : Nat} (f : State → α → State) (l : List α) (s : State)
    (h : ∀ t a, OtherPortsKept p t (f t a)) : OtherPortsKept p s (l.foldl f s) :=
  fun q hq => State.foldl_proj (·.port q) f (fun t a => h t a q hq) l s

/-! Powers (R320). -/

theorem State.port_setPowers (s : State) (p : Nat) (l tx : List Int) (q : Nat) :
    (s.setPowers p l tx).port q = if q = p then { s.port p with power := l } else s.port q := by
  unfold State.setPowers
  dsimp only
  split <;> simp [State.port_updPort]

theorem OtherPortsKept.setPowers (s : State) (p : Nat) (l tx : List Int) : OtherPortsKept p s (s.setPowers p l tx) :=
  fun q hq => by rw [State.port_setPowers, if_neg hq]

/-- The powers read write FP_STATUS, FP_RX_POWER and FP_TX_POWER alone. -/
theorem State.reg_setPowers (s : State) (p : Nat) (l tx : List Int) (o : Nat) (h0 : o ≠ portReg p 0) (hrx : o ≠ portReg p 0x18)
    (htx : o ≠ portReg p 0x20) : (s.setPowers p l tx).reg o = s.reg o := by
  unfold State.setPowers
  dsimp only
  split <;> simp [State.reg_setReg, State.reg_setBit, h0, hrx, htx]

theorem State.reg_setPowers_rx (s : State) (p : Nat) (l tx : List Int) : (s.setPowers p l tx).reg (portReg p 0x18) = powerWord l := by
  unfold State.setPowers
  dsimp only
  split <;> simp [State.reg_setReg, State.reg_setBit]

theorem State.reg_setPowers_tx (s : State) (p : Nat) (l tx : List Int) : (s.setPowers p l tx).reg (portReg p 0x20) = powerWord tx := by
  unfold State.setPowers
  dsimp only
  split <;> simp [State.reg_setBit]

/-- R320: LOW_POWER is set where a lane is below the warning level, and stays where none is. -/
theorem State.lowPower_setPowers (s : State) (p : Nat) (l tx : List Int) : (s.setPowers p l tx).rfld (portReg p 0) 3 3 =
    if l.any (fun x => decide (x < warningLevel)) then 1 else s.rfld (portReg p 0) 3 3 := by
  unfold State.setPowers
  dsimp only
  split
  · exact State.rfld_setBit_same _ _ _ (by decide)
  · exact State.rfld_of_reg (by simp [State.reg_setReg]) 3 3

theorem warningLevel_any {l : List Int} (h : ∃ x ∈ l, x < warningLevel) : l.any (fun x => decide (x < warningLevel)) = true := by
  simpa using h

theorem warningLevel_not_any {l : List Int} (h : ∀ x ∈ l, warningLevel ≤ x) : l.any (fun x => decide (x < warningLevel)) = false := by
  simpa using h

/-! Exclusion (R318). -/

/-- What the exclusion of port `p` for `reason` makes of `s`: the port is in EXCLUDED and counted in FP_EXCLUSIONS, the others stay. -/
def ExcludedFrom (s : State) (p : Nat) (reason : Nat) (t : State) : Prop :=
  (t.port p).state = 8 ∧ (t.port p).reason = reason ∧
    t.reg (portReg p 0x50) = BitVec.ofNat 64 (min (2 ^ 64 - 1) (s.regN (portReg p 0x50) + 1)) ∧ OtherPortsKept p s t

/-- A port that is neither in UP nor in RETRAIN has nothing to lose as it goes down. -/
theorem State.takeDown_of_training (s : State) (p st reason : Nat) (hup : (s.port p).state ≠ 6) (hre : (s.port p).state ≠ 7) :
    s.takeDown p st reason = s.setPort p st reason := by
  simp [State.takeDown, hup, hre]

/-- R318: the exclusion of a port in training. -/
theorem State.excludedFrom_exclude (s : State) (p : PortId) (reason : Nat) (hup : (s.port p.val).state ≠ 6)
    (hre : (s.port p.val).state ≠ 7) : ExcludedFrom s p.val reason (s.exclude p.val reason) := by
  have hport := s.port_exclude p.val p.val reason
  rw [if_pos rfl, if_pos rfl] at hport
  refine ⟨hport.1, hport.2, ?_, ?_⟩ <;> unfold State.exclude <;>
    rw [s.takeDown_of_training p.val 8 reason hup hre, State.setPort] <;> dsimp only <;> split
  · rw [State.reg_inc_same, State.regN_updPort]
  · rw [State.reg_raiseError_portReg _ _ _ _ (by decide), State.reg_updPort, State.reg_inc_same, State.regN_updPort]
  · exact (OtherPortsKept.updPort s p.val _).trans (.of_ports (State.inc_ports _ _ _))
  · exact (((OtherPortsKept.updPort s p.val _).trans (.of_ports (State.inc_ports _ _ _))).trans (.updPort _ _ _)).trans
      (.of_ports (State.raiseError_ports _ _))

/-- The same after a command has noted what it read, with the ports' states, FP_EXCLUSIONS and the other ports as they were. -/
theorem ExcludedFrom.of_noted {s u : State} {p : PortId} {reason : Nat} (hup : (s.port p.val).state ≠ 6)
    (hre : (s.port p.val).state ≠ 7) (hstate : (u.port p.val).state = (s.port p.val).state)
    (hreg : u.reg (portReg p.val 0x50) = s.reg (portReg p.val 0x50)) (hothers : OtherPortsKept p.val s u) :
    ExcludedFrom s p.val reason (u.exclude p.val reason) := by
  obtain ⟨h8, hreason, hcount, hkept⟩ := u.excludedFrom_exclude p reason (hstate ▸ hup) (hstate ▸ hre)
  have hregN : u.regN (portReg p.val 0x50) = s.regN (portReg p.val 0x50) := by rw [State.regN, State.regN, hreg]
  rw [hregN] at hcount
  exact ⟨h8, hreason, hcount, hothers.trans hkept⟩

/-! IDENT (R316, R317). -/

/-- The neighbour of a valid IDENT, shown in the registers of the port. -/
def State.showIdent (s : State) (p : Nat) (i : Ident) : State :=
  if s.identReason i = 8 then s
  else ((s.setReg (portReg p 8) (BitVec.ofNat 64 i.serial)).setReg (portReg p 0x10) (BitVec.ofNat 64 i.delayNs)).setFld (portReg p 0) 39 36 i.port

@[simp] theorem State.showIdent_ports (s : State) (p : Nat) (i : Ident) : (s.showIdent p i).ports = s.ports := by
  unfold State.showIdent
  split
  · rfl
  · simp only [State.setFld_ports, State.setReg_ports]

@[simp] theorem State.port_showIdent (s : State) (p : Nat) (i : Ident) (q : Nat) : (s.showIdent p i).port q = s.port q := by
  rw [State.port, State.port, State.showIdent_ports]

theorem State.reg_showIdent_serial (s : State) (p : Nat) (i : Ident) (h : s.identReason i = 0) :
    (s.showIdent p i).reg (portReg p 8) = BitVec.ofNat 64 i.serial := by
  simp [State.showIdent, h, State.reg_setFld, State.reg_setReg]

theorem State.reg_showIdent_exclusions (s : State) (p : Nat) (i : Ident) :
    (s.showIdent p i).reg (portReg p 0x50) = s.reg (portReg p 0x50) := by
  unfold State.showIdent
  split
  · rfl
  · simp [State.reg_setFld, State.reg_setReg]

/-- The state after an IDENT that passed its checks. -/
def State.noteIdent (s : State) (p : Nat) (i : Ident) : State :=
  (s.showIdent p i).updPort p (fun t => { t with identValid := true })

theorem State.port_noteIdent (s : State) (p : Nat) (i : Ident) : (s.noteIdent p i).port p = { s.port p with identValid := true } := by
  rw [State.noteIdent, State.port_updPort_same, State.port_showIdent]

theorem OtherPortsKept.noteIdent (s : State) (p : Nat) (i : Ident) : OtherPortsKept p s (s.noteIdent p i) :=
  (OtherPortsKept.of_ports (s.showIdent_ports p i)).trans (.updPort _ _ _)

/-- R316: an IDENT that fails a check excludes its port for that check. -/
theorem execIdentFlit_fails (p : PortId) (i : Ident) (s : State) (h : s.inTraining p.val 4 = true) (hr : s.identReason i ≠ 0) :
    execIdentFlit p i s = .next ((s.showIdent p.val i).exclude p.val (s.identReason i)) := by
  simp [execIdentFlit, State.showIdent, h, hr]

/-- R316: one that passes is noted, and where it has RX_OK and acknowledges the own IDENT the port goes on. -/
theorem execIdentFlit_passes (p : PortId) (i : Ident) (s : State) (h : s.inTraining p.val 4 = true) (hr : s.identReason i = 0) :
    execIdentFlit p i s = .next (if !(i.rxOk && i.acked) then s.noteIdent p.val i
      else if (s.port p.val).state = 7 then (s.noteIdent p.val i).enterUp p.val else (s.noteIdent p.val i).setPort p.val 5 0) := by
  have hstate : ((s.noteIdent p.val i).port p.val).state = (s.port p.val).state := by rw [State.port_noteIdent]
  rw [← hstate]
  simp only [execIdentFlit, State.noteIdent, State.showIdent, h, hr, Bool.not_true, Bool.false_eq_true, if_false, ne_eq, not_true_eq_false]

/-! The training commands. -/

theorem exec_lightCheck (p : PortId) (w : LanePowers) (r : List Int) (s : State) : exec (.lightCheck p w r) s = execLightCheck p w r s := rfl
theorem exec_lightPartialTimeout (p : PortId) (s : State) : exec (.lightPartialTimeout p) s = execLightPartialTimeout p s := rfl
theorem exec_lockComplete (p : PortId) (k : LaneLock) (s : State) : exec (.lockComplete p k) s = execLockComplete p k s := rfl
theorem exec_lockTimeout (p : PortId) (s : State) : exec (.lockTimeout p) s = execLockTimeout p s := rfl
theorem exec_alignComplete (p : PortId) (l : List (Codeword × Nat)) (s : State) : exec (.alignComplete p l) s = execAlignComplete p l s := rfl
theorem exec_alignTimeout (p : PortId) (s : State) : exec (.alignTimeout p) s = execAlignTimeout p s := rfl
theorem exec_identSend (p : PortId) (s : State) : exec (.identSend p) s = execIdentSend p s := rfl
theorem exec_identFlit (p : PortId) (i : Ident) (s : State) : exec (.identFlit p i) s = execIdentFlit p i s := rfl
theorem exec_identTimeout (p : PortId) (s : State) : exec (.identTimeout p) s = execIdentTimeout p s := rfl
theorem exec_qualifyEnd (p : PortId) (n : Nat) (l : List Word) (s : State) : exec (.qualifyEnd p n l) s = execQualifyEnd p n l s := rfl
theorem exec_excludedRetry (p : PortId) (s : State) : exec (.excludedRetry p) s = execExcludedRetry p s := rfl
theorem exec_retrainTimeout (p : PortId) (s : State) : exec (.retrainTimeout p) s = execRetrainTimeout p s := rfl

theorem State.inTraining_of_state (s : State) (p st : Nat) (h : (s.port p).state = st) : s.inTraining p st = true := by
  simp [State.inTraining, h]

theorem State.inTraining_of_either (s : State) (p st : Nat) (h : (s.port p).state = st ∨ (s.port p).state = 7 ∧ (s.port p).sub = st) :
    s.inTraining p st = true := by
  simpa [State.inTraining] using h

theorem State.port_train (s : State) (p st : Nat) : (s.train p st).port p =
    if (s.port p).state = 7 then { s.port p with sub := st } else { s.port p with state := st, reason := 0 } :=
  State.port_updPort_same _ _ _

theorem OtherPortsKept.train (s : State) (p st : Nat) : OtherPortsKept p s (s.train p st) := .updPort _ _ _

theorem OtherPortsKept.setPort (s : State) (p st reason : Nat) : OtherPortsKept p s (s.setPort p st reason) := .updPort _ _ _

@[simp] theorem State.reg_setPort (s : State) (p st reason o : Nat) : (s.setPort p st reason).reg o = s.reg o := rfl

@[simp] theorem State.port_setPort_same (s : State) (p st reason : Nat) :
    (s.setPort p st reason).port p = { s.port p with state := st, reason := reason, sub := 0 } := State.port_updPort_same _ _ _

end Sys2Proof.Machine
end

section
/-! A training step that fails or runs out of time (11_fabric_links.md R314 to R316, R318): each command excludes its port, and the
timers of EXCLUDED and RETRAIN start it again. O17. -/

namespace Sys2Proof.Machine

open Sys2Proof

section
variable (p : PortId) (s : State)

theorem exec_lightPartialTimeout_excludes (h : (s.port p.val).state = 1) (hlo : 1 ≤ litLanes (s.port p.val).power)
    (hhi : litLanes (s.port p.val).power ≤ 3) : exec (.lightPartialTimeout p) s = .next (s.exclude p.val 5) := by
  simp [exec_lightPartialTimeout, execLightPartialTimeout, h, hlo, hhi]

theorem exec_lockTimeout_excludes (h : (s.port p.val).state = 2) : exec (.lockTimeout p) s =
    .next (s.exclude p.val (if (s.port p.val).power.any (fun x => decide (x < sensitivityLevel)) then 4 else 5)) := by
  simp [exec_lockTimeout, execLockTimeout, h]

theorem exec_alignTimeout_excludes (h : (s.port p.val).state = 3) : exec (.alignTimeout p) s = .next (s.exclude p.val 8) := by
  simp [exec_alignTimeout, execAlignTimeout, h]

theorem exec_identTimeout_excludes (h : (s.port p.val).state = 4) :
    exec (.identTimeout p) s = .next (s.exclude p.val (if (s.port p.val).identValid then 13 else 8)) := by
  simp [exec_identTimeout, execIdentTimeout, h]

theorem exec_lightCheck_excludes (l r tx : List Int) (h : (s.port p.val).state = 1) (hr : ∃ x ∈ r, reverseLevel ≤ x) :
    exec (.lightCheck p ⟨l, tx⟩ r) s = .next ((s.setPowers p.val l tx).exclude p.val 3) := by
  have hany : r.any (fun x => decide (reverseLevel ≤ x)) = true := by simpa using hr
  simp [exec_lightCheck, execLightCheck, h, hany]

theorem exec_qualifyEnd_excludes (n : Nat) (l : List Word) (h : (s.port p.val).state = 5) (hn : s.modCfg 0x8702 100 < n) :
    exec (.qualifyEnd p n l) s = .next (s.exclude p.val 6) := by
  rw [exec_qualifyEnd, execQualifyEnd, if_neg (fun hne => hne h), if_neg (Nat.not_le.2 hn)]

theorem exec_excludedRetry_starts (h : (s.port p.val).state = 8) :
    exec (.excludedRetry p) s = .next (s.setPort p.val 1 (s.port p.val).reason) := by
  simp [exec_excludedRetry, execExcludedRetry, h]

theorem exec_retrainTimeout_starts (h : (s.port p.val).state = 7) :
    exec (.retrainTimeout p) s = .next (s.takeDown p.val 1 12) := by
  simp [exec_retrainTimeout, execRetrainTimeout, h]

end

/-! What a port out of RETRAIN has lost (R314). -/

/-- R484: the record of a lost message is no matter of the ports. -/
theorem State.messageLost_ports (s : State) (p : Nat) (m : Message) : (s.messageLost p m).ports = s.ports := by
  unfold State.messageLost
  split
  · exact State.raiseError_ports _ _
  · exact State.ports_serviceError _ _ _ _ _ _ _ _ _ _

theorem State.port_dropPort (s : State) (p q : Nat) :
    (s.dropPort p).port q = if q = p then { s.port p with retry := [], partials := [], wait := [] } else s.port q := by
  unfold State.dropPort
  extract_lets _ lost u
  have hfold : (lost.foldl (fun s m => State.messageLost (State.inc s (portReg p 0x58) 1) p m) u).ports = u.ports :=
    State.foldl_proj (·.ports) _ (fun t m => (State.messageLost_ports _ p m).trans (State.inc_ports _ _ _)) lost u
  rw [State.port, hfold]
  exact State.port_updPort _ _ _ _

theorem State.port_takeDown_of_retrain (s : State) (p st reason q : Nat) (h : (s.port p).state = 7) :
    (s.takeDown p st reason).port q = if q = p then
      { s.port p with state := st, reason := reason, sub := 0, retry := [], partials := [], wait := [] } else s.port q := by
  have htake : s.takeDown p st reason = (s.setPort p st reason).dropPort p := by simp [State.takeDown, h]
  rw [htake, State.port_dropPort, State.port_setPort_same]
  split
  · rfl
  · rename_i hq; exact OtherPortsKept.setPort s p st reason q hq

/-- Settles O17: every failing command is one exclusion, of a port that is neither in UP nor in RETRAIN. -/
theorem portTimeoutsExclude : Obligations.PortTimeoutsExclude := by
  unfold Obligations.PortTimeoutsExclude
  intro p s c reason
  refine ⟨?_, fun h8 => ⟨_, exec_excludedRetry_starts p s h8, by simp, by simp, OtherPortsKept.setPort _ _ _ _⟩, fun h7 => ?_⟩
  · have hplain : ∀ st r, (s.port p.val).state = st → st ≠ 6 → st ≠ 7 → ExcludedFrom s p.val r (s.exclude p.val r) :=
      fun st r h hup hre => s.excludedFrom_exclude p r (h ▸ hup) (h ▸ hre)
    rintro (⟨rfl, h, hlo, hhi, rfl⟩ | ⟨rfl, h, rfl⟩ | ⟨rfl, h, rfl⟩ | ⟨rfl, h, rfl⟩ | ⟨l, r, tx, rfl, h, hr, rfl⟩ |
      ⟨i, rfl, h, hr, rfl⟩ | ⟨n, l, rfl, h, hn, rfl⟩)
    · exact ⟨_, exec_lightPartialTimeout_excludes p s h hlo hhi, hplain 1 5 h (by decide) (by decide)⟩
    · exact ⟨_, exec_lockTimeout_excludes p s h, hplain 2 _ h (by decide) (by decide)⟩
    · exact ⟨_, exec_alignTimeout_excludes p s h, hplain 3 8 h (by decide) (by decide)⟩
    · exact ⟨_, exec_identTimeout_excludes p s h, hplain 4 _ h (by decide) (by decide)⟩
    · refine ⟨_, exec_lightCheck_excludes p s l r tx h hr, ExcludedFrom.of_noted (by omega) (by omega) ?_ ?_ (.setPowers _ _ _ _)⟩
      · rw [State.port_setPowers, if_pos rfl]
      · exact State.reg_setPowers _ _ _ _ _ (by simp) (by simp) (by simp)
    · exact ⟨_, execIdentFlit_fails p i s (s.inTraining_of_state _ _ h) hr, ExcludedFrom.of_noted (by omega) (by omega)
        (by rw [State.port_showIdent]) (s.reg_showIdent_exclusions _ _) (.of_ports (s.showIdent_ports _ _))⟩
    · exact ⟨_, exec_qualifyEnd_excludes p s n l h hn, hplain 5 6 h (by decide) (by decide)⟩
  · have hport := fun q => s.port_takeDown_of_retrain p.val 1 12 q h7
    refine ⟨_, exec_retrainTimeout_starts p s h7, ?_, ?_, ?_, ?_, fun q hq => by rw [hport, if_neg hq]⟩ <;> rw [hport, if_pos rfl]

end Sys2Proof.Machine
end

section
/-! Training up to QUALIFY (11_fabric_links.md R307, R308, R315 to R317). O16. -/

namespace Sys2Proof.Machine

open Sys2Proof

/-! LIGHT and LOCK (R315). -/

theorem exec_lightCheck_of_no_reverse (p : PortId) (s : State) (l r tx : List Int) (h : (s.port p.val).state = 1)
    (hr : ∀ x ∈ r, x < reverseLevel) : exec (.lightCheck p ⟨l, tx⟩ r) s =
      .next (if litLanes l = 4 then (s.setPowers p.val l tx).train p.val 2
        else if litLanes l = 0 then (s.setPowers p.val l tx).updPort p.val (fun t => { t with reason := 2 })
        else s.setPowers p.val l tx) := by
  have hany : r.any (fun x => decide (reverseLevel ≤ x)) = false := by simpa using hr
  simp [exec_lightCheck, execLightCheck, h, hany]

/-- The state once the lanes of a port have locked. -/
def State.noteLock (s : State) (p n : Nat) (cal : List Word) : State :=
  (s.setFld (portReg p 0) 23 20 n).updPort p (fun t => { t with calib := cal })

theorem exec_lockComplete_trains (p : PortId) (s : State) (n : Nat) (cal : List Word)
    (h : (s.port p.val).state = 2 ∨ (s.port p.val).state = 7 ∧ (s.port p.val).sub = 2) :
    exec (.lockComplete p ⟨n, cal⟩) s = .next ((s.noteLock p.val n cal).train p.val 3) := by
  simp [exec_lockComplete, execLockComplete, s.inTraining_of_either _ _ h, State.noteLock]

theorem State.port_noteLock (s : State) (p n : Nat) (cal : List Word) : (s.noteLock p n cal).port p = { s.port p with calib := cal } := by
  rw [State.noteLock, State.port_updPort_same, State.port_setFld]

theorem State.polarity_noteLock (s : State) (p n : Nat) (cal : List Word) : (s.noteLock p n cal).rfld (portReg p 0) 23 20 = n % 16 := by
  have hset := State.rfld_setFld_same s (portReg p 0) 23 20 n (by decide) (by decide)
  rw [State.noteLock, State.rfld_updPort]
  simpa only [Nat.reduceAdd, Nat.reduceSub, Nat.reducePow] using hset

theorem OtherPortsKept.noteLock (s : State) (p n : Nat) (cal : List Word) : OtherPortsKept p s (s.noteLock p n cal) :=
  (OtherPortsKept.of_ports (State.setFld_ports _ _ _ _ _)).trans (.updPort _ _ _)

/-! ALIGN (R308). -/

theorem lanes_lt {a b c d : Nat} (h : [a, b, c, d].Perm [0, 1, 2, 3]) : a < 4 ∧ b < 4 ∧ c < 4 ∧ d < 4 := by
  have hlt : ∀ x ∈ [a, b, c, d], x < 4 := fun x hx => by
    have hmem := h.mem_iff.1 hx
    simp only [List.mem_cons, List.not_mem_nil, or_false] at hmem
    omega
  exact ⟨hlt a (by simp), hlt b (by simp), hlt c (by simp), hlt d (by simp)⟩

/-- The lanes of four marks that `read` finds, each with the slot of its arrival and the sequence that it carries. -/
theorem filterMap_marks (read : Nat → Codeword → Option (Nat × Nat × Nat)) {a b c d : Nat} {m n o k : Codeword × Nat}
    {f g h i : Nat × Nat} (hm : read 0 m.1 = some (a, f)) (hn : read 1 n.1 = some (b, g)) (ho : read 2 o.1 = some (c, h))
    (hk : read 3 k.1 = some (d, i)) :
    ([m, n, o, k].zip (List.range 4)).filterMap (fun x => (read x.2 x.1.1).map (fun a => (a.1, x.1.2, a.2.2))) =
      [(a, m.2, f.2), (b, n.2, g.2), (c, o.2, h.2), (d, k.2, i.2)] := by
  have hzip : [m, n, o, k].zip (List.range 4) = [(m, 0), (n, 1), (o, 2), (k, 3)] := rfl
  simp only [hzip, List.filterMap_cons, hm, hn, ho, hk, Option.map_some, List.filterMap_nil]

theorem lanes_all_of_perm {l : List Nat} (h : l.Perm [0, 1, 2, 3]) : (List.range 4).all (fun x => l.contains x) = true := by
  rw [List.all_eq_true]
  intro x hx
  have hlt : x < 4 := List.mem_range.1 hx
  rw [List.contains_iff_mem, h.mem_iff]
  simp only [List.mem_cons, List.not_mem_nil, or_false]
  omega

theorem State.alignedLanes_of_marks (s : State) (p : Nat) {a b c d : Nat} {m n o k : Codeword × Nat} {f g h i : Nat × Nat}
    (hperm : [a, b, c, d].Perm [0, 1, 2, 3]) (hm : readAlign (s.laneWord p 0 m.1) = some (a, f))
    (hn : readAlign (s.laneWord p 1 n.1) = some (b, g)) (ho : readAlign (s.laneWord p 2 o.1) = some (c, h))
    (hk : readAlign (s.laneWord p 3 k.1) = some (d, i)) (hskew : deskews [(m.2, f.2), (n.2, g.2), (o.2, h.2), (k.2, i.2)] = true) :
    s.alignedLanes p [m, n, o, k] = some [a, b, c, d] := by
  have hgot := filterMap_marks (fun l w => readAlign (s.laneWord p l w)) hm hn ho hk
  unfold State.alignedLanes
  rw [hgot]
  simp only [List.map_cons, List.map_nil, List.length_cons, List.length_nil, lanes_all_of_perm hperm, hskew, decide_true, Bool.and_self,
    if_true]

/-- The LANE_MAP field of four far lane numbers. -/
def laneMap (l : List Nat) : Nat := (l.zip (List.range 4)).foldl (fun a x => a + x.1 % 4 * 2 ^ (2 * x.2)) 0

theorem laneMap_of_lt {a b c d : Nat} (h : a < 4 ∧ b < 4 ∧ c < 4 ∧ d < 4) :
    laneMap [a, b, c, d] = a + 4 * b + 16 * c + 64 * d := by
  have hfold : laneMap [a, b, c, d] = 0 + a % 4 * 1 + b % 4 * 4 + c % 4 * 16 + d % 4 * 64 := rfl
  omega

/-- The state once the lanes of a port are aligned. -/
def State.noteAlign (s : State) (p : Nat) (l : List Nat) : State :=
  (s.setFld (portReg p 0) 31 24 (laneMap l)).updPort p (fun t => { t with identValid := false })

theorem exec_alignComplete_trains (p : PortId) (s : State) (marks : List (Codeword × Nat)) (l : List Nat)
    (h : (s.port p.val).state = 3 ∨ (s.port p.val).state = 7 ∧ (s.port p.val).sub = 3) (hl : s.alignedLanes p.val marks = some l) :
    exec (.alignComplete p marks) s = .next ((s.noteAlign p.val l).train p.val 4) := by
  simp only [exec_alignComplete, execAlignComplete, s.inTraining_of_either _ _ h, if_true, hl, State.noteAlign, laneMap]

theorem State.port_noteAlign (s : State) (p : Nat) (l : List Nat) : (s.noteAlign p l).port p = { s.port p with identValid := false } := by
  rw [State.noteAlign, State.port_updPort_same, State.port_setFld]

theorem State.laneMap_noteAlign (s : State) (p : Nat) (l : List Nat) : (s.noteAlign p l).rfld (portReg p 0) 31 24 = laneMap l % 256 := by
  have hset := State.rfld_setFld_same s (portReg p 0) 31 24 (laneMap l) (by decide) (by decide)
  rw [State.noteAlign, State.rfld_updPort]
  simpa only [Nat.reduceAdd, Nat.reduceSub, Nat.reducePow] using hset

theorem OtherPortsKept.noteAlign (s : State) (p : Nat) (l : List Nat) : OtherPortsKept p s (s.noteAlign p l) :=
  (OtherPortsKept.of_ports (State.setFld_ports _ _ _ _ _)).trans (.updPort _ _ _)

/-! Where a step of training leads, from the state of its own or inside RETRAIN. -/

/-- R315: a port trained on to `st` is in it, one in RETRAIN runs it inside RETRAIN. -/
theorem State.port_train_states (s : State) (p st : Nat) :
    ((s.port p).state ≠ 7 → ((s.train p st).port p).state = st) ∧
    ((s.port p).state = 7 → ((s.train p st).port p).state = 7 ∧ ((s.train p st).port p).sub = st) := by
  rw [State.port_train]
  refine ⟨fun h => by rw [if_neg h], fun h => by rw [if_pos h]; exact ⟨h, rfl⟩⟩

@[simp] theorem State.rfld_train (s : State) (p st o h l : Nat) : (s.train p st).rfld o h l = s.rfld o h l := rfl

theorem State.calib_train (s : State) (p st : Nat) : ((s.train p st).port p).calib = (s.port p).calib := by
  rw [State.port_train]; split <;> rfl

theorem State.power_train (s : State) (p st : Nat) : ((s.train p st).port p).power = (s.port p).power := by
  rw [State.port_train]; split <;> rfl

theorem State.identValid_train (s : State) (p st : Nat) : ((s.train p st).port p).identValid = (s.port p).identValid := by
  rw [State.port_train]; split <;> rfl

/-- Settles O16: each command notes what it found and trains its port on. -/
theorem portTrainsToQualify : Obligations.PortTrainsToQualify := by
  unfold Obligations.PortTrainsToQualify
  intro p s
  refine ⟨fun l r tx h1 hr hlit => ?_, fun l r tx h1 hr hlit => ?_, fun n cal h => ?_,
    fun a b c d m n o k f g h i hperm hm hn ho hk hskew hst => ?_, fun h => ?_, fun i h4 hr => ?_⟩
  · have hpow : (s.setPowers p.val l tx).port p.val = { s.port p.val with power := l } := by rw [State.port_setPowers, if_pos rfl]
    refine ⟨(s.setPowers p.val l tx).train p.val 2, by rw [exec_lightCheck_of_no_reverse p s l r tx h1 hr, if_pos hlit], ?_, ?_,
      (OtherPortsKept.setPowers s p.val l tx).trans (.train _ _ _)⟩
    · exact (State.port_train_states _ _ _).1 (by rw [hpow]; dsimp only; omega)
    · rw [State.power_train, hpow]
  · have hpow : (s.setPowers p.val l tx).port p.val = { s.port p.val with power := l } := by rw [State.port_setPowers, if_pos rfl]
    refine ⟨(s.setPowers p.val l tx).updPort p.val (fun t => { t with reason := 2 }), ?_, ?_, ?_, ?_,
      (OtherPortsKept.setPowers s p.val l tx).trans (.updPort _ _ _)⟩
    · rw [exec_lightCheck_of_no_reverse p s l r tx h1 hr, if_neg (by omega), if_pos hlit]
    all_goals rw [State.port_updPort_same, hpow]
    exact h1
  · have hnote := s.port_noteLock p.val n cal
    have hstates := (s.noteLock p.val n cal).port_train_states p.val 3
    rw [show ((s.noteLock p.val n cal).port p.val).state = (s.port p.val).state by rw [hnote]] at hstates
    refine ⟨_, exec_lockComplete_trains p s n cal h, fun h2 => hstates.1 (by omega), hstates.2, ?_, ?_,
      (OtherPortsKept.noteLock s p.val n cal).trans (.train _ _ _)⟩
    · rw [State.rfld_train, State.polarity_noteLock]
    · rw [State.calib_train, hnote]
  · have hnote := s.port_noteAlign p.val [a, b, c, d]
    have hstates := (s.noteAlign p.val [a, b, c, d]).port_train_states p.val 4
    rw [show ((s.noteAlign p.val [a, b, c, d]).port p.val).state = (s.port p.val).state by rw [hnote]] at hstates
    refine ⟨_, exec_alignComplete_trains p s _ _ hst (s.alignedLanes_of_marks p.val hperm hm hn ho hk hskew),
      fun h3 => hstates.1 (by omega), hstates.2, ?_, ?_, (OtherPortsKept.noteAlign s p.val _).trans (.train _ _ _)⟩
    · rw [State.identValid_train, hnote]
    · have hlt := lanes_lt hperm
      have hmap := laneMap_of_lt hlt
      rw [State.rfld_train, State.laneMap_noteAlign, hmap]
      omega
  · simp [exec_identSend, execIdentSend, s.inTraining_of_either _ _ h, identMagic]
  · have hnote := s.port_noteIdent p.val i
    have hserial : (s.noteIdent p.val i).reg (portReg p.val 8) = BitVec.ofNat 64 i.serial := by
      rw [State.noteIdent, State.reg_updPort, s.reg_showIdent_serial p.val i hr]
    refine ⟨if i.rxOk && i.acked then (s.noteIdent p.val i).setPort p.val 5 0 else s.noteIdent p.val i, ?_, ?_⟩
    · rw [exec_identFlit, execIdentFlit_passes p i s (s.inTraining_of_state _ _ h4) hr, h4]
      cases i.rxOk && i.acked <;> simp
    · cases i.rxOk && i.acked
      · exact ⟨by simp [hnote, h4], by simp [hnote], hserial, OtherPortsKept.noteIdent _ _ _⟩
      · exact ⟨by simp, by simp [hnote], by simp [hserial], (OtherPortsKept.noteIdent s p.val i).trans (.setPort _ _ _ _)⟩

end Sys2Proof.Machine
end

section
/-! SUPPORT. Reasoning rules for the link layer (11_fabric_links.md R309 to R313, R343): `LinkOnly` is what sending and the taking of a
header may change, and `Port.rx` the part of a port that decides which flit it accepts next, which neither changes. -/

namespace Sys2Proof.Machine

open Sys2Proof

/-! What sending changes of the state. -/

/-- `t` is `s` but for its ports and what went out. -/
def LinkOnly (s t : State) : Prop := t = { s with ports := t.ports, out := t.out }

theorem LinkOnly.refl (s : State) : LinkOnly s s := rfl

theorem LinkOnly.trans {s t u : State} (h : LinkOnly s t) (k : LinkOnly t u) : LinkOnly s u := by
  unfold LinkOnly at *
  rw [k, h]

theorem LinkOnly.updPort (s : State) (p : Nat) (f : Port → Port) : LinkOnly s (s.updPort p f) := rfl

theorem LinkOnly.emit (s : State) (e : OutEvent) : LinkOnly s (s.emit e) := rfl

theorem LinkOnly.ite {s a b : State} {c : Prop} [Decidable c] (ha : LinkOnly s a) (hb : LinkOnly s b) :
    LinkOnly s (if c then a else b) := by split <;> assumption

theorem LinkOnly.foldl {α : Type} (f : State → α → State) (l : List α) (s : State) (h : ∀ t a, LinkOnly t (f t a)) :
    LinkOnly s (l.foldl f s) := by
  induction l generalizing s with
  | nil => exact .refl _
  | cons a l ih => exact (h s a).trans (ih _)

theorem LinkOnly.regs {s t : State} (h : LinkOnly s t) : t.regs = s.regs := by unfold LinkOnly at h; rw [h]
theorem LinkOnly.inbox {s t : State} (h : LinkOnly s t) : t.inbox = s.inbox := by unfold LinkOnly at h; rw [h]
theorem LinkOnly.router {s t : State} (h : LinkOnly s t) : t.router = s.router := by unfold LinkOnly at h; rw [h]
theorem LinkOnly.fabric {s t : State} (h : LinkOnly s t) : t.fabric = s.fabric := by unfold LinkOnly at h; rw [h]
theorem LinkOnly.lasers {s t : State} (h : LinkOnly s t) : t.lasers = s.lasers := by unfold LinkOnly at h; rw [h]

theorem LinkOnly.reg {s t : State} (h : LinkOnly s t) (o : Nat) : t.reg o = s.reg o := by rw [State.reg, State.reg, h.regs]

theorem LinkOnly.sendFlit (s : State) (p : Nat) (f : Flit) : LinkOnly s (s.sendFlit p f) := (LinkOnly.updPort _ _ _).trans (.emit _ _)

theorem LinkOnly.txFlit (s : State) (p type vl : Nat) (payload : List Byte) : LinkOnly s (s.txFlit p type vl payload) :=
  (LinkOnly.updPort _ _ _).trans (.sendFlit _ _ _)

theorem LinkOnly.txControl (s : State) (p : Nat) (payload : List Byte) : LinkOnly s (s.txControl p payload) :=
  .ite (.txFlit _ _ _ _ _) (.refl _)

theorem LinkOnly.txIdle (s : State) (p : Nat) : LinkOnly s (s.txIdle p) := (LinkOnly.updPort _ _ _).trans (.sendFlit _ _ _)

theorem LinkOnly.txAck (s : State) (p : Nat) : LinkOnly s (s.txAck p) := .ite (.txFlit _ _ _ _ _) (.txIdle _ _)

theorem LinkOnly.txMessage (s : State) (p vl : Nat) (m : Message) : LinkOnly s (s.txMessage p vl m) :=
  (LinkOnly.updPort _ _ _).trans (.foldl _ _ _ (fun _ _ => .txFlit _ _ _ _ _))

theorem LinkOnly.flushWait (n : Nat) (s : State) (p : Nat) : LinkOnly s (s.flushWait n p) := by
  induction n generalizing s with
  | zero => exact .refl _
  | succ n ih =>
    unfold State.flushWait
    split
    · exact .refl _
    · exact .ite (((LinkOnly.updPort _ _ _).trans (.txMessage _ _ _ _)).trans (ih _)) (.refl _)

theorem LinkOnly.flushPort (s : State) (p : Nat) : LinkOnly s (s.flushPort p) := .flushWait _ _ _

theorem LinkOnly.sendBeacon (s : State) (b : BeaconEntry) (p : Nat) : LinkOnly s (s.sendBeacon b p) :=
  (LinkOnly.updPort _ _ _).trans (.flushPort _ _)

theorem LinkOnly.resend (s : State) (p : Nat) : LinkOnly s (s.resend p) := .foldl _ _ _ (fun _ _ => .sendFlit _ _ _)

theorem LinkOnly.takeAck (s : State) (p a : Nat) : LinkOnly s (s.takeAck p a) :=
  .ite ((LinkOnly.updPort _ _ _).trans (.resend _ _)) (.updPort _ _ _)

theorem LinkOnly.takeCredit (s : State) (p : Nat) (f : Flit) : LinkOnly s (s.takeCredit p f) := .updPort _ _ _

/-! What sending leaves of the ports. -/

theorem PortsFixed.txIdle (s : State) (p : Nat) : PortsFixed s (s.txIdle p) :=
  (PortsFixed.updPort s p _ (by intro t; rfl)).trans (.sendFlit _ _ _)

theorem PortsFixed.txAck (s : State) (p : Nat) : PortsFixed s (s.txAck p) := .ite (.txFlit _ _ _ _ _) (.txIdle _ _)

theorem PortsFixed.resend (s : State) (p : Nat) : PortsFixed s (s.resend p) := .foldl _ _ _ (fun _ _ => .sendFlit _ _ _)

/-! What a port accepts next (R310). -/

/-- The state of a port, the sequence it expects and whether a NAK is out. -/
def Port.rx (t : Port) : Nat × Nat × Bool := (t.state, t.rxSeq, t.nakSent)

/-- A port with the given state, expected sequence and NAK. -/
theorem Port.rx_eq {t : Port} {st seq : Nat} {nak : Bool} (h : t.rx = (st, seq, nak)) :
    t.state = st ∧ t.rxSeq = seq ∧ t.nakSent = nak := by simpa [Port.rx] using h

theorem PortsFixed.rx {s t : State} (h : PortsFixed s t) (p : Nat) : (t.port p).rx = (s.port p).rx := by
  obtain ⟨hstate, -, -, -, -, hseq, hnak, -⟩ := Port.kept_fields (h.kept p)
  rw [Port.rx, Port.rx, hstate, hseq, hnak]

/-- R311: an ACK releases flits of the retry buffer and ends their resends, or releases none. -/
theorem Port.acked_cases (t : Port) (a : Nat) : t.acked a = t ∨ ∃ n, t.acked a = { t with retry := t.retry.drop n, resends := 0 } := by
  unfold Port.acked
  extract_lets k
  clear_value k
  split
  · exact .inl rfl
  · exact .inr ⟨k, rfl⟩

theorem Port.rx_acked (t : Port) (a : Nat) : (t.acked a).rx = t.rx := by
  obtain h | ⟨n, h⟩ := t.acked_cases a <;> rw [h]
  rfl

theorem Port.rx_resync (t : Port) (b : Bool) : { t with resync := b }.rx = t.rx := rfl

theorem State.rx_updPort (s : State) (p : Nat) (f : Port → Port) (h : ∀ t, (f t).rx = t.rx) : ((s.updPort p f).port p).rx = (s.port p).rx := by
  rw [State.port_updPort_same]
  exact h _

/-- R311, R313: an ACK changes nothing of what a port accepts. -/
theorem State.rx_takeAck (s : State) (p a : Nat) : ((s.takeAck p a).port p).rx = (s.port p).rx := by
  have hack := s.rx_updPort p (fun t => { t.acked a with resync := false }) (fun t => by rw [Port.rx_resync, t.rx_acked])
  unfold State.takeAck
  dsimp only
  split
  · rw [(PortsFixed.resend _ p).rx, hack]
  · exact hack

theorem State.rx_takeCredit (s : State) (p : Nat) (f : Flit) : ((s.takeCredit p f).port p).rx = (s.port p).rx :=
  s.rx_updPort p _ (fun _ => rfl)

end Sys2Proof.Machine
end

section
/-! A port comes UP (11_fabric_links.md R313, R315, R317): anew from QUALIFY, or out of RETRAIN with its own sequence numbers. O18. -/

namespace Sys2Proof.Machine

open Sys2Proof

theorem PortsFixed.journalCalib (s : State) (p : Nat) : PortsFixed s (s.journalCalib p) := by
  unfold State.journalCalib
  exact .ite (.refl _) (.foldl _ _ _ (fun _ _ => .jqueue _ _))

theorem PortsFixed.journalNeighbour (s : State) (p : Nat) : PortsFixed s (s.journalNeighbour p) := by
  unfold State.journalNeighbour
  dsimp only
  split
  · exact .jqueue _ _
  · exact .ite (.refl _) (.ite (.jqueue _ _) ((PortsFixed.jqueue _ _).trans (.raiseError _ _)))

/-- A port that comes back to UP out of RETRAIN. -/
def Port.backUp (t : Port) : Port := { t with state := 6, sub := 0, reason := 0, resync := true, loggedReason := 0 }

/-- A port that reaches UP anew. -/
def Port.newUp (t : Port) : Port :=
  { t with state := 6, sub := 0, reason := 0, resync := false, loggedReason := 0, txSeq := 0, rxSeq := 0, retry := [], nakSent := false,
           resends := 0, ackSince := 0, credits := [1536, 256, 1536, 256], freed := [0, 0, 0, 0], partials := [], wait := [] }

/-- R319, R322: what follows as a port reaches UP leaves of every port the part that sending leaves. -/
theorem PortsFixed.enterUp (s : State) (p : Nat) :
    PortsFixed (s.updPort p (fun t => if (s.port p).state = 7 then t.backUp else t.newUp)) (s.enterUp p) := by
  unfold State.enterUp
  simp only [decide_eq_true_eq]
  exact (((PortsFixed.journalCalib _ p).trans (.journalNeighbour _ p)).trans (.foldl _ _ _ (fun _ _ => .sendBeacon _ _ _))).trans
    (.linksChanged _)

theorem State.enterUp_of_qualify (s : State) (p : Nat) (h : (s.port p).state ≠ 7) :
    ((s.enterUp p).port p).kept = (s.port p).newUp.kept := by
  rw [(PortsFixed.enterUp s p).kept, State.port_updPort_same, if_neg h]

theorem State.enterUp_of_retrain (s : State) (p : Nat) (h : (s.port p).state = 7) :
    ((s.enterUp p).port p).kept = (s.port p).backUp.kept := by
  rw [(PortsFixed.enterUp s p).kept, State.port_updPort_same, if_pos h]

theorem State.enterUp_others (s : State) (p q : Nat) (h : q ≠ p) : ((s.enterUp p).port q).state = (s.port q).state := by
  have hkept := (PortsFixed.enterUp s p).kept q
  rw [State.port_updPort, if_neg h] at hkept
  exact (Port.kept_fields hkept).1

/-- Settles O18: both commands end in `State.enterUp`. -/
theorem qualifiedPortComesUp : Obligations.QualifiedPortComesUp := by
  unfold Obligations.QualifiedPortComesUp
  intro p s
  refine ⟨fun n l h5 hn => ?_, fun i h7 hsub hr hok => ?_⟩
  · have hport : (s.updPort p.val (fun t => { t with calib := l })).port p.val = { s.port p.val with calib := l } :=
      State.port_updPort_same _ _ _
    have hkept := (s.updPort p.val (fun t => { t with calib := l })).enterUp_of_qualify p.val (by rw [hport]; dsimp only; omega)
    rw [hport] at hkept
    obtain ⟨hstate, hreason, -, -, hcalib, hseq, -⟩ := Port.kept_fields hkept
    refine ⟨(s.updPort p.val (fun t => { t with calib := l })).enterUp p.val, ?_, hstate, hreason, hseq, hcalib, fun q hq => ?_⟩
    · rw [exec_qualifyEnd, execQualifyEnd, if_neg (fun hne => hne h5), if_pos hn]
    · rw [State.enterUp_others _ _ _ hq, State.port_updPort, if_neg hq]
  · have hport := s.port_noteIdent p.val i
    have hkept := (s.noteIdent p.val i).enterUp_of_retrain p.val (by rw [hport]; exact h7)
    rw [hport] at hkept
    obtain ⟨hstate, -, -, -, -, hseq, -, -, -, -, hresync⟩ := Port.kept_fields hkept
    refine ⟨(s.noteIdent p.val i).enterUp p.val, ?_, hstate, hseq, hresync, fun q hq => ?_⟩
    · rw [exec_identFlit, execIdentFlit_passes p i s (s.inTraining_of_either _ _ (.inr ⟨h7, hsub⟩)) hr, hok, Bool.not_true, if_neg Bool.false_ne_true,
        if_pos h7]
    · rw [State.enterUp_others _ _ _ hq, OtherPortsKept.noteIdent s p.val i q hq]

end Sys2Proof.Machine
end

section
/-! Flits received on a port in UP (11_fabric_links.md R306, R309, R310, R320, R337; 12_fabric_traffic.md R338, R339): each is taken in
order, discarded, or idle. O20. -/

namespace Sys2Proof.Machine

open Sys2Proof

theorem exec_flitReceive (p : PortId) (got : LaneCodeword) (pos : Fin 5) (s : State) :
    exec (.flitReceive p got pos) s = execFlitReceive p got pos s := rfl

/-! Counts of a codeword (R337, log entry 40). -/

/-- A counter of a port that grows with a codeword's first flit. -/
def State.countFirst (s : State) (p o pos n : Nat) : State := if pos = 0 then s.inc (portReg p o) n else s

theorem State.reg_countFirst_same (s : State) (p o pos n : Nat) : (s.countFirst p o pos n).reg (portReg p o) =
    BitVec.ofNat 64 (min (2 ^ 64 - 1) (s.regN (portReg p o) + if pos = 0 then n else 0)) := by
  unfold State.countFirst
  split
  · rw [State.reg_inc, if_pos rfl, State.regN]
  · have hlt : s.regN (portReg p o) ≤ 2 ^ 64 - 1 := Nat.le_pred_of_lt (s.reg (portReg p o)).isLt
    rw [Nat.add_zero, Nat.min_eq_right hlt, State.regN, BitVec.ofNat_toNat, BitVec.setWidth_eq]

theorem State.reg_countFirst_other (s : State) (p o pos n o' : Nat) (h : o' ≠ portReg p o) : (s.countFirst p o pos n).reg o' = s.reg o' := by
  unfold State.countFirst
  split
  · rw [State.reg_inc, if_neg h]
  · rfl

theorem State.countFirst_inbox (s : State) (p o pos n : Nat) : (s.countFirst p o pos n).inbox = s.inbox := by
  unfold State.countFirst; split <;> simp

theorem State.countFirst_router (s : State) (p o pos n : Nat) : (s.countFirst p o pos n).router = s.router := by
  unfold State.countFirst; split <;> simp

theorem State.countFirst_fabric (s : State) (p o pos n : Nat) : (s.countFirst p o pos n).fabric = s.fabric := by
  unfold State.countFirst; split <;> simp

theorem State.port_countFirst (s : State) (p o pos n q : Nat) : (s.countFirst p o pos n).port q = s.port q := by
  unfold State.countFirst; split <;> simp

theorem State.fecIn_of_decoded (s : State) (p lane pos : Nat) (w : Codeword) {d n : Nat}
    (hdec : rsDecode (s.laneWord p lane w) = some (d, n)) : s.fecIn p lane pos w = (some d, s.countFirst p 0x28 pos n) := by
  unfold State.fecIn State.countFirst
  generalize rsDecode (s.laneWord p lane w) = r at *
  subst hdec
  rfl

theorem State.fecIn_of_undecoded (s : State) (p lane pos : Nat) (w : Codeword) (hdec : rsDecode (s.laneWord p lane w) = none) :
    s.fecIn p lane pos w = (none, s.countFirst p 0x30 pos 1) := by
  unfold State.fecIn State.countFirst
  generalize rsDecode (s.laneWord p lane w) = r at *
  subst hdec
  rfl

theorem exec_flitReceive_of_decoded (p : PortId) (lane : Fin 4) (w : Codeword) (pos : Fin 5) (s : State) {d n : Nat}
    (hup : (s.port p.val).state = 6) (hdec : rsDecode (s.laneWord p.val lane.val w) = some (d, n)) :
    exec (.flitReceive p ⟨lane, w⟩ pos) s = .next ((s.countFirst p.val 0x28 pos.val n).flitIn p.val (codewordFlit d pos.val)) := by
  have hportUp : s.portUp p.val = true := by simp [State.portUp, hup]
  simp only [exec_flitReceive, execFlitReceive, hportUp, s.fecIn_of_decoded _ _ _ _ hdec, Bool.not_true, Bool.false_eq_true, if_false]

theorem exec_flitReceive_of_undecoded (p : PortId) (lane : Fin 4) (w : Codeword) (pos : Fin 5) (s : State)
    (hup : (s.port p.val).state = 6) (hdec : rsDecode (s.laneWord p.val lane.val w) = none) :
    exec (.flitReceive p ⟨lane, w⟩ pos) s = .next ((s.countFirst p.val 0x30 pos.val 1).discardFlit p.val) := by
  have hportUp : s.portUp p.val = true := by simp [State.portUp, hup]
  simp only [exec_flitReceive, execFlitReceive, hportUp, s.fecIn_of_undecoded _ _ _ _ hdec, Bool.not_true, Bool.false_eq_true, if_false]

/-! Discarding (R310). -/

/-- A discarded flit is counted in FP_CRC_ERR; besides, a NAK may go out. -/
theorem State.linkOnly_discardFlit (s : State) (p : Nat) : LinkOnly (s.inc (portReg p 0x38) 1) (s.discardFlit p) := by
  unfold State.discardFlit
  exact .ite (.refl _) ((LinkOnly.updPort _ _ _).trans (.txControl _ _ _))

theorem State.rx_discardFlit (s : State) (p : Nat) :
    ((s.discardFlit p).port p).rx = ((s.port p).state, (s.port p).rxSeq, true) := by
  unfold State.discardFlit
  dsimp only
  split
  · rename_i hnak
    rw [State.port_inc] at hnak ⊢
    rw [Port.rx, hnak]
  · rw [(PortsFixed.txControl _ p _).rx, State.port_updPort_same, State.port_inc, Port.rx]

/-- R310: a discarded flit counts one in FP_CRC_ERR and delivers nothing. -/
theorem State.discardFlit_spec (s : State) (p : Nat) :
    (s.discardFlit p).reg (portReg p 0x38) = BitVec.ofNat 64 (min (2 ^ 64 - 1) (s.regN (portReg p 0x38) + 1)) ∧
    (∀ o, o ≠ portReg p 0x38 → (s.discardFlit p).reg o = s.reg o) ∧
    (s.discardFlit p).inbox = s.inbox ∧ (s.discardFlit p).router = s.router := by
  have hlink := s.linkOnly_discardFlit p
  refine ⟨by rw [hlink.reg, State.reg_inc_same], fun o ho => by rw [hlink.reg, State.reg_inc, if_neg ho], ?_, ?_⟩
  · rw [hlink.inbox, State.inc_inbox]
  · rw [hlink.router, State.inc_router]

/-! Delivery (R338, R339). -/

theorem State.deliver_regs (s : State) (p vl : Nat) (m : Message) : (s.deliver p vl m).regs = s.regs := by
  unfold State.deliver
  split <;> rfl

theorem State.rx_deliver (s : State) (p vl : Nat) (m : Message) : ((s.deliver p vl m).port p).rx = (s.port p).rx := by
  unfold State.deliver
  split
  · exact State.rx_updPort _ _ _ (fun _ => rfl)
  · rfl

/-- R339: a message for a sink here, a beacon or one for the own rank, goes to the inbox, any other to the router. -/
theorem State.deliver_here (s : State) (p vl : Nat) (m : Message) (h : m.kind = 1 ∨ s.fabric.rank = some m.dst) :
    (s.deliver p vl m).inbox = s.inbox ++ [m] ∧ (s.deliver p vl m).router = s.router := by
  have hcond : (m.kind = 1 || decide (s.fabric.rank = some m.dst)) = true := by simpa using h
  rw [State.deliver, if_pos hcond]
  exact ⟨rfl, rfl⟩

theorem State.deliver_on (s : State) (p vl : Nat) (m : Message) (hkind : m.kind ≠ 1) (hrank : s.fabric.rank ≠ some m.dst) :
    (s.deliver p vl m).inbox = s.inbox ∧ (s.deliver p vl m).router = s.router ++ [⟨m, some p, decide (vl % 2 = 1), false⟩] := by
  have hcond : ¬ (m.kind = 1 || decide (s.fabric.rank = some m.dst)) = true := by simp [hkind, hrank]
  rw [State.deliver, if_neg hcond]
  exact ⟨rfl, rfl⟩

theorem State.takeFlit_single (s : State) (p : Nat) (f : Flit) (h : flitType f = 4) :
    s.takeFlit p f = s.deliver p (flitVl f) (assemble [f]) := by
  simp only [State.takeFlit, h]

theorem State.takeFlit_regs (s : State) (p : Nat) (f : Flit) : (s.takeFlit p f).regs = s.regs := by
  unfold State.takeFlit
  dsimp only
  split
  · rfl
  · rfl
  · exact State.deliver_regs _ _ _ _
  · exact State.deliver_regs _ _ _ _
  · rfl

theorem State.rx_takeFlit (s : State) (p : Nat) (f : Flit) : ((s.takeFlit p f).port p).rx = (s.port p).rx := by
  unfold State.takeFlit
  dsimp only
  split
  · exact s.rx_updPort p _ (fun _ => rfl)
  · exact s.rx_updPort p _ (fun _ => rfl)
  · exact (State.rx_deliver _ _ _ _).trans (s.rx_updPort p _ (fun _ => rfl))
  · exact State.rx_deliver _ _ _ _
  · rfl

/-! The three fates of a decoded flit (R310). -/

/-- A flit in order: its header is taken and the port expects the next sequence, then the flit is taken, and what waits is sent. -/
theorem State.flitIn_in_order (s : State) (p : Nat) (f : Flit) (hgood : flitGood f = true) (hlo : 1 ≤ flitType f) (hhi : flitType f ≤ 5)
    (hseq : flitSeq f = (s.port p).rxSeq) :
    ∃ u, LinkOnly s u ∧ (u.port p).rx = ((s.port p).state, ((s.port p).rxSeq + 1) % 65536, false) ∧
      LinkOnly (u.takeFlit p f) (s.flitIn p f) ∧ PortsFixed (u.takeFlit p f) (s.flitIn p f) := by
  obtain ⟨hstate, hrx, -⟩ := Port.rx_eq ((State.rx_takeCredit (s.takeAck p (flitAck f)) p f).trans (s.rx_takeAck p (flitAck f)))
  have hcond : ¬ (decide (6 ≤ flitType f) || decide (flitSeq f ≠ (s.port p).rxSeq)) = true := by simp [hseq]; omega
  unfold State.flitIn
  rw [if_neg (by simp [hgood]), if_neg (by omega), if_neg hcond]
  refine ⟨((s.takeAck p (flitAck f)).takeCredit p f).updPort p
    (fun t => { t with rxSeq := (t.rxSeq + 1) % 65536, nakSent := false, ackSince := t.ackSince + 1 }), ?_, ?_, ?_, ?_⟩
  · exact ((LinkOnly.takeAck _ _ _).trans (.takeCredit _ _ _)).trans (.updPort _ _ _)
  · rw [State.port_updPort_same, ← hstate, ← hrx, Port.rx]
  · exact (LinkOnly.ite (.txAck _ _) (.refl _)).trans (.flushPort _ _)
  · exact (PortsFixed.ite (.txAck _ _) (.refl _)).trans (.flushPort _ _)

section
variable {s : State} {p : Nat} {f : Flit}

/-- R310, R338: a flit in order advances the sequence, ends a NAK and writes no register. -/
theorem State.flitIn_taken (hgood : flitGood f = true) (hlo : 1 ≤ flitType f) (hhi : flitType f ≤ 5) (hseq : flitSeq f = (s.port p).rxSeq) :
    ((s.flitIn p f).port p).rx = ((s.port p).state, ((s.port p).rxSeq + 1) % 65536, false) ∧ ∀ o, (s.flitIn p f).reg o = s.reg o := by
  obtain ⟨u, hu, hrx, hlink, hfixed⟩ := s.flitIn_in_order p f hgood hlo hhi hseq
  refine ⟨by rw [hfixed.rx, State.rx_takeFlit, hrx], fun o => ?_⟩
  rw [hlink.reg, State.reg, State.takeFlit_regs, ← State.reg, hu.reg]

/-- R339: one that holds a whole message delivers it, here or to the router. -/
theorem State.flitIn_delivers (hgood : flitGood f = true) (htype : flitType f = 4) (hseq : flitSeq f = (s.port p).rxSeq) :
    ((assemble [f]).kind = 1 ∨ s.fabric.rank = some (assemble [f]).dst →
      (s.flitIn p f).inbox = s.inbox ++ [assemble [f]] ∧ (s.flitIn p f).router = s.router) ∧
    ((assemble [f]).kind ≠ 1 → s.fabric.rank ≠ some (assemble [f]).dst →
      (s.flitIn p f).inbox = s.inbox ∧
      (s.flitIn p f).router = s.router ++ [⟨assemble [f], some p, decide (flitVl f % 2 = 1), false⟩]) := by
  obtain ⟨u, hu, -, hlink, -⟩ := s.flitIn_in_order p f hgood (by omega) (by omega) hseq
  rw [hlink.inbox, hlink.router, State.takeFlit_single _ _ _ htype, ← hu.inbox, ← hu.router, ← hu.fabric]
  exact ⟨u.deliver_here p _ _, u.deliver_on p _ _⟩

/-- R310: a bad flit, or a sequenced one out of order, is discarded, once the header of a good one has been taken. -/
theorem State.flitIn_discards (h : flitGood f = false ∨ 6 ≤ flitType f ∨ (flitType f ≠ 0 ∧ flitSeq f ≠ (s.port p).rxSeq)) :
    ∃ u, LinkOnly s u ∧ (u.port p).rx = (s.port p).rx ∧ s.flitIn p f = u.discardFlit p := by
  unfold State.flitIn
  by_cases hgood : flitGood f = true
  · have hbad : 6 ≤ flitType f ∨ (flitType f ≠ 0 ∧ flitSeq f ≠ (s.port p).rxSeq) := h.resolve_left (by simp [hgood])
    have hcond : (decide (6 ≤ flitType f) || decide (flitSeq f ≠ (s.port p).rxSeq)) = true := by
      rcases hbad with htype | ⟨-, hseq⟩
      · simp [htype]
      · simp [hseq]
    refine ⟨s.takeAck p (flitAck f), .takeAck _ _ _, s.rx_takeAck _ _, ?_⟩
    rw [if_neg (by simp [hgood]), if_neg (by omega), if_pos hcond]
  · exact ⟨s, .refl _, rfl, by rw [if_pos (by simpa using hgood)]⟩

/-- What the discard of such a flit makes of the port, FP_CRC_ERR and the sinks. -/
theorem State.flitIn_discarded (h : flitGood f = false ∨ 6 ≤ flitType f ∨ (flitType f ≠ 0 ∧ flitSeq f ≠ (s.port p).rxSeq)) :
    ((s.flitIn p f).port p).rx = ((s.port p).state, (s.port p).rxSeq, true) ∧
    (s.flitIn p f).reg (portReg p 0x38) = BitVec.ofNat 64 (min (2 ^ 64 - 1) (s.regN (portReg p 0x38) + 1)) ∧
    (s.flitIn p f).inbox = s.inbox ∧ (s.flitIn p f).router = s.router := by
  obtain ⟨u, hu, hrx, hdiscard⟩ := State.flitIn_discards h
  obtain ⟨hstate, hseq, -⟩ := Port.rx_eq hrx
  obtain ⟨herr, -, hin, hrt⟩ := u.discardFlit_spec p
  rw [hdiscard, u.rx_discardFlit, hstate, hseq, herr, State.regN, hu.reg, ← State.regN, hin, hrt, hu.inbox, hu.router]
  exact ⟨rfl, rfl, rfl, rfl⟩

/-- R309: of an idle flit the header is taken. -/
theorem State.flitIn_idle (hgood : flitGood f = true) (hidle : flitType f = 0) :
    LinkOnly s (s.flitIn p f) ∧ ((s.flitIn p f).port p).rx = (s.port p).rx := by
  unfold State.flitIn
  rw [if_neg (by simp [hgood]), if_pos hidle]
  refine ⟨((LinkOnly.takeAck _ _ _).trans (.takeCredit _ _ _)).trans (.flushPort _ _), ?_⟩
  rw [(PortsFixed.flushPort _ p).rx, State.rx_takeCredit, State.rx_takeAck]

end

/-- Settles O20: the codeword is counted, and the flit meets one of its fates. -/
theorem flitsAreAcceptedInOrder : Obligations.FlitsAreAcceptedInOrder := by
  unfold Obligations.FlitsAreAcceptedInOrder
  intro p lane w pos s
  refine ⟨?_, fun hup hdec => ?_, fun hdown => by simp [exec_flitReceive, execFlitReceive, State.portUp, hdown]⟩
  · rintro d n f hdec rfl
    have hport := s.port_countFirst p.val 0x28 pos.val n p.val
    have hcrc := s.reg_countFirst_other p.val 0x28 pos.val n (portReg p.val 0x38) (by simp)
    refine ⟨fun hup hgood hlo hhi hseq => ?_, fun hup hbad => ?_, fun hup hgood hidle => ?_⟩
    · rw [← hport] at hseq
      obtain ⟨hrx, hreg⟩ := State.flitIn_taken hgood hlo hhi hseq
      obtain ⟨-, hnext, hnak⟩ := Port.rx_eq hrx
      have hto := fun htype => State.flitIn_delivers hgood htype hseq
      rw [State.countFirst_inbox, State.countFirst_router, State.countFirst_fabric] at hto
      exact ⟨_, exec_flitReceive_of_decoded p lane w pos s hup hdec, by rw [hnext, hport], hnak,
        by rw [hreg, State.reg_countFirst_same], by rw [hreg, hcrc], fun htype => (hto htype).1, fun htype => (hto htype).2⟩
    · rw [← hport] at hbad
      obtain ⟨hrx, herr, hin, hrt⟩ := State.flitIn_discarded hbad
      obtain ⟨-, hsame, hnak⟩ := Port.rx_eq hrx
      rw [State.regN, hcrc, ← State.regN] at herr
      exact ⟨_, exec_flitReceive_of_decoded p lane w pos s hup hdec, by rw [hsame, hport], hnak, herr,
        by rw [hin, State.countFirst_inbox], by rw [hrt, State.countFirst_router]⟩
    · obtain ⟨hlink, hrx⟩ := State.flitIn_idle (s := s.countFirst p.val 0x28 pos.val n) (p := p.val) hgood hidle
      rw [hport] at hrx
      obtain ⟨-, hsame, hnak⟩ := Port.rx_eq hrx
      exact ⟨_, exec_flitReceive_of_decoded p lane w pos s hup hdec, hsame, hnak,
        fun o ho => by rw [hlink.reg, State.reg_countFirst_other _ _ _ _ _ _ ho], by rw [hlink.inbox, State.countFirst_inbox],
        by rw [hlink.router, State.countFirst_router]⟩
  · obtain ⟨-, hsame, hnak⟩ := Port.rx_eq ((s.countFirst p.val 0x30 pos.val 1).rx_discardFlit p.val)
    obtain ⟨herr, hother, hin, hrt⟩ := (s.countFirst p.val 0x30 pos.val 1).discardFlit_spec p.val
    refine ⟨_, exec_flitReceive_of_undecoded p lane w pos s hup hdec, ?_, hnak, ?_, ?_, ?_, ?_⟩
    · rw [hsame, State.port_countFirst]
    · rw [herr, State.regN, State.reg_countFirst_other _ _ _ _ _ _ (by simp), State.regN]
    · rw [hother _ (by simp), State.reg_countFirst_same]
    · rw [hin, State.countFirst_inbox]
    · rw [hrt, State.countFirst_router]

end Sys2Proof.Machine
end

section
/-! NAKs, resends and acknowledgement timers (11_fabric_links.md R310 to R313). O21. -/

namespace Sys2Proof.Machine

open Sys2Proof

theorem exec_nak (p : PortId) (n : Nat) (s : State) : exec (.nak p n) s = execNak p n s := rfl
theorem exec_nakRepeat (p : PortId) (s : State) : exec (.nakRepeat p) s = execNakRepeat p s := rfl
theorem exec_ackTimer (p : PortId) (s : State) : exec (.ackTimer p) s = execAckTimer p s := rfl

/-! Resending (R311). -/

@[simp] theorem Port.place_retry (t : Port) (p : Nat) (f : Flit) : (t.place p f).retry = t.retry := by
  unfold Port.place
  dsimp only
  split
  · rfl
  · split <;> rfl

theorem State.retry_sendFlit (s : State) (p : Nat) (f : Flit) : ((s.sendFlit p f).port p).retry = (s.port p).retry := by
  rw [State.sendFlit, State.port_emit, State.port_updPort_same, Port.place_retry]

theorem State.retry_resend (s : State) (p : Nat) : ((s.resend p).port p).retry = (s.port p).retry :=
  State.foldl_proj (fun t => (t.port p).retry) _ (fun t f => t.retry_sendFlit p f) _ s

theorem OtherPortsKept.resend (s : State) (p : Nat) : OtherPortsKept p s (s.resend p) :=
  .foldl _ _ _ (fun t f => OtherPortsKept.updPort t p (fun t => t.place p f))

theorem State.out_foldl_sendFlit (l : List Flit) (s : State) (p : Nat) :
    (l.foldl (fun s f => State.sendFlit s p f) s).out = s.out ++ l.map (OutEvent.flit p) := by
  induction l generalizing s with
  | nil => simp
  | cons f l ih => rw [List.foldl_cons, ih, List.map_cons, State.sendFlit, State.emit_out, State.updPort_out, List.append_assoc]; rfl

/-- R311: the retry buffer goes out again, in order. -/
theorem State.out_resend (s : State) (p : Nat) : (s.resend p).out = s.out ++ (s.port p).retry.map (OutEvent.flit p) :=
  State.out_foldl_sendFlit _ _ _

/-! NAK (R311, R313). -/

theorem Port.acked_state (t : Port) (a : Nat) : (t.acked a).state = t.state := (Port.rx_eq (t.rx_acked a)).1

/-- The resends of a port's first unacknowledged flit, the one that a NAK asks for included. -/
def Port.nakCount (t : Port) : Nat := if t.resendSeq = t.base then t.resends + 1 else 1

/-- A port that has counted a NAK. -/
def Port.nakCounted (t : Port) : Port := { t with resends := t.nakCount, resendSeq := t.base }

@[simp] theorem Port.nakCounted_state (t : Port) : t.nakCounted.state = t.state := rfl
@[simp] theorem Port.nakCounted_retry (t : Port) : t.nakCounted.retry = t.retry := rfl

/-- The state as a NAK has been taken and counted. -/
def State.noteNak (s : State) (p seq : Nat) : State :=
  let u := s.updPort p (fun t => t.acked seq)
  (u.updPort p (fun t => { t with resends := (u.port p).nakCount, resendSeq := t.base })).inc (portReg p 0x40) 1

theorem State.port_noteNak (s : State) (p seq : Nat) : (s.noteNak p seq).port p = ((s.port p).acked seq).nakCounted := by
  have hcounted : ∀ u : State, (u.updPort p (fun t => { t with resends := (u.port p).nakCount, resendSeq := t.base })).port p =
      (u.port p).nakCounted := fun u => State.port_updPort_same u p _
  rw [State.noteNak, State.port_inc, hcounted, State.port_updPort_same]

theorem State.state_noteNak (s : State) (p seq : Nat) : ((s.noteNak p seq).port p).state = (s.port p).state := by
  rw [State.port_noteNak, Port.nakCounted_state, Port.acked_state]

theorem OtherPortsKept.noteNak (s : State) (p seq : Nat) : OtherPortsKept p s (s.noteNak p seq) :=
  ((OtherPortsKept.updPort s p _).trans (.updPort _ _ _)).trans (.of_ports (State.inc_ports _ _ _))

theorem State.out_noteNak (s : State) (p seq : Nat) : (s.noteNak p seq).out = s.out := by
  rw [State.noteNak, State.inc_out, State.updPort_out, State.updPort_out]

theorem State.reg_noteNak (s : State) (p seq : Nat) :
    (s.noteNak p seq).reg (portReg p 0x40) = BitVec.ofNat 64 (min (2 ^ 64 - 1) (s.regN (portReg p 0x40) + 1)) := by
  rw [State.noteNak, State.reg_inc_same, State.regN_updPort, State.regN_updPort]

theorem exec_nak_of_up (p : PortId) (n : Nat) (s : State) (hup : (s.port p.val).state = 6) : exec (.nak p n) s =
    .next (if 16 ≤ ((s.port p.val).acked (n % 65536)).nakCount then (s.noteNak p.val (n % 65536)).enterRetrain p.val
      else (s.noteNak p.val (n % 65536)).resend p.val) := by
  have hportUp : s.portUp p.val = true := by simp [State.portUp, hup]
  simp only [exec_nak, execNak, hportUp, Bool.not_true, Bool.false_eq_true, if_false, State.noteNak, Port.nakCount,
    State.port_updPort_same, ge_iff_le]

/-- R313: a port in UP that must retrain is in RETRAIN, or excluded the third time within 10 s. -/
theorem State.enterRetrain_of_up (s : State) (p : Nat) (hup : (s.port p).state = 6) :
    ((s.enterRetrain p).port p).state = 7 ∨
      ((s.enterRetrain p).port p).state = 8 ∧ ((s.enterRetrain p).port p).reason = 12 := by
  unfold State.enterRetrain
  rw [if_neg (by simp [State.portUp, hup])]
  extract_lets now l u v
  split
  · obtain ⟨hstate, hreason⟩ := v.port_exclude p p 12
    exact .inr ⟨by rw [hstate, if_pos rfl], by rw [hreason, if_pos rfl]⟩
  · refine .inl ?_
    rw [(Port.kept_fields ((PortsFixed.leaveUp _ p).kept p)).1, State.port_updPort_same]

/-- Settles O21: a NAK is noted, and then the port resends or retrains by its count. -/
theorem nakResendsFromTheNamedSequence : Obligations.NakResendsFromTheNamedSequence := by
  unfold Obligations.NakResendsFromTheNamedSequence
  rintro p n s hup a rfl
  have hportUp : s.portUp p.val = true := by simp [State.portUp, hup]
  have hnote := s.port_noteNak p.val (n % 65536)
  have hstate := (s.state_noteNak p.val (n % 65536)).trans hup
  refine ⟨fun hfew => ?_, fun hsame hmany => ?_, fun hroom => ⟨fun hnak => ?_, ?_⟩, fun hfull => ?_, fun hnak => ?_⟩
  · have hcount : ¬ 16 ≤ ((s.port p.val).acked (n % 65536)).nakCount := by unfold Port.nakCount; split <;> omega
    refine ⟨(s.noteNak p.val (n % 65536)).resend p.val, by rw [exec_nak_of_up p n s hup, if_neg hcount], ?_, ?_, ?_, ?_,
      (OtherPortsKept.noteNak s p.val _).trans (.resend _ _)⟩
    · rw [State.retry_resend, hnote, Port.nakCounted_retry]
    · rw [(Port.rx_eq ((PortsFixed.resend _ p.val).rx p.val)).1, hstate]
    · rw [State.out_resend, State.out_noteNak, hnote, Port.nakCounted_retry]
    · rw [(LinkOnly.resend _ _).reg, State.reg_noteNak]
  · have hcount : 16 ≤ ((s.port p.val).acked (n % 65536)).nakCount := by rw [Port.nakCount, if_pos hsame]; omega
    exact ⟨_, by rw [exec_nak_of_up p n s hup, if_pos hcount], State.enterRetrain_of_up _ _ hstate⟩
  · simp only [exec_nakRepeat, execNakRepeat, hportUp, hnak, Bool.and_self, if_true, State.txControl, retryRoom, hroom, nakPayload]
  · simp only [exec_ackTimer, execAckTimer, hportUp, if_true, State.txAck, retryRoom, hroom, ackPayload]
  · simp only [exec_ackTimer, execAckTimer, hportUp, if_true, State.txAck, retryRoom, Nat.not_lt.2 hfull, if_false]
  · simp [exec_nakRepeat, execNakRepeat, hnak]

end Sys2Proof.Machine
end

section
/-! A failed laser unit and the low-power warning (11_fabric_links.md R302, R320; 16_faults_and_recovery.md Table 16-10). O22. -/

namespace Sys2Proof.Machine

open Sys2Proof

theorem exec_laserFail (k : EngineUnit) (s : State) : exec (.laserFail k) s = execLaserFail k s := rfl
theorem exec_lowPowerWarning (p : PortId) (w : LanePowers) (s : State) : exec (.lowPowerWarning p w) s = execLowPowerWarning p w s := rfl

/-! What a port that goes down leaves of the lasers. -/

/-- The failed lasers are the same in `t` as in `s`, and so are the bits of FAB_STATUS but RANKS_FROZEN (bit 18). -/
def LasersKept (s t : State) : Prop := t.lasers = s.lasers ∧ ∀ b, b ≠ 18 → t.rfld fabStatus b b = s.rfld fabStatus b b

theorem LasersKept.trans {s t u : State} (h : LasersKept s t) (k : LasersKept t u) : LasersKept s u :=
  ⟨k.1.trans h.1, fun b hb => (k.2 b hb).trans (h.2 b hb)⟩

theorem LasersKept.of_fields {s t : State} (hl : t.lasers = s.lasers) (hr : t.reg fabStatus = s.reg fabStatus) : LasersKept s t :=
  ⟨hl, fun b _ => State.rfld_of_reg hr b b⟩

theorem LasersKept.refl (s : State) : LasersKept s s := .of_fields rfl rfl

theorem LasersKept.ite {s a b : State} {c : Prop} [Decidable c] (ha : LasersKept s a) (hb : LasersKept s b) :
    LasersKept s (if c then a else b) := by split <;> assumption

theorem LasersKept.foldl {α : Type} (f : State → α → State) (l : List α) (s : State) (h : ∀ t a, LasersKept t (f t a)) :
    LasersKept s (l.foldl f s) := by
  induction l generalizing s with
  | nil => exact .refl _
  | cons a l ih => exact (h s a).trans (ih _)

theorem LasersKept.of_linkOnly {s t : State} (h : LinkOnly s t) : LasersKept s t := .of_fields h.lasers (h.reg _)

theorem LasersKept.inc (s : State) (p o n : Nat) : LasersKept s (s.inc (portReg p o) n) :=
  .of_fields (State.inc_lasers _ _ _) (by rw [State.reg_inc, if_neg (portReg_ne_fabStatus p o).symm])

theorem LasersKept.raiseError (s : State) (e : ErrInfo) : LasersKept s (s.raiseError e) :=
  .of_fields (State.raiseError_lasers _ _) (State.reg_raiseError _ _ _ (.inl (by decide)) (by decide))

theorem LasersKept.serviceError (s : State) (code unit index slot step phase d5 d6 d7 : Nat) :
    LasersKept s (s.serviceError code unit index slot step phase d5 d6 d7) := by
  have hevent := EventOnly.serviceError s code unit index slot step phase d5 d6 d7
  unfold EventOnly at hevent
  exact .of_fields (by rw [hevent]) (State.reg_serviceError _ _ _ _ _ _ _ _ _ _ _ (.inl (by decide)) (by decide))

theorem LasersKept.messageLost (s : State) (p : Nat) (m : Message) : LasersKept s (s.messageLost p m) :=
  .ite (.raiseError _ _) (.serviceError _ _ _ _ _ _ _ _ _ _)

theorem LasersKept.jqueue (s : State) (e : JEntry) : LasersKept s (s.jqueue e) := by
  have hevent := EventOnly.jqueue s e
  unfold EventOnly at hevent
  exact .of_fields (by rw [hevent]) ((EventKeeps.jqueue s e).1 _ (.inl (by decide)) (by decide))

/-- R329: RANKS_FROZEN is the one bit of FAB_STATUS that discovery writes. -/
theorem LasersKept.refreshFrozen (s : State) : LasersKept s s.refreshFrozen := by
  refine ⟨State.setFld_lasers _ _ _ _ _, fun b hb => ?_⟩
  rw [State.refreshFrozen, State.rfld, State.reg_setFld, if_pos rfl, State.rfld]
  rcases Nat.lt_or_gt_of_ne hb with hlt | hgt
  · exact Word.fld_putFld_below _ _ _ _ _ _ (by decide) (by decide) hlt
  · exact Word.fld_putFld_above _ _ _ _ _ _ (by decide) (by decide) hgt

theorem LasersKept.fabric (s : State) (f : FabricState) : LasersKept s { s with fabric := f } := .of_fields rfl rfl

theorem LasersKept.announce (s : State) : LasersKept s s.announce := by
  unfold State.announce
  refine .ite (.refl _) ?_
  exact ((((LasersKept.fabric s _).trans (.fabric _ _)).trans (.refreshFrozen _)).trans (.jqueue _ _)).trans
    (.foldl _ _ _ (fun _ _ => .of_linkOnly (.sendBeacon _ _ _)))

theorem LasersKept.leaveUp (s : State) (p : Nat) : LasersKept s (s.leaveUp p) :=
  ((LasersKept.fabric s _).trans (.fabric _ _)).trans (.announce _)

theorem LasersKept.dropPort (s : State) (p : Nat) : LasersKept s (s.dropPort p) :=
  (LasersKept.of_linkOnly (.updPort s p _)).trans (.foldl _ _ _ (fun _ _ => (LasersKept.inc _ _ _ _).trans (.messageLost _ _ _)))

theorem LasersKept.takeDown (s : State) (p st reason : Nat) : LasersKept s (s.takeDown p st reason) := by
  have hset : LasersKept s (s.setPort p st reason) := .of_linkOnly (.updPort _ _ _)
  have hdrop := LasersKept.ite (c := ((s.port p).state = 6 || (s.port p).state = 7) = true) (hset.trans (.dropPort _ p)) hset
  exact .ite (hdrop.trans (.leaveUp _ _)) hdrop

/-! Several ports taken down. -/

theorem State.port_takeDown (s : State) (p st reason q : Nat) :
    ((s.takeDown p st reason).port q).state = (if q = p then st else (s.port q).state) ∧
    ((s.takeDown p st reason).port q).reason = if q = p then reason else (s.port q).reason := by
  have hkept := s.kept_takeDown p q st reason
  by_cases hq : q = p
  · rw [if_pos hq] at hkept
    rw [if_pos hq, if_pos hq]
    exact ⟨congrArg Port.state hkept, congrArg Port.reason hkept⟩
  · rw [if_neg hq] at hkept
    rw [if_neg hq, if_neg hq]
    obtain ⟨hstate, hreason, -⟩ := Port.kept_fields hkept
    exact ⟨hstate, hreason⟩

/-- R319: the ports taken down have the state and the reason given, the others keep theirs. -/
theorem State.port_foldl_takeDown (l : List Nat) (f : Nat → Nat) (st reason : Nat) (s : State) (q : Nat) :
    ((l.foldl (fun s i => State.takeDown s (f i) st reason) s).port q).state = (if q ∈ l.map f then st else (s.port q).state) ∧
    ((l.foldl (fun s i => State.takeDown s (f i) st reason) s).port q).reason = if q ∈ l.map f then reason else (s.port q).reason := by
  induction l generalizing s with
  | nil => exact ⟨rfl, rfl⟩
  | cons i l ih =>
    obtain ⟨hstate, hreason⟩ := ih (s.takeDown (f i) st reason)
    obtain ⟨hs, hr⟩ := s.port_takeDown (f i) st reason q
    rw [List.foldl_cons, hstate, hreason, hs, hr, List.map_cons]
    by_cases hl : q ∈ l.map f
    · simp [hl]
    · simp [hl]

theorem mem_enginePorts (k q : Nat) : q ∈ (List.range 4).map (fun i => 4 * k + i) ↔ q / 4 = k := by
  simp only [List.mem_map, List.mem_range]
  exact ⟨fun ⟨i, hi, hq⟩ => by omega, fun hq => ⟨q % 4, by omega, by omega⟩⟩

/-! MOD_FAULT# (Table 16-10). -/

theorem State.modFault_refreshPins (s : State) : s.refreshPins.pins.modFault = s.modFaultNow := by
  unfold State.refreshPins
  dsimp only
  split
  · rename_i h; exact h.symm
  · rfl

/-- A failed laser holds MOD_FAULT# asserted. -/
theorem State.modFaultNow_of_laser (s : State) (h : s.lasers ≠ []) : s.modFaultNow = true := by
  simp [State.modFaultNow, h]

/-! LASER_FAIL (R302). -/

/-- The state as the failure of a laser has been noted and recorded. -/
def State.noteLaser (s : State) (k : EngineUnit) : State :=
  (State.setBit { s with lasers := s.lasers ++ [k.val] } fabStatus (8 + k.val)).raiseError
    { code := 0x0402, unit := 16, index := k.val, d5 := k.val }

/-- The four ports of an engine off for its laser. -/
def State.engineOff (s : State) (k : Nat) : State := (List.range 4).foldl (fun s i => State.takeDown s (4 * k + i) 0 11) s

theorem exec_laserFail_of_first (k : EngineUnit) (s : State) (hfirst : k.val ∉ s.lasers) (hup : 40 + k.val ∈ s.start.domainsUp) :
    exec (.laserFail k) s = .next ((s.noteLaser k).engineOff k.val).refreshPins := by
  have hcond : ¬ (s.lasers.contains k.val || !s.start.domainsUp.contains (40 + k.val)) = true := by simp [hfirst, hup]
  rw [exec_laserFail, execLaserFail, if_neg hcond]
  rfl

theorem State.noteLaser_lasers (s : State) (k : EngineUnit) : (s.noteLaser k).lasers = s.lasers ++ [k.val] := by
  rw [State.noteLaser, State.raiseError_lasers, State.setBit_lasers]

theorem State.noteLaser_bit (s : State) (k : EngineUnit) : (s.noteLaser k).rfld fabStatus (8 + k.val) (8 + k.val) = 1 := by
  rw [State.noteLaser, (LasersKept.raiseError _ _).2 _ (by omega), State.rfld_setBit_same _ _ _ (by omega)]

theorem State.port_noteLaser (s : State) (k : EngineUnit) (q : Nat) : (s.noteLaser k).port q = s.port q := by
  rw [State.noteLaser, State.port_raiseError, State.port_setBit]
  rfl

theorem LasersKept.engineOff (s : State) (k : Nat) : LasersKept s (s.engineOff k) := .foldl _ _ _ (fun _ _ => .takeDown _ _ _ _)

theorem LasersKept.refreshPins (s : State) : LasersKept s s.refreshPins := by
  unfold State.refreshPins
  exact .ite (.refl _) (.of_fields rfl rfl)

theorem State.port_refreshPins (s : State) (q : Nat) : s.refreshPins.port q = s.port q := by
  unfold State.refreshPins
  dsimp only
  split <;> rfl

/-- R302: the four ports of the engine are in OFF with the reason LASER, and no other changes its state. -/
theorem State.port_engineOff (s : State) (k q : Nat) :
    ((s.engineOff k).port q).state = (if q / 4 = k then 0 else (s.port q).state) ∧
    ((s.engineOff k).port q).reason = if q / 4 = k then 11 else (s.port q).reason := by
  have hports := State.port_foldl_takeDown (List.range 4) (fun i => 4 * k + i) 0 11 s q
  simp only [mem_enginePorts] at hports
  exact hports

/-- Settles O22: the laser's failure is noted, its ports go down, and the pins follow; the powers read are noted as in LIGHT. -/
theorem laserFailTakesDownFourPorts : Obligations.LaserFailTakesDownFourPorts := by
  unfold Obligations.LaserFailTakesDownFourPorts
  intro s
  refine ⟨fun k hfirst hup => ?_, fun p l tx hlo hhi => ?_⟩
  · have hkept := (LasersKept.engineOff (s.noteLaser k) k.val).trans (.refreshPins _)
    have hports := fun q => (s.noteLaser k).port_engineOff k.val q
    simp only [s.port_noteLaser] at hports
    refine ⟨_, exec_laserFail_of_first k s hfirst hup, by rw [hkept.1, State.noteLaser_lasers],
      by rw [hkept.2 _ (by omega), State.noteLaser_bit], ?_, fun i hi => ?_, fun q hq => ?_⟩
    · rw [State.modFault_refreshPins]
      refine State.modFaultNow_of_laser _ ?_
      rw [(LasersKept.engineOff (s.noteLaser k) k.val).1, State.noteLaser_lasers]
      simp
    · rw [State.port_refreshPins, (hports _).1, (hports _).2, if_pos (by omega), if_pos (by omega)]
      exact ⟨rfl, rfl⟩
    · rw [State.port_refreshPins, (hports _).1, (hports _).2, if_neg hq, if_neg hq]
      exact ⟨rfl, rfl⟩
  · have hport := s.port_setPowers p.val l tx p.val
    rw [if_pos rfl] at hport
    refine ⟨s.setPowers p.val l tx, by simp [exec_lowPowerWarning, execLowPowerWarning, hlo, hhi], by rw [hport],
      s.reg_setPowers_rx _ _ _, s.reg_setPowers_tx _ _ _, by rw [hport], fun h => ?_, fun h => ?_, OtherPortsKept.setPowers _ _ _ _⟩
    · rw [State.lowPower_setPowers, warningLevel_any h, if_pos rfl]
    · rw [State.lowPower_setPowers, warningLevel_not_any h, if_neg Bool.false_ne_true]

end Sys2Proof.Machine
end

section
/-! SUPPORT. Reasoning rules for what the always-on domain does (15_start_and_retention.md R443, R444, R463, R464; 18_module_hardware.md
R535): `RegsOnly` is what showing a domain's state may change, `State.withoutMain` and `State.withoutService` name once what is lost with
domains 0 to 46 and with 47 and 48, and an error of the always-on domain is recorded as an error event or owed to the next start. -/

namespace Sys2Proof.Machine

open Sys2Proof

/-! The stage. -/

theorem State.stage_setStage (s : State) (v : Nat) (h : v < 16) : (s.setStage v).stage = v := by
  rw [State.stage, State.setStage, State.rfld_setFld_same _ _ _ _ _ (by decide) (by decide)]
  exact Nat.mod_eq_of_lt h

theorem State.stage_of_reg {s t : State} (h : t.reg startStatus = s.reg startStatus) : t.stage = s.stage := State.rfld_of_reg h 3 0

theorem State.reg_of_regs {s t : State} (h : t.regs = s.regs) (o : Nat) : t.reg o = s.reg o := by rw [State.reg, h, State.reg]

/-- Fields of START_STATUS above the stage stay through a change of it. -/
theorem State.rfld_setStage_above (s : State) (v h l : Nat) (hl : 3 < l) : (s.setStage v).rfld startStatus h l = s.rfld startStatus h l := by
  rw [State.rfld, State.setStage, State.reg_setFld, if_pos rfl]
  exact Word.fld_putFld_above _ _ _ _ _ _ (by decide) (by decide) hl

theorem State.reg_setStage (s : State) (v o : Nat) (h : o ≠ startStatus) : (s.setStage v).reg o = s.reg o := by
  rw [State.setStage, State.reg_setFld, if_neg h]

/-! Where DOM_STATE lies (Table 17-9). -/

theorem domState_above (d : Nat) : 0x300800 ≤ domState d := by
  unfold domState pgReg
  omega

theorem domState_below (d : DomainId) : domState d.val < 0x300B20 := by
  have := d.isLt
  unfold domState pgReg
  omega

/-! Domains going off. -/

/-- `t` is `s` but for its registers. -/
def RegsOnly (s t : State) : Prop := t = { s with regs := t.regs }

theorem RegsOnly.refl (s : State) : RegsOnly s s := rfl

theorem RegsOnly.trans {s t u : State} (h : RegsOnly s t) (k : RegsOnly t u) : RegsOnly s u := by
  unfold RegsOnly at *
  rw [k, h]

theorem RegsOnly.setReg (s : State) (o : Nat) (v : Word) : RegsOnly s (s.setReg o v) := rfl

theorem RegsOnly.setFld (s : State) (o h l v : Nat) : RegsOnly s (s.setFld o h l v) := .setReg _ _ _

theorem RegsOnly.foldl {α : Type} (f : State → α → State) (l : List α) (s : State) (h : ∀ t a, RegsOnly t (f t a)) :
    RegsOnly s (l.foldl f s) := by
  induction l generalizing s with
  | nil => exact .refl _
  | cons a l ih => exact (h s a).trans (ih _)

theorem RegsOnly.domainsOff (s : State) (l : List Nat) : RegsOnly s (s.domainsOff l) :=
  .foldl _ _ _ (fun _ _ => ((RegsOnly.setFld _ _ _ _ _).trans (.setFld _ _ _ _ _)).trans (.setFld _ _ _ _ _))

theorem RegsOnly.refreshGuidon (s : State) : RegsOnly s s.refreshGuidon :=
  (((RegsOnly.setFld _ _ _ _ _).trans (.setFld _ _ _ _ _)).trans (.setFld _ _ _ _ _)).trans (.setFld _ _ _ _ _)

theorem RegsOnly.start {s t : State} (h : RegsOnly s t) : t.start = s.start := by unfold RegsOnly at h; rw [h]
theorem RegsOnly.faults {s t : State} (h : RegsOnly s t) : t.faults = s.faults := by unfold RegsOnly at h; rw [h]

/-- The domains of a list that stay on as domains 0 to 46 turn off. -/
def keptOn (l : List Nat) : List Nat := l.filter (fun d => decide (47 ≤ d))

theorem mem_keptOn (l : List Nat) (d : Nat) : d ∈ keptOn l ↔ d ∈ l ∧ 47 ≤ d := by
  rw [keptOn, List.mem_filter, decide_eq_true_iff]

/-- R463: what is lost with domains 0 to 46, its registers left aside. -/
def State.withoutMain (s : State) : State := { s with
  cores := [], mem := [], memErr := [], controllers := [], slate := {}, jobs := [], inbox := [], router := []
  collectives := [], ports := [], fabric := { epoch := s.fabric.epoch }
  start := { s.start with domainsOn := keptOn s.start.domainsOn, domainsUp := keptOn s.start.domainsUp, hbmReady := false
                          slateReady := false, mapAdopted := false }
  faults := { s.faults with flintPoint := none } }

theorem RegsOnly.withoutMain {s t : State} (h : RegsOnly s t) : RegsOnly s.withoutMain t.withoutMain := by
  unfold RegsOnly at *
  rw [h]
  rfl

theorem State.dropMain_eq (s : State) : s.dropMain =
    ((s.domainsOff (s.start.domainsOn.filter (fun d => decide (d < 47)))).withoutMain.clearBit faultStatus 6).refreshGuidon := rfl

theorem RegsOnly.dropMain (s : State) : RegsOnly s.withoutMain s.dropMain := by
  rw [State.dropMain_eq]
  exact ((RegsOnly.domainsOff s _).withoutMain.trans (.setFld _ _ _ _ _)).trans (.refreshGuidon _)

/-- R463: of the registers, DOM_STATE, FLINT's flag and GD_STATUS show that the domains are off. -/
theorem State.reg_dropMain (s : State) (o : Nat) (hdom : ∀ d, o ≠ domState d) (hfault : o ≠ faultStatus) (hgd : o ≠ gdStatus) :
    s.dropMain.reg o = s.reg o := by
  rw [← State.reg_domainsOff s (s.start.domainsOn.filter (fun d => decide (d < 47))) o hdom, State.dropMain_eq]
  unfold State.refreshGuidon
  dsimp only
  simp only [State.reg_setFld, if_neg hgd, State.reg_clearBit, if_neg hfault]
  rfl

/-- R464, R535: what is lost besides with domains 47 and 48, `stage` being the stage last reached. -/
def State.withoutService (s : State) (stage : Nat) : State := { s with
  link := { perst := s.link.perst }, journal := { queue := s.journal.queue, lost := s.journal.lost }, image := none, cfg := []
  staged := [], pins := { s.pins with jtagIr := 0x01, scan := 0, floating := false, driven := none }
  start := { s.start with domainsOn := [], domainsUp := [], prevStage := stage } }

theorem RegsOnly.withoutService {s t : State} (h : RegsOnly s t) (stage : Nat) :
    RegsOnly (s.withoutService stage) (t.withoutService stage) := by
  unfold RegsOnly at *
  rw [h]
  rfl

/-- The stage last reached before this start (Table 15-5). -/
def State.lastStage (s : State) : Nat := if s.stage = 0 then s.start.prevStage else s.stage

theorem State.aoOnly_eq (s : State) : s.aoOnly =
    ((s.domainsOff (s.start.domainsOn.filter (fun d => decide (47 ≤ d)))).dropMain.withoutService s.lastStage).setStage 0 := rfl

theorem RegsOnly.aoOnly (s : State) : RegsOnly (s.withoutMain.withoutService s.lastStage) s.aoOnly := by
  rw [State.aoOnly_eq]
  exact (((RegsOnly.domainsOff s _).withoutMain.trans (.dropMain _)).withoutService _).trans (.setFld _ _ _ _ _)

theorem State.stage_aoOnly (s : State) : s.aoOnly.stage = 0 := by
  rw [State.aoOnly_eq]
  exact State.stage_setStage _ 0 (by decide)

/-! Errors of the always-on domain (R444, R535). -/

/-- While domain 48 is down the record is owed, and nothing else changes. -/
theorem State.raiseOrOwe_of_down (s : State) (e : ErrInfo) (h : s.domainUp 48 = false) :
    s.raiseOrOwe e = { s with faults := { s.faults with owed := s.faults.owed ++ [e] } } := by
  rw [State.raiseOrOwe, h, if_neg Bool.false_ne_true]

theorem EventOnly.raiseOrOwe (s : State) (e : ErrInfo) : EventOnly s (s.raiseOrOwe e) := .ite (.raiseError _ _) (.faults _ _)

theorem State.reg_raiseOrOwe (s : State) (e : ErrInfo) (o : Nat) (h : o < 0x200000 ∨ 0x300000 ≤ o) (k : o ≠ hlIntStatus) :
    (s.raiseOrOwe e).reg o = s.reg o := by
  unfold State.raiseOrOwe
  split
  · exact State.reg_raiseError s e o h k
  · rfl

theorem EventOnly.start {s t : State} (h : EventOnly s t) : t.start = s.start := by unfold EventOnly at h; rw [h]
theorem EventOnly.link {s t : State} (h : EventOnly s t) : t.link = s.link := by unfold EventOnly at h; rw [h]
theorem EventOnly.ports {s t : State} (h : EventOnly s t) : t.ports = s.ports := by unfold EventOnly at h; rw [h]
theorem EventOnly.flash0 {s t : State} (h : EventOnly s t) : t.flash0 = s.flash0 := by unfold EventOnly at h; rw [h]
theorem EventOnly.flash1 {s t : State} (h : EventOnly s t) : t.flash1 = s.flash1 := by unfold EventOnly at h; rw [h]
theorem EventOnly.fuses {s t : State} (h : EventOnly s t) : t.fuses = s.fuses := by unfold EventOnly at h; rw [h]

end Sys2Proof.Machine
end

section
/-! Power leaves the module (15_start_and_retention.md R452, R464, R465; 18_module_hardware.md R535). O32. -/

namespace Sys2Proof.Machine

open Sys2Proof

theorem exec_pwrEnDeassert (s : State) : exec .pwrEnDeassert s = execPwrEnDeassert s := rfl
theorem exec_underVoltage (s : State) : exec .underVoltage s = execUnderVoltage s := rfl
theorem exec_overVoltage (s : State) : exec .overVoltage s = execOverVoltage s := rfl
theorem exec_lossOfInput (s : State) : exec .lossOfInput s = execLossOfInput s := rfl

/-- Of the module `s` only the always-on domain runs in `t`, which keeps what R452 keeps. -/
structure AlwaysOnOnly (s t : State) : Prop where
  stage : t.stage = 0
  on : t.start.domainsOn = []
  up : t.start.domainsUp = []
  ao : t.start.aoOn = s.start.aoOn
  cores : t.cores = []
  mem : t.mem = []
  jobs : t.jobs = []
  ports : t.ports = []
  cfg : t.cfg = []
  image : t.image = none
  queue : t.journal.queue = s.journal.queue
  flash0 : t.flash0 = s.flash0
  flash1 : t.flash1 = s.flash1
  fuses : t.fuses = s.fuses
  pending : t.pending = s.pending

theorem State.alwaysOnOnly_aoOnly (s : State) : AlwaysOnOnly s s.aoOnly := by
  have hstage := s.stage_aoOnly
  have heq := RegsOnly.aoOnly s
  unfold RegsOnly at heq
  generalize s.aoOnly = t at heq hstage ⊢
  rw [heq] at hstage ⊢
  exact ⟨hstage, rfl, rfl, rfl, rfl, rfl, rfl, rfl, rfl, rfl, rfl, rfl, rfl, rfl, rfl⟩

/-- The start and fault state may be noted anew, while no domain is on. -/
theorem AlwaysOnOnly.note {s t : State} (h : AlwaysOnOnly s t) (n : Nat) (x : StartState) (f : FaultState) (hon : x.domainsOn = [])
    (hup : x.domainsUp = []) (hao : x.aoOn = s.start.aoOn) : AlwaysOnOnly s { t with freeCtr := n, start := x, faults := f } :=
  ⟨(State.stage_of_reg (State.reg_of_regs rfl _)).trans h.stage, hon, hup, hao, h.cores, h.mem, h.jobs, h.ports, h.cfg, h.image,
    h.queue, h.flash0, h.flash1, h.fuses, h.pending⟩

/-- R535: the record of an input condition, with its reading. -/
def inputRecord (reading : Nat) : ErrInfo := { code := 0x0901, unit := 14, index := 49, action := 7, d5 := 49, d6 := reading }

/-- R535: with domain 48 off, the record of an input condition is owed. -/
theorem State.inputFault_eq (s : State) : s.inputFault = { s.aoOnly with
    freeCtr := s.aoOnly.freeCtr + 1, start := { s.aoOnly.start with cause := 1 }
    faults := { s.aoOnly.faults with owed := s.aoOnly.faults.owed ++ [inputRecord s.aoOnly.free.1] } } := by
  have hdown : s.aoOnly.free.2.domainUp 48 = false := by
    rw [State.domainUp, State.free, s.alwaysOnOnly_aoOnly.up]
    rfl
  unfold State.inputFault
  dsimp only
  rw [State.raiseOrOwe_of_down _ _ hdown]
  generalize s.aoOnly = t
  rfl

theorem State.alwaysOnOnly_inputFault (s : State) : AlwaysOnOnly s s.inputFault := by
  have hoff := s.alwaysOnOnly_aoOnly
  rw [State.inputFault_eq]
  exact hoff.note _ _ _ hoff.on hoff.up hoff.ao

/-- R535: PWR_EN stays through an input condition, and the next start shows POWER_ON. -/
theorem State.inputFault_start (s : State) : s.inputFault.start.pwrEn = s.start.pwrEn ∧ s.inputFault.start.cause = 1 := by
  rw [State.inputFault_eq, (RegsOnly.aoOnly s).start]
  exact ⟨rfl, rfl⟩

theorem State.inputFault_owed (s : State) : s.inputFault.faults.owed = s.faults.owed ++ [inputRecord s.aoOnly.free.1] := by
  rw [State.inputFault_eq, (RegsOnly.aoOnly s).faults]
  rfl

theorem exec_pwrEnDeassert_of_on (s : State) (h : s.start.aoOn = true) :
    exec .pwrEnDeassert s = .next (State.aoOnly { s with start := { s.start with pwrEn := false } }) := by
  rw [exec_pwrEnDeassert, execPwrEnDeassert]
  dsimp only
  rw [if_pos h]

theorem exec_underVoltage_of_on (s : State) (h : s.start.aoOn = true) (hon : s.start.domainsOn ≠ []) :
    exec .underVoltage s = .next { s.inputFault with start := { s.inputFault.start with input := false } } := by
  have hcond : ¬ (!s.start.aoOn || s.start.domainsOn.isEmpty) = true := by simp [h, hon]
  rw [exec_underVoltage, execUnderVoltage, if_neg hcond]

theorem exec_overVoltage_of_on (s : State) (h : s.start.aoOn = true) :
    exec .overVoltage s = .next { s.inputFault with start := { s.inputFault.start with overVolt := true } } := by
  have hcond : ¬ (!s.start.aoOn) = true := by simp [h]
  rw [exec_overVoltage, execOverVoltage, if_neg hcond]

/-- What an event of the input or of PWR_EN leaves of the start state, and the record that it owes. -/
def InputEventNoted (s t : State) (c : Instr) : Prop :=
  (c = .pwrEnDeassert → t.start.pwrEn = false ∧ t.faults.owed = s.faults.owed) ∧
  (c ≠ .pwrEnDeassert → t.start.pwrEn = s.start.pwrEn ∧ t.start.cause = 1 ∧
    ∃ e : ErrInfo, t.faults.owed = s.faults.owed ++ [e] ∧ e.code = 0x0901 ∧ e.action = 7 ∧ e.d5 = 49) ∧
  (c = .underVoltage → t.start.input = false) ∧ (c = .overVoltage → t.start.overVolt = true)

theorem inputEvent_turns_off (s : State) (c : Instr) (hc : c = .pwrEnDeassert ∨ c = .underVoltage ∨ c = .overVoltage)
    (hao : s.start.aoOn = true) (hon : s.start.domainsOn ≠ []) :
    ∃ t, exec c s = .next t ∧ AlwaysOnOnly s t ∧ InputEventNoted s t c := by
  have hfault := s.alwaysOnOnly_inputFault
  obtain ⟨hpwr, hcause⟩ := s.inputFault_start
  have howed := s.inputFault_owed
  rcases hc with rfl | rfl | rfl
  · have hoff := State.alwaysOnOnly_aoOnly { s with start := { s.start with pwrEn := false } }
    have hstart := (RegsOnly.aoOnly { s with start := { s.start with pwrEn := false } }).start
    have hfaults := (RegsOnly.aoOnly { s with start := { s.start with pwrEn := false } }).faults
    refine ⟨_, exec_pwrEnDeassert_of_on s hao, ⟨hoff.stage, hoff.on, hoff.up, hoff.ao, hoff.cores, hoff.mem, hoff.jobs, hoff.ports,
      hoff.cfg, hoff.image, hoff.queue, hoff.flash0, hoff.flash1, hoff.fuses, hoff.pending⟩, fun _ => ?_, fun h => absurd rfl h,
      nofun, nofun⟩
    rw [hstart, hfaults]
    exact ⟨rfl, rfl⟩
  · exact ⟨_, exec_underVoltage_of_on s hao hon, hfault.note _ _ _ hfault.on hfault.up hfault.ao, nofun,
      fun _ => ⟨hpwr, hcause, _, howed, rfl, rfl, rfl⟩, fun _ => rfl, nofun⟩
  · exact ⟨_, exec_overVoltage_of_on s hao, hfault.note _ _ _ hfault.on hfault.up hfault.ao, nofun,
      fun _ => ⟨hpwr, hcause, _, howed, rfl, rfl, rfl⟩, nofun, fun _ => rfl⟩

/-- Settles O32: each event leaves the always-on domain alone running, and the two input conditions owe their record besides. -/
theorem inputEventsTurnTheModuleOff : Obligations.InputEventsTurnTheModuleOff := by
  unfold Obligations.InputEventsTurnTheModuleOff
  intro s c hc
  refine ⟨fun hao hon => ?_, exec_lossOfInput s⟩
  obtain ⟨t, hexec, hoff, hnoted⟩ := inputEvent_turns_off s c (by simpa using hc) hao hon
  exact ⟨t, hexec, hoff.stage, hoff.on, hoff.up, hoff.ao.trans hao, hoff.cores, hoff.mem, hoff.jobs, hoff.ports, hoff.cfg, hoff.image,
    hoff.queue, hoff.flash0, hoff.flash1, hoff.fuses, hoff.pending, hnoted⟩

end Sys2Proof.Machine
end

section
/-! A domain's ramp ends (15_start_and_retention.md R444, R445, Table 15-2): it is up, or it is off until the next start. O36. -/

namespace Sys2Proof.Machine

open Sys2Proof

theorem exec_softStartEnd (d : DomainId) (r : RailReading) (s : State) : exec (.softStartEnd d r) s = execSoftStartEnd d r s := rfl
theorem exec_shortedOutput (d : DomainId) (s : State) : exec (.shortedOutput d) s = execShortedOutput d s := rfl

theorem exec_softStartEnd_of_good (d : DomainId) (r : RailReading) (s : State) (h : s.ramping d.val = true) (hgood : r.target ≤ 2 * r.output) :
    exec (.softStartEnd d r) s = .next (s.raiseDomain d.val r).advanceStart := by
  have hramp : ¬ (!s.ramping d.val) = true := by simp [h]
  rw [exec_softStartEnd, execSoftStartEnd, if_neg hramp, if_neg (Nat.not_lt.mpr hgood)]

theorem exec_softStartEnd_of_low (d : DomainId) (r : RailReading) (s : State) (h : s.ramping d.val = true) (hlow : 2 * r.output < r.target) :
    exec (.softStartEnd d r) s = .next (s.failDomain d.val).advanceStart := by
  have hramp : ¬ (!s.ramping d.val) = true := by simp [h]
  rw [exec_softStartEnd, execSoftStartEnd, if_neg hramp, if_pos hlow]

theorem exec_shortedOutput_of_ramping (d : DomainId) (s : State) (h : s.ramping d.val = true) :
    exec (.shortedOutput d) s = .next (s.failDomain d.val).advanceStart := by
  rw [exec_shortedOutput, execShortedOutput, if_pos h]

theorem exec_rail_of_not_ramping (d : DomainId) (r : RailReading) (s : State) (h : s.ramping d.val = false) :
    exec (.softStartEnd d r) s = .next s ∧ exec (.shortedOutput d) s = .next s := by
  have hramp : (!s.ramping d.val) = true := by simp [h]
  exact ⟨by rw [exec_softStartEnd, execSoftStartEnd, if_pos hramp],
    by rw [exec_shortedOutput, execShortedOutput, if_neg (by simp [h])]⟩

theorem senseOpen_iff (r : RailReading) : senseOpen r = true ↔
    r.remote + 50 < r.localMv ∨ r.localMv + 50 < r.remote ∨ 5 * r.remote < r.target ∨ 3 * r.target < 2 * r.remote := by
  simp only [senseOpen, Bool.or_eq_true, decide_eq_true_iff, or_assoc]

/-! A domain that has ramped (R444). -/

/-- The domain is up and DOM_STATE shows its rail. -/
def State.railUp (s : State) (d : Nat) (r : RailReading) : State :=
  (State.setFld { s with start := { s.start with domainsUp := s.start.domainsUp ++ [d] } } (domState d) 15 0 r.target).setFld
    (domState d) 32 32 1

/-- START_SENSE_LOCAL and DOM_STATE show that the domain regulates on local sense. -/
def State.senseLocal (s : State) (d : Nat) : State := (s.setFld (imgReg 0x810) d d 1).setFld (domState d) 34 34 1

theorem State.raiseDomain_of_open (s : State) (d : Nat) (r : RailReading) (h : senseOpen r = true) : s.raiseDomain d r =
    ((s.railUp d r).senseLocal d).raiseOrOwe { code := 0x0902, unit := 17, index := d, d5 := d } := by
  rw [State.raiseDomain, if_pos h]
  rfl

theorem State.raiseDomain_of_not_open (s : State) (d : Nat) (r : RailReading) (h : ¬ senseOpen r = true) :
    s.raiseDomain d r = s.railUp d r := by
  rw [State.raiseDomain, if_neg h]
  rfl

theorem domState_ne_imgReg (d : DomainId) (o : Nat) (h : 0x800 ≤ o) : domState d.val ≠ imgReg o := by
  have := domState_below d
  unfold imgReg
  omega

theorem State.rfld_railUp (s : State) (d : DomainId) (r : RailReading) :
    (s.railUp d.val r).rfld (domState d.val) 15 0 = r.target % 65536 ∧ (s.railUp d.val r).rfld (domState d.val) 32 32 = 1 := by
  refine ⟨?_, State.rfld_setFld_same _ _ _ _ _ (by decide) (by decide)⟩
  rw [State.railUp, State.rfld, State.reg_setFld, if_pos rfl, Word.fld_putFld_below _ _ _ _ _ _ (by decide) (by decide) (by decide)]
  exact State.rfld_setFld_same _ _ _ _ _ (by decide) (by decide)

theorem State.reg_railUp (s : State) (d : Nat) (r : RailReading) (o : Nat) (h : o ≠ domState d) : (s.railUp d r).reg o = s.reg o := by
  rw [State.railUp, State.reg_setFld, if_neg h, State.reg_setFld, if_neg h]
  rfl

theorem State.faults_railUp (s : State) (d : Nat) (r : RailReading) : (s.railUp d r).faults = s.faults := by
  rw [State.railUp, State.setFld_faults, State.setFld_faults]

/-- Local sense shows in no field of DOM_STATE below bit 34. -/
theorem State.rfld_senseLocal (s : State) (d : DomainId) (h l : Nat) (hh : h < 34) :
    (s.senseLocal d.val).rfld (domState d.val) h l = s.rfld (domState d.val) h l := by
  rw [State.senseLocal, State.rfld, State.reg_setFld, if_pos rfl, Word.fld_putFld_below _ _ _ _ _ _ (by decide) (by decide) hh,
    State.reg_setFld, if_neg (domState_ne_imgReg d _ (by decide)), State.rfld]

theorem State.rfld_senseLocal_bit (s : State) (d : DomainId) : (s.senseLocal d.val).rfld (imgReg 0x810) d.val d.val = 1 := by
  have hd : d.val ≤ 63 := by omega
  rw [State.senseLocal, State.rfld_setFld_other _ _ _ _ _ _ _ _ (domState_ne_imgReg d _ (by decide)).symm]
  exact State.rfld_setBit_same _ _ _ hd

theorem domState_recorded (d : Nat) : (domState d < 0x200000 ∨ 0x300000 ≤ domState d) ∧ domState d ≠ hlIntStatus := by
  have := domState_above d
  unfold hlIntStatus
  omega

theorem State.rfld_raiseOrOwe_dom (s : State) (e : ErrInfo) (d h l : Nat) : (s.raiseOrOwe e).rfld (domState d) h l = s.rfld (domState d) h l :=
  State.rfld_of_reg (State.reg_raiseOrOwe s e _ (domState_recorded d).1 (domState_recorded d).2) h l

theorem imgReg_recorded (o : Nat) : (imgReg o < 0x200000 ∨ 0x300000 ≤ imgReg o) ∧ imgReg o ≠ hlIntStatus := by
  unfold imgReg hlIntStatus
  omega

theorem State.rfld_raiseOrOwe_img (s : State) (e : ErrInfo) (o h l : Nat) : (s.raiseOrOwe e).rfld (imgReg o) h l = s.rfld (imgReg o) h l :=
  State.rfld_of_reg (State.reg_raiseOrOwe s e _ (imgReg_recorded o).1 (imgReg_recorded o).2) h l

/-- R444: the domain is up, and no other changes. -/
theorem State.raiseDomain_start (s : State) (d : Nat) (r : RailReading) :
    (s.raiseDomain d r).start = { s.start with domainsUp := s.start.domainsUp ++ [d] } := by
  by_cases hopen : senseOpen r = true
  · rw [State.raiseDomain_of_open s d r hopen, (EventOnly.raiseOrOwe _ _).start]
    rfl
  · rw [State.raiseDomain_of_not_open s d r hopen]
    rfl

theorem State.rfld_raiseDomain (s : State) (d : DomainId) (r : RailReading) :
    (s.raiseDomain d.val r).rfld (domState d.val) 15 0 = r.target % 65536 ∧ (s.raiseDomain d.val r).rfld (domState d.val) 32 32 = 1 := by
  obtain ⟨hrail, hon⟩ := s.rfld_railUp d r
  by_cases hopen : senseOpen r = true
  · rw [State.raiseDomain_of_open s d.val r hopen]
    simp only [State.rfld_raiseOrOwe_dom]
    rw [State.rfld_senseLocal _ d _ _ (by decide), State.rfld_senseLocal _ d _ _ (by decide)]
    exact ⟨hrail, hon⟩
  · rw [State.raiseDomain_of_not_open s d.val r hopen]
    exact ⟨hrail, hon⟩

theorem RegsOnly.senseLocal (s : State) (d : Nat) : RegsOnly s (s.senseLocal d) := (RegsOnly.setFld _ _ _ _ _).trans (.setFld _ _ _ _ _)

theorem RegsOnly.domainUp {s t : State} (h : RegsOnly s t) (d : Nat) : t.domainUp d = s.domainUp d := by
  rw [State.domainUp, h.start, State.domainUp]

/-- Another domain's end of ramp leaves domain 48 down. -/
theorem State.domainUp_railUp (s : State) (d : Nat) (r : RailReading) (h : s.domainUp 48 = false) (hd : d ≠ 48) :
    (s.railUp d r).domainUp 48 = false := by
  have hmem : 48 ∉ s.start.domainsUp := by simpa [State.domainUp] using h
  simp [State.domainUp, State.railUp, hmem, hd.symm]

theorem State.owed_raiseDomain_of_open (s : State) (d : Nat) (r : RailReading) (hopen : senseOpen r = true) (h : s.domainUp 48 = false)
    (hd : d ≠ 48) : (s.raiseDomain d r).faults.owed = s.faults.owed ++ [{ code := 0x0902, unit := 17, index := d, d5 := d }] := by
  have hlocal := RegsOnly.senseLocal (s.railUp d r) d
  have hdown := (hlocal.domainUp 48).trans (s.domainUp_railUp d r h hd)
  rw [State.raiseDomain_of_open s d r hopen, State.raiseOrOwe_of_down _ _ hdown, hlocal.faults, State.faults_railUp]

/-! A domain that fails (R444, R445). -/

/-- START_DOMAIN_FAIL, DOM_STATE and DEGRADED show that the domain has failed. -/
def State.showFailed (s : State) (d : Nat) : State := ((s.setFld (imgReg 0x808) d d 1).setFld (domState d) 33 33 1).setBit startStatus 4

theorem RegsOnly.showFailed (s : State) (d : Nat) : RegsOnly s (s.showFailed d) :=
  ((RegsOnly.setFld _ _ _ _ _).trans (.setFld _ _ _ _ _)).trans (.setFld _ _ _ _ _)

theorem State.rfld_showFailed (s : State) (d : DomainId) :
    (s.showFailed d.val).rfld (imgReg 0x808) d.val d.val = 1 ∧ (s.showFailed d.val).rfld startStatus 4 4 = 1 := by
  have hd : d.val ≤ 63 := by omega
  refine ⟨?_, State.rfld_setBit_same _ _ _ (by decide)⟩
  rw [State.showFailed, State.setBit, State.rfld_setFld_other _ _ _ _ _ _ _ _ (by decide),
    State.rfld_setFld_other _ _ _ _ _ _ _ _ (domState_ne_imgReg d _ (by decide)).symm]
  exact State.rfld_setBit_same _ _ _ hd

/-- The failed domain is off, and its record's free value is drawn. -/
def State.turnedOff (s : State) (d : Nat) : State :=
  { s with start := { s.start with domainsOn := s.start.domainsOn.filter (fun x => x != d) }, freeCtr := s.freeCtr + 1 }

/-- The record of a failed domain. -/
def failRecord (d f : Nat) : ErrInfo := { code := 0x0901, unit := 17, index := d, action := 7, d5 := d, d6 := f }

theorem State.failDomain_eq (s : State) (d : Nat) :
    s.failDomain d = (((s.turnedOff d).showFailed d).raiseOrOwe (failRecord d s.free.1)).refreshPins := rfl

theorem EventOnly.failDomain (s : State) (d : Nat) : EventOnly ((s.turnedOff d).showFailed d) (s.failDomain d) :=
  (EventOnly.raiseOrOwe _ _).trans (.refreshPins _)

theorem State.failDomain_start (s : State) (d : Nat) :
    (s.failDomain d).start = { s.start with domainsOn := s.start.domainsOn.filter (fun x => x != d) } := by
  rw [(EventOnly.failDomain s d).start, (RegsOnly.showFailed _ d).start]
  rfl

theorem State.reg_refreshPins (s : State) (o : Nat) : s.refreshPins.reg o = s.reg o := by
  unfold State.refreshPins
  dsimp only
  split <;> rfl

theorem State.faults_refreshPins (s : State) : s.refreshPins.faults = s.faults := by
  unfold State.refreshPins
  dsimp only
  split <;> rfl

theorem State.rfld_failDomain (s : State) (d : DomainId) (o h l : Nat) :
    (s.failDomain d.val).rfld (imgReg o) h l = ((s.turnedOff d.val).showFailed d.val).rfld (imgReg o) h l := by
  rw [State.failDomain_eq, State.rfld_of_reg (State.reg_refreshPins _ _), State.rfld_raiseOrOwe_img]

/-- DEGRADED holds MOD_FAULT# asserted (Table 16-10). -/
theorem State.modFaultNow_of_degraded (s : State) (h : s.rfld startStatus 4 4 = 1) : s.modFaultNow = true := by
  simp [State.modFaultNow, h]

theorem State.modFault_failDomain (s : State) (d : DomainId) : (s.failDomain d.val).pins.modFault = true := by
  rw [State.failDomain_eq, State.modFault_refreshPins]
  refine State.modFaultNow_of_degraded _ ?_
  rw [startStatus, State.rfld_raiseOrOwe_img]
  exact (State.rfld_showFailed _ d).2

theorem State.owed_failDomain (s : State) (d : Nat) (h : s.domainUp 48 = false) :
    (s.failDomain d).faults.owed = s.faults.owed ++ [failRecord d s.free.1] := by
  have hdown : ((s.turnedOff d).showFailed d).domainUp 48 = false := ((RegsOnly.showFailed _ d).domainUp 48).trans h
  rw [State.failDomain_eq, State.faults_refreshPins, State.raiseOrOwe_of_down _ _ hdown, (RegsOnly.showFailed _ d).faults]
  rfl

/-- Settles O36: a good output is `State.raiseDomain`, a low or shorted one `State.failDomain`. -/
theorem railChecksAtSoftStart : Obligations.RailChecksAtSoftStart := by
  unfold Obligations.RailChecksAtSoftStart
  intro s d r
  refine ⟨fun hramp => ⟨fun hgood => ?_, fun c hc => ?_⟩, exec_rail_of_not_ramping d r s⟩
  · have hstart := s.raiseDomain_start d.val r
    obtain ⟨hrail, hon⟩ := s.rfld_raiseDomain d r
    refine ⟨s.raiseDomain d.val r, exec_softStartEnd_of_good d r s hramp hgood, by rw [hstart], by rw [hstart], hrail, hon, fun h => ?_,
      fun h => ?_⟩
    · have hopen := (senseOpen_iff r).mpr h
      refine ⟨?_, s.owed_raiseDomain_of_open d.val r hopen⟩
      rw [State.raiseDomain_of_open s d.val r hopen, State.rfld_raiseOrOwe_img]
      exact State.rfld_senseLocal_bit _ d
    · rw [State.raiseDomain_of_not_open s d.val r (fun hopen => h ((senseOpen_iff r).mp hopen))]
      exact ⟨s.reg_railUp d.val r _ (domState_ne_imgReg d _ (by decide)).symm, s.faults_railUp d.val r⟩
  · have hexec : exec c s = .next (s.failDomain d.val).advanceStart := by
      rcases hc with rfl | ⟨rfl, hlow⟩
      · exact exec_shortedOutput_of_ramping d s hramp
      · exact exec_softStartEnd_of_low d r s hramp hlow
    have hstart := s.failDomain_start d.val
    obtain ⟨hfail, hdegraded⟩ := (s.turnedOff d.val).rfld_showFailed d
    refine ⟨s.failDomain d.val, hexec, by rw [hstart]; simp, by rw [hstart], (s.rfld_failDomain d _ _ _).trans hfail,
      (s.rfld_failDomain d 0x800 4 4).trans hdegraded, s.modFault_failDomain d, ?_, fun hdown => ⟨_, s.owed_failDomain d.val hdown⟩⟩
    rw [(EventOnly.failDomain s d.val).mem]
    rfl

end Sys2Proof.Machine
end

section
/-! A start begins (15_start_and_retention.md Table 15-1, R443, R446, R452; 17_pace_power_thermal.md R518; 18_module_hardware.md R535,
R536, R542). O34. -/

namespace Sys2Proof.Machine

open Sys2Proof

theorem exec_inputRise (straps : Nat) (s : State) : exec (.inputRise straps) s = execInputRise straps s := rfl
theorem exec_tripRecovery (s : State) : exec .tripRecovery s = execTripRecovery s := rfl

/-! What a start keeps (R404, R452, R542). -/

theorem State.refreshPins_eq (s : State) : s.refreshPins = { s with pins := s.refreshPins.pins } := by
  unfold State.refreshPins
  dsimp only
  split <;> rfl

theorem State.smbAddr_refreshPins (s : State) : s.refreshPins.pins.smbAddr = s.pins.smbAddr := by
  unfold State.refreshPins
  dsimp only
  split <;> rfl

/-- The machine anew with what a start keeps, no cause being due any more. -/
def State.anew (s : State) (on up : List Nat) : State := { s.kept on up with start := { (s.kept on up).start with cause := 0 } }

/-- START_STATUS shows the cause, and the identity registers show the fuses. -/
def State.showStart (s : State) (cause serial stepping : Nat) : State :=
  ((s.setFld startStatus 15 8 cause).setReg (fabReg 8) (BitVec.ofNat 64 serial)).setReg 0
    (BitVec.ofNat 64 (0x1296 + stepping % 256 * 2 ^ 16))

theorem RegsOnly.showStart (s : State) (cause serial stepping : Nat) : RegsOnly s (s.showStart cause serial stepping) :=
  ((RegsOnly.setFld _ _ _ _ _).trans (.setReg _ _ _)).trans (.setReg _ _ _)

/-- A start as its first row is about to be powered. -/
def State.freshStart (s : State) (cause : Nat) (on up : List Nat) : State :=
  ((s.anew on up).showStart cause s.fuses.serial s.fuses.stepping).refreshPins

theorem State.beginStart_eq (s : State) (cause : Nat) (on up : List Nat) : s.beginStart cause on up = (s.freshStart cause on up).advanceStart := rfl

theorem State.reg_showStart (s : State) (cause serial stepping o : Nat) (hfab : o ≠ fabReg 8) (hid : o ≠ 0) :
    (s.showStart cause serial stepping).reg o = (s.setFld startStatus 15 8 cause).reg o := by
  rw [State.showStart, State.reg_setReg, if_neg hid, State.reg_setReg, if_neg hfab]

theorem State.reg_anew (s : State) (on up : List Nat) (o : Nat) : (s.anew on up).reg o = 0 := SMap.getD_nil o 0

theorem State.reg_freshStart (s : State) (cause : Nat) (on up : List Nat) (o : Nat) (hfab : o ≠ fabReg 8) (hid : o ≠ 0) :
    (s.freshStart cause on up).reg o = ((s.anew on up).setFld startStatus 15 8 cause).reg o := by
  rw [State.freshStart, State.reg_refreshPins, State.reg_showStart _ _ _ _ _ hfab hid]

/-- In `t` a start of `s` with `cause` has begun: of `s` it has what R404, R452 and R542 keep, `on` is the list of the domains on, and
everything else begins anew. -/
structure StartBegun (s t : State) (cause : Nat) (on up : List Nat) : Prop where
  cause : t.rfld startStatus 15 8 = cause % 256
  on : t.start.domainsOn = on
  up : t.start.domainsUp = up
  trip : t.start.trip = false
  cores : t.cores = []
  mem : t.mem = []
  ports : t.ports = []
  jobs : t.jobs = []
  cfg : t.cfg = []
  image : t.image = none
  queue : t.journal.queue = s.journal.queue
  owed : t.faults.owed = s.faults.owed
  flash0 : t.flash0 = s.flash0
  flash1 : t.flash1 = s.flash1
  fuses : t.fuses = s.fuses
  pending : t.pending = s.pending
  smbAddr : t.pins.smbAddr = s.pins.smbAddr

theorem State.rfld_withStart (s : State) (x : StartState) (o h l : Nat) : State.rfld { s with start := x } o h l = s.rfld o h l := rfl

theorem State.stage_withStart (s : State) (x : StartState) : State.stage { s with start := x } = s.stage := rfl

/-- A start that has begun may power further domains. -/
theorem StartBegun.withOn {s t : State} {cause : Nat} {on up : List Nat} (h : StartBegun s t cause on up) (on' : List Nat) :
    StartBegun s { t with start := { t.start with domainsOn := on' } } cause on' up :=
  ⟨(t.rfld_withStart _ _ _ _).trans h.cause, rfl, h.up, h.trip, h.cores, h.mem, h.ports, h.jobs, h.cfg, h.image, h.queue, h.owed,
    h.flash0, h.flash1, h.fuses, h.pending, h.smbAddr⟩

section
variable (s : State) (cause : Nat) (on up : List Nat)

theorem State.begun_freshStart : StartBegun s (s.freshStart cause on up) cause on up := by
  have hcause : (s.freshStart cause on up).rfld startStatus 15 8 = cause % 256 := by
    rw [State.rfld_of_reg (s.reg_freshStart cause on up _ (by decide) (by decide))]
    exact State.rfld_setFld_same _ _ _ _ _ (by decide) (by decide)
  have hpins := State.smbAddr_refreshPins ((s.anew on up).showStart cause s.fuses.serial s.fuses.stepping)
  have heq := State.refreshPins_eq ((s.anew on up).showStart cause s.fuses.serial s.fuses.stepping)
  have hshow := RegsOnly.showStart (s.anew on up) cause s.fuses.serial s.fuses.stepping
  rw [← State.freshStart] at heq hpins
  unfold RegsOnly at hshow
  generalize s.freshStart cause on up = t at hcause hpins heq ⊢
  generalize (s.anew on up).showStart cause s.fuses.serial s.fuses.stepping = u at hpins heq hshow
  rw [hshow] at heq hpins
  rw [heq] at hcause hpins ⊢
  exact ⟨hcause, rfl, rfl, rfl, rfl, rfl, rfl, rfl, rfl, rfl, rfl, rfl, rfl, rfl, rfl, rfl, hpins⟩

theorem State.stage_freshStart : (s.freshStart cause on up).stage = 0 := by
  rw [State.stage_of_reg (s.reg_freshStart cause on up _ (by decide) (by decide)), State.stage, State.rfld, State.reg_setFld, if_pos rfl,
    Word.fld_putFld_below _ _ _ _ _ _ (by decide) (by decide) (by decide), State.reg_anew]
  rfl

/-- At the beginning of a start no domain has failed. -/
theorem State.domainFailed_freshStart (d : Nat) : (s.freshStart cause on up).domainFailed d = false := by
  rw [State.domainFailed, State.rfld, s.reg_freshStart cause on up _ (by decide) (by decide), State.reg_setFld, if_neg (by decide),
    State.reg_anew]
  simp [Word.fld, bits]

theorem State.deadDomains_freshStart : (s.freshStart cause on up).pace.deadDomains = [] := by
  rw [State.freshStart, State.refreshPins_eq]
  have hshow := RegsOnly.showStart (s.anew on up) cause s.fuses.serial s.fuses.stepping
  unfold RegsOnly at hshow
  rw [hshow]
  rfl

/-- The domains of a row that are off, have not failed and are not dead. -/
def State.toPower (s : State) (l : List Nat) : List Nat :=
  l.filter (fun d => !s.start.domainsOn.contains d && !s.domainFailed d && !s.pace.deadDomains.contains d)

theorem State.powerRow_eq (s : State) (l : List Nat) :
    s.powerRow l = { s with start := { s.start with domainsOn := s.start.domainsOn ++ s.toPower l } } := rfl

/-- Row 1 powered at the beginning of a start. -/
def State.rowOne : State := (s.freshStart cause on up).powerRow row1

theorem State.toPower_freshStart : (s.freshStart cause on up).toPower row1 = [48, 47].filter (fun d => !on.contains d) := by
  simp only [State.toPower, State.domainFailed_freshStart, State.deadDomains_freshStart, (s.begun_freshStart cause on up).on, row1,
    List.contains_nil, Bool.not_false, Bool.and_true]

theorem State.begun_rowOne :
    StartBegun s (s.rowOne cause on up) cause (on ++ [48, 47].filter (fun d => !on.contains d)) up := by
  have h := s.begun_freshStart cause on up
  rw [State.rowOne, State.powerRow_eq, State.toPower_freshStart, h.on]
  exact h.withOn _

theorem State.stage_rowOne : (s.rowOne cause on up).stage = 0 := by
  rw [State.rowOne, State.powerRow_eq, State.stage_withStart, s.stage_freshStart cause on up]

/-- Table 15-1: a start powers row 1, and with the row settled and domain 48 up goes on to stage VERIFY. -/
theorem State.beginStart_rowOne : s.beginStart cause on up =
    if ((s.rowOne cause on up).settled row1 && (s.rowOne cause on up).domainUp 48) = true then (s.rowOne cause on up).rowOneUp
    else s.rowOne cause on up := by
  have htrip : ¬ (s.freshStart cause on up).start.trip = true := by rw [(s.begun_freshStart cause on up).trip]; decide
  rw [State.beginStart_eq, State.advanceStart, if_neg htrip, if_pos (s.stage_freshStart cause on up)]
  rfl

end

/-! Row 1 is up (R446, R454, R535). -/

theorem EventOnly.setFld (s : State) (o h l v : Nat) : EventOnly s (s.setFld o h l v) := .setReg _ _ _

theorem EventOnly.foldl {α : Type} (f : State → α → State) (l : List α) (s : State) (h : ∀ t a, EventOnly t (f t a)) :
    EventOnly s (l.foldl f s) := by
  induction l generalizing s with
  | nil => exact .refl _
  | cons a l ih => exact (h s a).trans (ih _)

theorem EventOnly.bootEntry (s : State) : EventOnly s s.bootEntry :=
  (((EventOnly.setReg _ _ _).trans (.setReg _ _ _)).trans (.setReg _ _ _)).trans (.jqueue _ _)

theorem EventOnly.rowOneUp (s : State) : EventOnly s s.rowOneUp :=
  (((EventOnly.setFld _ _ _ _ _).trans (.bootEntry _)).trans (.faults _ _)).trans (.foldl _ _ _ (fun _ _ => .raiseError _ _))

theorem State.startStatus_bootEntry (s : State) : s.bootEntry.reg startStatus = s.reg startStatus := by
  rw [State.bootEntry, (EventKeeps.jqueue _ _).1 _ (by decide) (by decide)]
  simp only [State.reg_setReg]
  rw [if_neg (by decide), if_neg (by decide), if_neg (by decide)]

/-- The cause of the start stays shown. -/
theorem State.cause_rowOneUp (s : State) : s.rowOneUp.rfld startStatus 15 8 = s.rfld startStatus 15 8 := by
  have hfold : s.rowOneUp.reg startStatus = (s.setStage 1).bootEntry.reg startStatus :=
    State.foldl_field (·.reg startStatus) _ (fun t e => State.reg_raiseError t e _ (by decide) (by decide)) _ _
  rw [State.rfld_of_reg (hfold.trans (State.startStatus_bootEntry _)), State.rfld_setStage_above _ _ _ _ (by decide)]

/-! The events that begin a start. -/

theorem State.tryStart_of_canStart (s : State) (h : s.canStart = true) :
    s.tryStart = s.beginStart (if s.start.cause = 0 then 2 else s.start.cause) [] [] := by
  rw [State.tryStart, if_pos h]

/-- The state `s` with the event noted: input, PWR_EN, over-voltage and the address straps. -/
def State.noted (s : State) (x : StartState) (addr : Nat) : State := { s with start := x, pins := { s.pins with smbAddr := addr } }

/-- R443, R536: each event notes itself, and a start may then begin. -/
theorem exec_startEvent (s : State) (c : Instr) (straps : Nat) (hc : c = .pwrEnAssert ∨ c = .inputRise straps ∨ c = .overVoltageClear)
    (htrip : s.start.trip = false) (hon : s.start.domainsOn = []) (hpwr : s.start.pwrEn = true ∨ c = .pwrEnAssert)
    (hin : s.start.input = true ∨ c = .inputRise straps) (hover : s.start.overVolt = false ∨ c = .overVoltageClear)
    (hao : s.start.aoOn = true ∨ c = .inputRise straps) :
    ∃ x, exec c s = .next (s.noted x (if s.start.aoOn = true then s.pins.smbAddr else 0x58 + straps % 8)).tryStart ∧
      x.aoOn = true ∧ x.input = true ∧ x.pwrEn = true ∧ x.overVolt = false ∧ x.trip = false ∧ x.domainsOn = [] ∧
      x.cause = if s.start.aoOn = true then s.start.cause else 1 := by
  rcases hc with rfl | rfl | rfl <;> simp only [reduceCtorEq, or_false, or_true] at hpwr hin hover hao
  · refine ⟨{ s.start with pwrEn := true }, ?_, hao, hin, rfl, hover, htrip, hon, ?_⟩
    · rw [if_pos hao]; rfl
    · rw [if_pos hao]
  · rw [exec_inputRise, execInputRise]
    dsimp only
    by_cases h : s.start.aoOn = true
    · refine ⟨{ s.start with input := true }, ?_, h, rfl, hpwr, hover, htrip, hon, ?_⟩
      · rw [if_pos h, if_pos h]; rfl
      · rw [if_pos h]
    · refine ⟨{ s.start with input := true, aoOn := true, cause := 1 }, ?_, rfl, rfl, hpwr, hover, htrip, hon, ?_⟩
      · rw [if_neg h, if_neg h]; rfl
      · rw [if_neg h]
  · refine ⟨{ s.start with overVolt := false }, ?_, hao, hin, hpwr, rfl, htrip, hon, ?_⟩
    · rw [if_pos hao]; rfl
    · rw [if_pos hao]

/-- R443: with nothing up the start waits for row 1. -/
theorem State.beginStart_of_none_up (s : State) (cause : Nat) (on : List Nat) : s.beginStart cause on [] = s.rowOne cause on [] := by
  have hdown : (s.rowOne cause on []).domainUp 48 = false := by
    rw [State.domainUp, (s.begun_rowOne cause on []).up]
    rfl
  rw [State.beginStart_rowOne, hdown, Bool.and_false, if_neg Bool.false_ne_true]

theorem exec_tripRecovery_of_up (s : State) (h : s.start.trip = true) (hup : s.start.domainsUp ≠ []) :
    exec .tripRecovery s = .next (s.beginStart 4 s.start.domainsOn s.start.domainsUp) := by
  have hheld : ¬ (!s.start.trip) = true := by simp [h]
  have hsome : ¬ s.start.domainsUp.isEmpty = true := by simp [hup]
  rw [exec_tripRecovery, execTripRecovery, if_neg hheld, if_neg hsome]

/-- Settles O34: every such start is a `State.rowOne`, and one whose row 1 is up already goes on by error events alone. -/
theorem startsBeginAnew : Obligations.StartsBeginAnew := by
  unfold Obligations.StartsBeginAnew
  intro s
  refine ⟨fun c straps hc htrip hon hpwr hin hover hao => ?_, fun htrip hup => ?_⟩
  · obtain ⟨x, hexec, xao, xin, xpwr, xover, xtrip, xon, xcause⟩ :=
      exec_startEvent s c straps (by simpa using hc) htrip hon hpwr hin hover hao
    rw [State.tryStart_of_canStart _ (by simp [State.canStart, State.noted, xao, xin, xpwr, xover, xtrip, xon]),
      State.beginStart_of_none_up] at hexec
    have h := State.begun_rowOne (s.noted x (if s.start.aoOn = true then s.pins.smbAddr else 0x58 + straps % 8))
      (if x.cause = 0 then 2 else x.cause) [] []
    refine ⟨_, hexec, h.on, h.up, State.stage_rowOne _ _ _ _, h.cause.trans ?_, h.cores, h.mem, h.ports, h.jobs, h.cfg, h.image,
      h.queue, h.owed, h.flash0, h.flash1, h.fuses, h.pending, h.smbAddr⟩
    rw [xcause]
    by_cases h : s.start.aoOn = true
    · simp only [if_pos h]
    · simp only [if_neg h]
      rfl
  · have h := s.begun_rowOne 4 s.start.domainsOn s.start.domainsUp
    have hgoes : ∃ t, exec .tripRecovery s = .next t ∧ EventOnly (s.rowOne 4 s.start.domainsOn s.start.domainsUp) t ∧
        t.rfld startStatus 15 8 = 4 := by
      rw [exec_tripRecovery_of_up s htrip hup, State.beginStart_rowOne]
      split
      · exact ⟨_, rfl, .rowOneUp _, (State.cause_rowOneUp _).trans h.cause⟩
      · exact ⟨_, rfl, .refl _, h.cause⟩
    obtain ⟨t, hexec, hevent, hcause⟩ := hgoes
    have hstart := hevent.start
    refine ⟨t, hexec, by rw [hstart, h.trip], by rw [hstart, h.up], fun d => ?_, hcause, hevent.cores.trans h.cores,
      hevent.mem.trans h.mem, hevent.ports.trans h.ports, hevent.flash0.trans h.flash0, hevent.flash1.trans h.flash1,
      hevent.fuses.trans h.fuses⟩
    rw [hstart, h.on]
    by_cases hd : d ∈ s.start.domainsOn
    · simp [hd]
    · simp only [List.mem_append, List.mem_filter, List.mem_cons, List.not_mem_nil, or_false, hd, false_or, and_iff_left_iff_imp]
      intro _
      simp [hd]

end Sys2Proof.Machine
end

section
/-! SHUTDOWN (15_start_and_retention.md R463, Table 15-5; 13_host_link.md R402). The ports that stop and the journal's last flush leave the
host link and the domains alone, so the command that runs is answered and domains 0 to 46 turn off. O42. -/

namespace Sys2Proof.Machine

open Sys2Proof

theorem exec_shutdownDrain (s : State) : exec .shutdownDrain s = execShutdownDrain s := rfl
theorem exec_shutdownImmediate (s : State) : exec .shutdownImmediate s = execShutdownImmediate s := rfl
theorem exec_shutdownTimeout (s : State) : exec .shutdownTimeout s = execShutdownTimeout s := rfl

/-! What keeps the domains and the host link. -/

/-- The domains and the start's progress, and the host link, are the same in `t` as in `s`. -/
def StartLinkKept (s t : State) : Prop := t.start = s.start ∧ t.link = s.link

theorem StartLinkKept.refl (s : State) : StartLinkKept s s := ⟨rfl, rfl⟩

theorem StartLinkKept.trans {s t u : State} (h : StartLinkKept s t) (k : StartLinkKept t u) : StartLinkKept s u :=
  ⟨k.1.trans h.1, k.2.trans h.2⟩

theorem StartLinkKept.ite {s a b : State} {c : Prop} [Decidable c] (ha : StartLinkKept s a) (hb : StartLinkKept s b) :
    StartLinkKept s (if c then a else b) := by split <;> assumption

theorem StartLinkKept.foldl {α : Type} (f : State → α → State) (l : List α) (s : State) (h : ∀ t a, StartLinkKept t (f t a)) :
    StartLinkKept s (l.foldl f s) := by
  induction l generalizing s with
  | nil => exact .refl _
  | cons a l ih => exact (h s a).trans (ih _)

theorem StartLinkKept.of_event {s t : State} (h : EventOnly s t) : StartLinkKept s t := ⟨h.start, h.link⟩

theorem StartLinkKept.of_linkOnly {s t : State} (h : LinkOnly s t) : StartLinkKept s t := by
  unfold LinkOnly at h
  rw [h]
  exact ⟨rfl, rfl⟩

theorem StartLinkKept.setReg (s : State) (o : Nat) (v : Word) : StartLinkKept s (s.setReg o v) := ⟨rfl, rfl⟩

theorem StartLinkKept.inc (s : State) (o n : Nat) : StartLinkKept s (s.inc o n) := .of_event (.inc _ _ _)

theorem StartLinkKept.fabric (s : State) (f : FabricState) : StartLinkKept s { s with fabric := f } := ⟨rfl, rfl⟩

theorem StartLinkKept.journal (s : State) (j : Journal) : StartLinkKept s { s with journal := j } := ⟨rfl, rfl⟩

/-! Ports that go down (R319). -/

theorem EventOnly.messageLost (s : State) (p : Nat) (m : Message) : EventOnly s (s.messageLost p m) :=
  .ite (.raiseError _ _) (.serviceError _ _ _ _ _ _ _ _ _ _)

theorem StartLinkKept.announce (s : State) : StartLinkKept s s.announce := by
  unfold State.announce
  refine .ite (.refl _) ?_
  exact ((((StartLinkKept.fabric s _).trans (.fabric _ _)).trans (.setReg _ _ _)).trans (.of_event (.jqueue _ _))).trans
    (.foldl _ _ _ (fun _ _ => .of_linkOnly (.sendBeacon _ _ _)))

theorem StartLinkKept.leaveUp (s : State) (p : Nat) : StartLinkKept s (s.leaveUp p) :=
  ((StartLinkKept.fabric s _).trans (.fabric _ _)).trans (.announce _)

theorem StartLinkKept.dropPort (s : State) (p : Nat) : StartLinkKept s (s.dropPort p) :=
  (StartLinkKept.of_linkOnly (.updPort s p _)).trans (.foldl _ _ _ (fun _ _ => (StartLinkKept.inc _ _ _).trans (.of_event (.messageLost _ _ _))))

theorem StartLinkKept.takeDown (s : State) (p st reason : Nat) : StartLinkKept s (s.takeDown p st reason) := by
  have hset : StartLinkKept s (s.setPort p st reason) := .of_linkOnly (.updPort _ _ _)
  have hdrop := StartLinkKept.ite (c := ((s.port p).state = 6 || (s.port p).state = 7) = true) (hset.trans (.dropPort _ p)) hset
  exact .ite (hdrop.trans (.leaveUp _ _)) hdrop

/-! The journal's last flush (R451). -/

theorem StartLinkKept.onFlash (s : State) (f : FlashDevice → FlashDevice) : StartLinkKept s (s.onFlash f) := ⟨rfl, rfl⟩

theorem StartLinkKept.refreshJournal (s : State) : StartLinkKept s s.refreshJournal :=
  (((StartLinkKept.setReg _ _ _).trans (.setReg _ _ _)).trans (.setReg _ _ _)).trans (.setReg _ _ _)

theorem StartLinkKept.writeSnapshot (s : State) : StartLinkKept s s.writeSnapshot :=
  (((StartLinkKept.onFlash _ _).trans (.journal _ _)).trans (.inc _ _ _)).trans (.refreshJournal _)

theorem StartLinkKept.programEntry (s : State) : StartLinkKept s s.programEntry := by
  unfold State.programEntry
  split
  · exact .refl _
  · exact (((StartLinkKept.ite (.writeSnapshot _) (.refl _)).trans (.onFlash _ _)).trans (.journal _ _)).trans (.setReg _ _ _)

theorem StartLinkKept.programEntries (n : Nat) (s : State) : StartLinkKept s (s.programEntries n) := by
  induction n generalizing s with
  | zero => exact .refl _
  | succ n ih => exact (StartLinkKept.programEntry s).trans (ih _)

/-! The response (R402). -/

/-- The mailbox is free. -/
def State.freeMbox (s : State) : State := { s with link := { s.link with mbox := none } }

/-- HL_MBOX_RESP shows a word, and the mailbox is free. -/
def State.respond (s : State) (w : Word) : State := (s.setReg (liveReg 0x118) w).freeMbox

theorem State.respond_kept (s : State) (w : Word) :
    (s.respond w).start = s.start ∧ (s.respond w).mem = s.mem ∧ (s.respond w).link = { s.link with mbox := none } :=
  ⟨s.setReg_start (liveReg 0x118) w, s.setReg_mem (liveReg 0x118) w, by rw [State.respond, State.freeMbox, State.setReg_link]⟩

theorem State.reg_respond (s : State) (w : Word) (o : Nat) : (s.respond w).reg o = if o = liveReg 0x118 then w else s.reg o :=
  s.reg_setReg _ _ _

/-- The word that HL_MBOX_RESP shows of a command that ends without data. -/
def respBits (status tag : Nat) : Word := BitVec.ofNat 64 (status + tag % 65536 * 2 ^ 16 + 0 % 2 ^ 32 * 2 ^ 32)

theorem State.mboxDone_of_running (s : State) (m : MboxRun) (status : Nat) (h : s.link.mbox = some m) :
    s.mboxDone status [] = (s.respond (respBits status m.tag)).raiseInt 4 := by
  simp only [State.mboxDone, h, List.isEmpty_nil, if_true, List.length_nil, State.respond, State.freeMbox, respBits]

section
variable (s : State) (m : MboxRun) (status : Nat) (h : s.link.mbox = some m)
include h

theorem State.mboxDone_kept : (s.mboxDone status []).start = s.start ∧ (s.mboxDone status []).mem = s.mem ∧
    (s.mboxDone status []).link = { s.link with mbox := none } := by
  have hint := EventOnly.raiseInt (s.respond (respBits status m.tag)) 4
  obtain ⟨hstart, hmem, hlink⟩ := s.respond_kept (respBits status m.tag)
  rw [s.mboxDone_of_running m status h]
  exact ⟨hint.start.trans hstart, hint.mem.trans hmem, hint.link.trans hlink⟩

theorem State.reg_mboxDone (o : Nat) (hlow : o < 0x200000 ∨ 0x300000 ≤ o) (hint : o ≠ hlIntStatus) :
    (s.mboxDone status []).reg o = if o = liveReg 0x118 then respBits status m.tag else s.reg o := by
  rw [s.mboxDone_of_running m status h, (EventKeeps.raiseInt _ _).1 o hlow hint, State.reg_respond]

theorem State.regN_mboxDone (hstatus : status < 4) : (s.mboxDone status []).regN (liveReg 0x118) = status + m.tag % 2 ^ 16 * 2 ^ 16 := by
  have hresp := s.reg_mboxDone m status h (liveReg 0x118) (by decide) (by decide)
  rw [if_pos rfl] at hresp
  rw [State.regN, hresp, respBits, BitVec.toNat_ofNat]
  omega

theorem State.stage_mboxDone : (s.mboxDone status []).stage = s.stage := by
  refine State.stage_of_reg ?_
  rw [s.reg_mboxDone m status h _ (by decide) (by decide), if_neg (by decide)]

end

/-! The module stops (R463). -/

theorem LinkOnly.setPort (s : State) (p st reason : Nat) : LinkOnly s (s.setPort p st reason) := .updPort _ _ _

/-- A port that is in the state and has the reason keeps them, whichever ports are put there. -/
theorem State.port_foldl_setPort_stays (l : List Nat) (st reason : Nat) (s : State) (q : Nat)
    (h : (s.port q).state = st ∧ (s.port q).reason = reason) :
    ((l.foldl (fun s p => State.setPort s p st reason) s).port q).state = st ∧
    ((l.foldl (fun s p => State.setPort s p st reason) s).port q).reason = reason := by
  induction l generalizing s with
  | nil => exact h
  | cons p l ih =>
    refine ih (s.setPort p st reason) ?_
    rw [State.setPort, State.port_updPort]
    split
    · exact ⟨rfl, rfl⟩
    · exact h

/-- Each port of a list is put in one state with one reason. -/
theorem State.port_foldl_setPort (l : List Nat) (st reason : Nat) (s : State) (q : Nat) (h : q ∈ l) :
    ((l.foldl (fun s p => State.setPort s p st reason) s).port q).state = st ∧
    ((l.foldl (fun s p => State.setPort s p st reason) s).port q).reason = reason := by
  induction l generalizing s with
  | nil => exact absurd h List.not_mem_nil
  | cons p l ih =>
    rcases List.mem_cons.mp h with rfl | hq
    · exact State.port_foldl_setPort_stays l st reason _ q ⟨by rw [State.port_setPort_same], by rw [State.port_setPort_same]⟩
    · exact ih _ hq

/-- R463, steps 2 to 4: the ports are down and the journal is flushed, before the response. -/
def State.quiesce (s : State) (mode : Nat) : State :=
  let s := (List.range 16).foldl (fun s p => State.takeDown s p 0 1) s
  let s := s.jqueue { kind := 10, body := [BitVec.ofNat 64 mode, BitVec.ofNat 64 (s.job 0).committed] }
  if s.journalReady then s.writeSnapshot.programEntries s.writeSnapshot.journal.queue.length else s

theorem StartLinkKept.quiesce (s : State) (mode : Nat) : StartLinkKept s (s.quiesce mode) := by
  unfold State.quiesce
  extract_lets s1 s2
  have h2 : StartLinkKept s s2 := (StartLinkKept.foldl _ _ _ (fun _ _ => .takeDown _ _ _ _)).trans (.of_event (.jqueue _ _))
  clear_value s2
  exact .ite (h2.trans ((StartLinkKept.writeSnapshot _).trans (.programEntries _ _))) h2

/-- The ports are shown OFF for reason 1 and the stage is STOPPED. -/
def State.showStopped (s : State) : State :=
  ((List.range 16).foldl (fun s p => State.setPort s p 0 1) s).setStage 12

theorem State.finishShutdown_eq (s : State) (mode status : Nat) :
    s.finishShutdown mode status = ((s.quiesce mode).mboxDone status []).dropMain.showStopped := rfl

theorem LinkOnly.stoppedPorts (s : State) : LinkOnly s ((List.range 16).foldl (fun s p => State.setPort s p 0 1) s) :=
  .foldl _ _ _ (fun _ _ => .setPort _ _ _ _)

/-- The module `t` has stopped from `s` and answered the command `m` with `status`. -/
structure Stopped (s t : State) (m : MboxRun) (status : Nat) : Prop where
  stage : t.stage = 12
  ports : ∀ p, p < 16 → (t.port p).state = 0 ∧ (t.port p).reason = 1
  cores : t.cores = []
  mem : t.mem = []
  on : t.start.domainsOn = keptOn s.start.domainsOn
  up : t.start.domainsUp = keptOn s.start.domainsUp
  mbox : t.link.mbox = none
  resp : t.regN (liveReg 0x118) = status + m.tag % 2 ^ 16 * 2 ^ 16

theorem State.ports_showStopped (s : State) (p : Nat) (h : p < 16) : (s.showStopped.port p).state = 0 ∧ (s.showStopped.port p).reason = 1 := by
  rw [State.showStopped, State.port_setStage]
  exact State.port_foldl_setPort _ 0 1 s p (List.mem_range.mpr h)

/-- What showing the stop leaves alone. -/
theorem State.showStopped_leaves (s : State) : s.showStopped.cores = s.cores ∧ s.showStopped.mem = s.mem ∧
    s.showStopped.start = s.start ∧ s.showStopped.link = s.link ∧ s.showStopped.reg (liveReg 0x118) = s.reg (liveReg 0x118) := by
  have h := LinkOnly.stoppedPorts s
  rw [State.showStopped, State.setStage_cores, State.setStage_mem, State.setStage_start, State.setStage_link,
    State.reg_setStage _ _ _ (by decide), h.reg]
  unfold LinkOnly at h
  rw [h]
  exact ⟨rfl, rfl, rfl, rfl, rfl⟩

theorem State.dropMain_leaves (s : State) : s.dropMain.link = s.link ∧ s.dropMain.cores = [] ∧ s.dropMain.mem = [] ∧
    s.dropMain.start.domainsOn = keptOn s.start.domainsOn ∧ s.dropMain.start.domainsUp = keptOn s.start.domainsUp := by
  have h := RegsOnly.dropMain s
  unfold RegsOnly at h
  rw [h]
  exact ⟨rfl, rfl, rfl, rfl, rfl⟩

theorem State.reg_dropMain_resp (s : State) : s.dropMain.reg (liveReg 0x118) = s.reg (liveReg 0x118) := by
  refine s.reg_dropMain _ (fun d hd => ?_) (by decide) (by decide)
  have := domState_above d
  rw [← hd] at this
  exact absurd this (by decide)

/-- R463: SHUTDOWN ends with the module stopped and its status returned. -/
theorem State.stopped_finishShutdown (s : State) (m : MboxRun) (mode status : Nat) (hm : s.link.mbox = some m) (hstatus : status < 4) :
    Stopped s (s.finishShutdown mode status) m status := by
  rw [State.finishShutdown_eq]
  obtain ⟨hstart, hlink⟩ := StartLinkKept.quiesce s mode
  rw [← hlink] at hm
  obtain ⟨dstart, -, dlink⟩ := (s.quiesce mode).mboxDone_kept m status hm
  have hresp := (s.quiesce mode).regN_mboxDone m status hm hstatus
  generalize (s.quiesce mode).mboxDone status [] = u at dstart dlink hresp ⊢
  obtain ⟨rlink, rcores, rmem, ron, rup⟩ := u.dropMain_leaves
  obtain ⟨pcores, pmem, pstart, plink, preg⟩ := u.dropMain.showStopped_leaves
  refine ⟨State.stage_setStage _ 12 (by decide), u.dropMain.ports_showStopped, pcores.trans rcores, pmem.trans rmem, ?_, ?_, ?_, ?_⟩
  · rw [pstart, ron, dstart, hstart]
  · rw [pstart, rup, dstart, hstart]
  · rw [plink, rlink, dlink]
  · rw [State.regN, preg, State.reg_dropMain_resp]
    exact hresp

/-! The commands. -/

theorem State.mboxRun_of_arg (s : State) (m : MboxRun) (a : List Byte) (f : List Byte → State → State) (hm : s.link.mbox = some m)
    (ha : m.arg = some a) (hc : m.cmd = 0x20) (hr : s.recovery = false) : s.mboxRun 0x20 f = f a s := by
  have harg : s.mboxArg 0x20 = some a := by rw [State.mboxArg, hm]; exact (if_pos hc).trans ha
  rw [State.mboxRun, harg, hr]
  rfl

/-- R463: a drain that is beginning notes the step that it lets run. -/
def State.drainBegun (s : State) : State := { s with start := { s.start with shutdown := s.stepInProgress } }.setStage 11

theorem State.drainBegun_kept (s : State) : s.drainBegun.link = s.link ∧ s.drainBegun.mem = s.mem ∧ s.drainBegun.jobs = s.jobs ∧
    s.drainBegun.start = { s.start with shutdown := s.stepInProgress } := by
  rw [State.drainBegun, State.setStage_link, State.setStage_mem, State.setStage_jobs, State.setStage_start]
  exact ⟨rfl, rfl, rfl, rfl⟩

section
variable (s : State) (m : MboxRun) (a : List Byte) (hm : s.link.mbox = some m) (ha : m.arg = some a) (hc : m.cmd = 0x20)
  (hr : s.recovery = false)
include hm ha hc hr

theorem exec_shutdownTimeout_of_arg :
    exec .shutdownTimeout s = .next (if s.stage = 11 then s.finishShutdown 0 3 else s) := by
  rw [exec_shutdownTimeout, execShutdownTimeout, s.mboxRun_of_arg m a _ hm ha hc hr]

theorem exec_shutdown_of_no_mode (hmode : shutdownMode a = none) (c : Instr) (hcmd : c = .shutdownDrain ∨ c = .shutdownImmediate) :
    exec c s = .next (s.mboxDone 2 []) := by
  rcases hcmd with rfl | rfl
  · rw [exec_shutdownDrain, execShutdownDrain, s.mboxRun_of_arg m a _ hm ha hc hr, hmode]
  · rw [exec_shutdownImmediate, execShutdownImmediate, s.mboxRun_of_arg m a _ hm ha hc hr, hmode]

theorem exec_shutdown_of_immediate (hmode : shutdownMode a = some 1) :
    exec .shutdownImmediate s = .next ((s.setStage 11).finishShutdown 1 0) ∧ exec .shutdownDrain s = .next s := by
  refine ⟨?_, ?_⟩
  · rw [exec_shutdownImmediate, execShutdownImmediate, s.mboxRun_of_arg m a _ hm ha hc hr, hmode]
    rfl
  · rw [exec_shutdownDrain, execShutdownDrain, s.mboxRun_of_arg m a _ hm ha hc hr, hmode]
    rfl

theorem exec_shutdownImmediate_of_drain (hmode : shutdownMode a = some 0) : exec .shutdownImmediate s = .next s := by
  rw [exec_shutdownImmediate, execShutdownImmediate, s.mboxRun_of_arg m a _ hm ha hc hr, hmode]
  rfl

/-- R463: a drain goes on in the state in which it has begun, and stops a module that is no member or has drained. -/
theorem exec_shutdownDrain_of_drain (hmode : shutdownMode a = some 0) : ∃ t, t = (if s.stage = 11 then s else s.drainBegun) ∧
    exec .shutdownDrain s = .next (if (!((s.job 0).member && (s.job 0).admitted) || t.drained) = true then t.finishShutdown 0 0 else t) := by
  refine ⟨_, rfl, ?_⟩
  rw [exec_shutdownDrain, execShutdownDrain, s.mboxRun_of_arg m a _ hm ha hc hr, hmode]
  rfl

end

/-- R463: a drain that begins is over at once where the step in progress has committed and every step is acknowledged. -/
theorem State.drained_drainBegun (s : State) :
    s.drainBegun.drained = true ↔ s.stepInProgress ≤ (s.job 0).committed ∧ s.unacked 0 = 0 := by
  have hack : s.drainBegun.unacked 0 = s.unacked 0 := by
    have hreg : s.drainBegun.reg (ackReg 0) = s.reg (ackReg 0) := by
      rw [State.drainBegun, State.reg_setStage _ _ _ (by decide)]
      rfl
    rw [State.unacked, State.regN, hreg]
    rfl
  rw [State.drained, hack, Bool.and_eq_true, decide_eq_true_iff, decide_eq_true_iff]
  rfl

/-- Settles O42: a shutdown that ends is `State.finishShutdown`, whichever command ends it. -/
theorem shutdownStopsTheModule : Obligations.ShutdownStopsTheModule := by
  unfold Obligations.ShutdownStopsTheModule
  intro s m a stops hm ha hc hr hstops
  have hend : ∀ (u : State) (c : Instr) (mode st : Nat), u.link = s.link → u.start.domainsOn = s.start.domainsOn →
      u.start.domainsUp = s.start.domainsUp → st < 4 → exec c s = .next (u.finishShutdown mode st) → stops c st := by
    intro u c mode st hlink hon hup hst hexec
    have h := u.stopped_finishShutdown m mode st (hlink ▸ hm) hst
    refine (hstops c st).mpr ⟨_, hexec, h.stage, h.ports, h.cores, h.mem, fun d => ?_, fun d => ?_, h.mbox, h.resp⟩
    · rw [h.on, hon, mem_keptOn]
    · rw [h.up, hup, mem_keptOn]
  refine ⟨fun hmode c hcmd => ?_, fun hmode => ?_, fun hmode => ?_, fun h11 => ?_, fun h11 => ?_⟩
  · obtain ⟨hstart, hmem, hlink⟩ := s.mboxDone_kept m 2 hm
    exact ⟨_, exec_shutdown_of_no_mode s m a hm ha hc hr hmode c (by simpa using hcmd), by rw [hlink], s.regN_mboxDone m 2 hm (by decide),
      s.stage_mboxDone m 2 hm, hstart, hmem⟩
  · obtain ⟨himm, hdrain⟩ := exec_shutdown_of_immediate s m a hm ha hc hr hmode
    exact ⟨hend (s.setStage 11) _ 1 0 (s.setStage_link 11) (by rw [State.setStage_start]) (by rw [State.setStage_start]) (by decide) himm, hdrain⟩
  · obtain ⟨t, ht, hexec⟩ := exec_shutdownDrain_of_drain s m a hm ha hc hr hmode
    obtain ⟨blink, bmem, bjobs, bstart⟩ := s.drainBegun_kept
    have hkept : t.link = s.link ∧ t.start.domainsOn = s.start.domainsOn ∧ t.start.domainsUp = s.start.domainsUp := by
      rw [ht]
      split
      · exact ⟨rfl, rfl, rfl⟩
      · exact ⟨blink, by rw [bstart], by rw [bstart]⟩
    obtain ⟨hlink, hon, hup⟩ := hkept
    have hstop : (!((s.job 0).member && (s.job 0).admitted) || t.drained) = true → stops .shutdownDrain 0 := fun hover =>
      hend t _ 0 0 hlink hon hup (by decide) (hexec.trans (by rw [if_pos hover]))
    refine ⟨exec_shutdownImmediate_of_drain s m a hm ha hc hr hmode, fun hno => hstop ?_, fun h11 hdone => hstop ?_,
      fun hmem hadm h11 hdone => ?_, fun _ _ h11 hdone => hstop ?_, fun hmem hadm h11 hdone => ?_⟩
    · rcases hno with hno | hno <;> simp [hno]
    · rw [ht, if_pos h11, hdone, Bool.or_true]
    · rw [ht, if_pos h11] at hexec
      simpa [hmem, hadm, hdone] using hexec
    · rw [ht, if_neg h11, s.drained_drainBegun.mpr hdone, Bool.or_true]
    · have hwaits : s.drainBegun.drained = false := by
        rw [← Bool.not_eq_true, s.drained_drainBegun]
        omega
      rw [ht, if_neg h11, hmem, hadm, hwaits] at hexec
      exact ⟨_, hexec, State.stage_setStage _ 11 (by decide), blink, bstart, bmem, bjobs⟩
  · exact hend s _ 0 3 rfl rfl rfl (by decide) ((exec_shutdownTimeout_of_arg s m a hm ha hc hr).trans (by rw [if_pos h11]))
  · exact (exec_shutdownTimeout_of_arg s m a hm ha hc hr).trans (by rw [if_neg h11])

end Sys2Proof.Machine
end

section
/-! SUPPORT. Reasoning rules for pace and power (17_pace_power_thermal.md R502 to R514): what a change of the registers alone leaves, the
registers that follow the limits, and what a fold leads to whose steps each change a place of their own. -/

namespace Sys2Proof.Machine

open Sys2Proof

/-! What a change of the registers leaves. -/

theorem RegsOnly.cores {s t : State} (h : RegsOnly s t) : t.cores = s.cores := by unfold RegsOnly at h; rw [h]
theorem RegsOnly.mem {s t : State} (h : RegsOnly s t) : t.mem = s.mem := by unfold RegsOnly at h; rw [h]
theorem RegsOnly.jobs {s t : State} (h : RegsOnly s t) : t.jobs = s.jobs := by unfold RegsOnly at h; rw [h]
theorem RegsOnly.pace {s t : State} (h : RegsOnly s t) : t.pace = s.pace := by unfold RegsOnly at h; rw [h]
theorem RegsOnly.cfg {s t : State} (h : RegsOnly s t) : t.cfg = s.cfg := by unfold RegsOnly at h; rw [h]

theorem RegsOnly.ite {s a b : State} {c : Prop} [Decidable c] (ha : RegsOnly s a) (hb : RegsOnly s b) :
    RegsOnly s (if c then a else b) := by split <;> assumption

theorem RegsOnly.inc (s : State) (o n : Nat) : RegsOnly s (s.inc o n) := .ite (.refl _) (.setReg _ _ _)

/-! The registers that follow the limits (R504, R514). -/

theorem RegsOnly.refreshPace (s : State) : RegsOnly s s.refreshPace :=
  (((RegsOnly.setReg _ _ _).trans (.setReg _ _ _)).trans (.setFld _ _ _ _ _)).trans (.setFld _ _ _ _ _)

/-- They are among the first four of the pace block. -/
theorem State.reg_refreshPace (s : State) (o : Nat) (h : o < pgReg 0 ∨ pgReg 0x20 ≤ o) : s.refreshPace.reg o = s.reg o := by
  unfold pgReg at h
  have hstatus : o ≠ pgReg 0 := by unfold pgReg; omega
  have htarget : o ≠ pgReg 0x08 := by unfold pgReg; omega
  have hlimits : o ≠ pgReg 0x18 := by unfold pgReg; omega
  unfold State.refreshPace
  simp only [State.reg_setFld, State.reg_setReg, if_neg hstatus, if_neg htarget, if_neg hlimits]

/-! Folds whose steps each change a place of their own. -/

/-- Where step `d` of a fold changes `g` at `d` alone, to a value `new` that the other steps leave, each step of the list does so once. -/
theorem State.foldl_own_place {β : Type} (f : State → Nat → State) (g new : State → Nat → β) (l : List Nat) (hl : l.Nodup)
    (hown : ∀ s d, g (f s d) d = new s d)
    (hother : ∀ s, ∀ d ∈ l, ∀ e, e ≠ d → g (f s d) e = g s e)
    (hnew : ∀ s, ∀ d ∈ l, ∀ e, e ≠ d → new (f s d) e = new s e) (s : State) (e : Nat) :
    g (l.foldl f s) e = if e ∈ l then new s e else g s e := by
  induction l generalizing s with
  | nil => simp
  | cons d l ih =>
    obtain ⟨hd, hl⟩ := List.nodup_cons.mp hl
    have hrest := ih hl (fun s c hc => hother s c (List.mem_cons_of_mem d hc)) (fun s c hc => hnew s c (List.mem_cons_of_mem d hc)) (f s d)
    rw [List.foldl_cons, hrest]
    by_cases he : e = d
    · subst he
      rw [if_neg hd, if_pos List.mem_cons_self, hown]
    · simp only [hother s d List.mem_cons_self e he, hnew s d List.mem_cons_self e he, List.mem_cons, he, false_or]

/-- A fold that sets registers leaves a register that no step names. -/
theorem State.reg_foldl_setReg_other {α : Type} (off : α → Nat) (v : α → Word) (l : List α) (s : State) (o : Nat)
    (h : ∀ x ∈ l, o ≠ off x) : (l.foldl (fun s x => s.setReg (off x) (v x)) s).reg o = s.reg o := by
  induction l generalizing s with
  | nil => rfl
  | cons x l ih =>
    rw [List.foldl_cons, ih _ (fun y hy => h y (List.mem_cons_of_mem x hy)), State.reg_setReg, if_neg (h x List.mem_cons_self)]

/-- Where one entry alone names a register, the fold gives it that entry's word. -/
theorem State.reg_foldl_setReg_mem {α : Type} (off : α → Nat) (v : α → Word) (l : List α) (s : State) (x : α) (hx : x ∈ l)
    (h : ∀ y ∈ l, off y = off x → y = x) : (l.foldl (fun s x => s.setReg (off x) (v x)) s).reg (off x) = v x := by
  induction l generalizing s with
  | nil => simp at hx
  | cons y l ih =>
    rw [List.foldl_cons]
    by_cases hl : x ∈ l
    · exact ih _ hl (fun z hz => h z (List.mem_cons_of_mem y hz))
    · obtain rfl : x = y := (List.mem_cons.mp hx).resolve_right hl
      rw [State.reg_foldl_setReg_other off v l _ _ (fun z hz heq => hl (h z (List.mem_cons_of_mem x hz) heq.symm ▸ hz)),
        State.reg_setReg_same]

end Sys2Proof.Machine
end

section
/-! A window of 1 µs ends (17_pace_power_thermal.md R502, R503). O27. -/

namespace Sys2Proof.Machine

open Sys2Proof

theorem exec_paceWindow (counts : List PaceCount) (s : State) : exec (.paceWindow counts) s = execPaceWindow counts s := rfl

/-- CORE_PACE of a core. -/
def corePace (i : Nat) : Nat := pgReg (0x1000 + 8 * i)

/-- R502, R503: what CORE_PACE shows of a count, the beats cut at the target. -/
def paceWord (target : Nat) (c : PaceCount) : Word := BitVec.ofNat 64 (min c.beats target % 65536 + c.monitor % 65536 * 2 ^ 16)

/-- CORE_PACE shows the counts of a window. -/
def State.showCounts (s : State) (target : Nat) (counts : List PaceCount) : State :=
  (counts.zip (List.range 256)).foldl (fun s x => s.setReg (corePace x.2) (paceWord target x.1)) s

/-- The counters of waiting microseconds, and the registers that follow the limits, at the end of a window. -/
def State.endWindow (s : State) : State :=
  let s := if s.rfld (pgReg 0) 2 2 = 1 then s.inc (pgReg 0x28) 1 else s
  let s := if s.rfld (expReg 0x40) 8 8 = 1 then s.inc (expReg 0x50) 1 else s
  s.refreshPace

/-- The module after a window. -/
def State.afterWindow (s : State) (counts : List PaceCount) : State :=
  ((s.setFld hlLocalTime 47 0 (s.now + 1)).showCounts s.targetPace counts).endWindow

theorem exec_paceWindow_eq (counts : List PaceCount) (s : State) :
    exec (.paceWindow counts) s = .next (if s.start.aoOn = true then s.afterWindow counts else s) := by
  rw [exec_paceWindow, execPaceWindow]
  cases s.start.aoOn <;> rfl

theorem RegsOnly.showCounts (s : State) (target : Nat) (counts : List PaceCount) : RegsOnly s (s.showCounts target counts) :=
  .foldl _ _ _ (fun _ _ => .setReg _ _ _)

theorem RegsOnly.endWindow (s : State) : RegsOnly s s.endWindow :=
  ((RegsOnly.ite (.inc _ _ _) (.refl _)).trans (.ite (.inc _ _ _) (.refl _))).trans (.refreshPace _)

theorem RegsOnly.afterWindow (s : State) (counts : List PaceCount) : RegsOnly s (s.afterWindow counts) :=
  ((RegsOnly.setFld _ _ _ _ _).trans (.showCounts _ _ _)).trans (.endWindow _)

theorem mem_zip_range (counts : List PaceCount) (c : PaceCount) (i n : Nat) :
    (c, i) ∈ counts.zip (List.range n) ↔ counts[i]? = some c ∧ i < n := by
  simp only [List.mem_iff_getElem?, List.getElem?_zip_eq_some, List.getElem?_eq_some_iff (l := List.range n), List.length_range,
    List.getElem_range]
  constructor
  · rintro ⟨k, hc, hk, rfl⟩
    exact ⟨hc, hk⟩
  · rintro ⟨hc, hi⟩
    exact ⟨i, hc, hi, rfl⟩

theorem corePace_inj {i j : Nat} (h : corePace i = corePace j) : i = j := by
  unfold corePace pgReg at h
  omega

theorem State.reg_showCounts_of_count (s : State) (target : Nat) (counts : List PaceCount) (i : Nat) (c : PaceCount)
    (hc : counts[i]? = some c) (hi : i < 256) : (s.showCounts target counts).reg (corePace i) = paceWord target c := by
  refine State.reg_foldl_setReg_mem (fun x : PaceCount × Nat => corePace x.2) _ _ _ (c, i) ((mem_zip_range _ _ _ _).mpr ⟨hc, hi⟩) ?_
  rintro ⟨d, j⟩ hj heq
  obtain rfl : j = i := corePace_inj heq
  obtain ⟨hd, -⟩ := (mem_zip_range _ _ _ _).mp hj
  rw [Option.some.inj (hd.symm.trans hc)]

theorem State.reg_showCounts_of_none (s : State) (target : Nat) (counts : List PaceCount) (o : Nat)
    (h : ∀ i, i < counts.length → o ≠ corePace i) : (s.showCounts target counts).reg o = s.reg o := by
  refine State.reg_foldl_setReg_other _ _ _ _ _ (fun x hx => h x.2 ?_)
  obtain ⟨hc, -⟩ := (mem_zip_range counts x.1 x.2 256).mp hx
  exact (List.getElem?_eq_some_iff.mp hc).1

/-- The end of a window changes neither local time nor CORE_PACE. -/
theorem State.reg_endWindow (s : State) (o : Nat) (h : o < expReg 0 ∨ pgReg 0x1000 ≤ o) : s.endWindow.reg o = s.reg o := by
  unfold expReg pgReg at h
  have hlimits : o < pgReg 0 ∨ pgReg 0x20 ≤ o := by unfold pgReg; omega
  have hslow : o ≠ pgReg 0x28 := by unfold pgReg; omega
  have hexport : o ≠ expReg 0x50 := by unfold expReg; omega
  unfold State.endWindow
  dsimp only
  rw [State.reg_refreshPace _ _ hlimits]
  split <;> split <;> simp only [State.reg_inc, if_neg hslow, if_neg hexport]

theorem State.now_afterWindow (s : State) (counts : List PaceCount) : (s.afterWindow counts).now = (s.now + 1) % 2 ^ 48 := by
  have hcounts : ∀ i, i < counts.length → hlLocalTime ≠ corePace i := fun i _ => by
    unfold hlLocalTime corePace pgReg
    omega
  have hreg : (s.afterWindow counts).reg hlLocalTime = (s.setFld hlLocalTime 47 0 (s.now + 1)).reg hlLocalTime :=
    (State.reg_endWindow _ _ (by decide)).trans (State.reg_showCounts_of_none _ _ _ _ hcounts)
  exact (State.rfld_of_reg hreg 47 0).trans (State.rfld_setFld_same _ _ _ _ _ (by decide) (by decide))

theorem State.corePace_afterWindow_of_count (s : State) (counts : List PaceCount) (i : Nat) (c : PaceCount)
    (hc : counts[i]? = some c) (hi : i < 256) : (s.afterWindow counts).reg (corePace i) = paceWord s.targetPace c :=
  (State.reg_endWindow _ _ (.inr (by unfold corePace pgReg; omega))).trans (State.reg_showCounts_of_count _ _ _ _ _ hc hi)

theorem State.corePace_afterWindow_of_none (s : State) (counts : List PaceCount) (i : Nat) (h : counts.length ≤ i) :
    (s.afterWindow counts).reg (corePace i) = s.reg (corePace i) := by
  have hcounts : ∀ j, j < counts.length → corePace i ≠ corePace j := fun j hj heq => by
    have := corePace_inj heq
    omega
  have htime : corePace i ≠ hlLocalTime := by
    unfold corePace pgReg hlLocalTime
    omega
  rw [State.afterWindow, State.reg_endWindow _ _ (.inr (by unfold corePace pgReg; omega)), State.reg_showCounts_of_none _ _ _ _ hcounts,
    State.reg_setFld, if_neg htime]

/-- Settles O27: while the always-on domain runs a window is `State.afterWindow`, which changes registers alone. -/
theorem paceWindowAdvancesTime : Obligations.PaceWindowAdvancesTime := by
  unfold Obligations.PaceWindowAdvancesTime
  intro counts s
  have hexec := exec_paceWindow_eq counts s
  refine ⟨fun hao => ?_, fun hao => ?_⟩
  · rw [if_pos hao] at hexec
    have hregs := RegsOnly.afterWindow s counts
    exact ⟨_, hexec, s.now_afterWindow counts, fun i c hc hi => s.corePace_afterWindow_of_count counts i c hc hi,
      fun i hi => s.corePace_afterWindow_of_none counts i hi, hregs.cores, hregs.jobs, hregs.mem⟩
  · rw [hexec, if_neg (by simp [hao])]

end Sys2Proof.Machine
end

section
/-! The governor moves the rails (17_pace_power_thermal.md R505, R508). O28. -/

namespace Sys2Proof.Machine

open Sys2Proof

theorem exec_governorTick (s : State) : exec .governorTick s = execGovernorTick s := rfl

/-- The rail that the governor gives a powered core-group domain for the target `p`. -/
def State.governedRail (s : State) (p d : Nat) : Nat :=
  match s.flintRail with
  | some v => v % 65536
  | none => (clampInt s.vMin (s.railTop d) (s.rail d + railChange (s.lowestMonitor d) p)).toNat % 65536

/-- The registers that follow a tick: whether a rail is at its upper limit below the target, and those of the limits. -/
def State.showGoverned (s : State) : State :=
  (s.setFld (pgReg 0) 3 3 (if s.coreDomains.any (fun d => decide (s.rfld (domState d) 35 35 = 1)) then 1 else 0)).refreshPace

theorem exec_governorTick_of_on (s : State) (h : s.start.aoOn = true) :
    exec .governorTick s = .next (s.coreDomains.foldl (State.governDomain s.targetPace) s).showGoverned := by
  have hcond : ¬ (!s.start.aoOn) = true := by simp [h]
  rw [exec_governorTick, execGovernorTick, if_neg hcond]
  rfl

theorem mem_coreDomains (s : State) (d : Nat) : d ∈ s.coreDomains ↔ d < 32 ∧ d ∈ s.start.domainsUp := by
  rw [State.coreDomains, List.mem_filter, List.mem_range, List.contains_iff_mem]

theorem nodup_coreDomains (s : State) : s.coreDomains.Nodup := List.nodup_range.filter _

/-! One domain. -/

theorem domState_inj {d e : Nat} (h : domState d = domState e) : d = e := by
  unfold domState pgReg at h
  omega

theorem RegsOnly.governDomain (p : Nat) (s : State) (d : Nat) : RegsOnly s (s.governDomain p d) := by
  unfold State.governDomain
  split
  · exact .setFld _ _ _ _ _
  · exact (RegsOnly.setFld _ _ _ _ _).trans (.setFld _ _ _ _ _)

theorem State.reg_governDomain_other (p : Nat) (s : State) (d o : Nat) (h : o ≠ domState d) : (s.governDomain p d).reg o = s.reg o := by
  unfold State.governDomain
  split <;> simp only [State.reg_setFld, if_neg h]

/-- VMAX lies above the rail in DOM_STATE. -/
theorem State.rail_setFld_vmax (s : State) (d v : Nat) : (s.setFld (domState d) 35 35 v).rail d = s.rail d := by
  rw [State.rail, State.rfld, State.reg_setFld, if_pos rfl]
  exact Word.fld_putFld_below _ _ _ _ _ _ (by decide) (by decide) (by decide)

theorem State.rail_governDomain_same (p : Nat) (s : State) (d : Nat) : (s.governDomain p d).rail d = s.governedRail p d := by
  unfold State.governDomain State.governedRail
  cases s.flintRail with
  | some v => exact State.rfld_setFld_same _ _ _ _ _ (by decide) (by decide)
  | none => exact (State.rail_setFld_vmax _ _ _).trans (State.rfld_setFld_same _ _ _ _ _ (by decide) (by decide))

theorem State.rail_governDomain_other (p : Nat) (s : State) (d e : Nat) (h : e ≠ d) : (s.governDomain p d).rail e = s.rail e :=
  State.rfld_of_reg (s.reg_governDomain_other p d _ (fun heq => h (domState_inj heq))) 15 0

/-- The registers of CORE_PACE lie above DOM_STATE of the core-group domains. -/
theorem State.lowestMonitor_governDomain (p : Nat) (s : State) (d e : Nat) (hd : d < 32) :
    (s.governDomain p d).lowestMonitor e = s.lowestMonitor e := by
  have hpace : ∀ i, (s.governDomain p d).rfld (pgReg (0x1000 + 8 * (8 * e + i))) 31 16 = s.rfld (pgReg (0x1000 + 8 * (8 * e + i))) 31 16 :=
    fun i => State.rfld_of_reg (s.reg_governDomain_other p d _ (by unfold domState pgReg; omega)) 31 16
  simp only [State.lowestMonitor, hpace]

theorem State.governedRail_governDomain_other (p : Nat) (s : State) (d e : Nat) (hd : d < 32) (h : e ≠ d) :
    (s.governDomain p d).governedRail p e = s.governedRail p e := by
  have hregs := RegsOnly.governDomain p s d
  simp only [State.governedRail, State.flintRail, State.railTop, State.vMin, State.vMax, State.modCfg, State.cfgV, hregs.faults, hregs.cfg,
    hregs.pace, s.lowestMonitor_governDomain p d e hd, s.rail_governDomain_other p d e h]

/-! Every domain. -/

theorem State.rail_showGoverned (s : State) (d : Nat) : s.showGoverned.rail d = s.rail d := by
  refine State.rfld_of_reg ((State.reg_refreshPace _ _ (.inr (by unfold domState pgReg; omega))).trans ?_) 15 0
  rw [State.reg_setFld, if_neg (by unfold domState pgReg; omega)]

theorem State.rail_governed (p : Nat) (s : State) (d : Nat) :
    (s.coreDomains.foldl (State.governDomain p) s).rail d = if d ∈ s.coreDomains then s.governedRail p d else s.rail d := by
  have hcore : ∀ e ∈ s.coreDomains, e < 32 := fun e he => ((mem_coreDomains s e).mp he).1
  exact State.foldl_own_place (State.governDomain p) State.rail (fun s d => s.governedRail p d) s.coreDomains (nodup_coreDomains s)
    (State.rail_governDomain_same p) (fun s d _ e => s.rail_governDomain_other p d e)
    (fun s d hd e => s.governedRail_governDomain_other p d e (hcore d hd)) s d

/-- Settles O28: a tick gives each powered core-group domain `State.governedRail` and leaves the other rails. -/
theorem governorMovesEveryRail : Obligations.GovernorMovesEveryRail := by
  unfold Obligations.GovernorMovesEveryRail
  intro s hao
  refine ⟨_, exec_governorTick_of_on s hao, fun d hd => ?_⟩
  rw [State.rail_showGoverned, State.rail_governed]
  refine ⟨fun hup hflint => ?_, fun v hup hflint => ?_, fun hdown => ?_⟩
  · rw [if_pos ((mem_coreDomains s d).mpr ⟨hd, hup⟩), State.governedRail, hflint]
  · rw [if_pos ((mem_coreDomains s d).mpr ⟨hd, hup⟩), State.governedRail, hflint]
  · exact if_neg (fun h => hdown ((mem_coreDomains s d).mp h).2)

end Sys2Proof.Machine
end

section
/-! The slope ceilings (17_pace_power_thermal.md R510, R511). O29. -/

namespace Sys2Proof.Machine

open Sys2Proof

theorem exec_slopeCeilingTick (s : State) : exec .slopeCeilingTick s = execSlopeCeilingTick s := rfl

/-- Starts that wait no longer at the heads of their queues are forgotten. -/
def State.keepWaiting (s : State) : State := { s with pace := { s.pace with waiting := s.pace.waiting.filter s.stillWaits } }

/-- Ballast passes fill the levels below the ceilings. -/
def State.ballast (s : State) : State :=
  if (List.range 32).any (fun d => decide (s.levels d < s.ceiling d)) then s.free.2.inc (pgReg 0x38) s.free.1 else s

theorem exec_slopeCeilingTick_of_on (s : State) (h : s.start.aoOn = true) :
    exec .slopeCeilingTick s = .next ((List.range 32).foldl State.slopeDomain s.keepWaiting).ballast := by
  have hcond : ¬ (!s.start.aoOn) = true := by simp [h]
  rw [exec_slopeCeilingTick, execSlopeCeilingTick, if_neg hcond]
  rfl

/-! One domain. -/

/-- Whether a start of a domain waits. -/
def State.wantsLevels (s : State) (d : Nat) : Bool := s.pace.waiting.any (fun k => decide (k / 32 / 8 = d))

/-- The ceiling of a domain after a tick. -/
def State.nextCeiling (s : State) (d : Nat) : Nat :=
  if s.wantsLevels d then min 64 (s.ceiling d + 1) else if s.levels d < s.ceiling d then s.ceiling d - 1 else s.ceiling d

/-- The state with a domain's ceiling set, zeros unlisted. -/
def State.setCeiling (s : State) (d c : Nat) : State :=
  { s with pace := { s.pace with ceilings := if c = 0 then SMap.del s.pace.ceilings d else SMap.put s.pace.ceilings d c } }

theorem State.slopeDomain_eq (s : State) (d : Nat) : s.slopeDomain d = s.setCeiling d (s.nextCeiling d) := rfl

theorem State.ceiling_setCeiling (s : State) (d c e : Nat) : (s.setCeiling d c).ceiling e = if e = d then c else s.ceiling e := by
  unfold State.setCeiling State.ceiling
  dsimp only
  split
  · rename_i h
    rw [SMap.getD_del, h]
  · rw [SMap.getD_put]

theorem State.ceiling_slopeDomain_same (s : State) (d : Nat) : (s.slopeDomain d).ceiling d = s.nextCeiling d := by
  rw [State.slopeDomain_eq, State.ceiling_setCeiling, if_pos rfl]

theorem State.ceiling_slopeDomain_other (s : State) (d e : Nat) (h : e ≠ d) : (s.slopeDomain d).ceiling e = s.ceiling e := by
  rw [State.slopeDomain_eq, State.ceiling_setCeiling, if_neg h]

theorem State.nextCeiling_slopeDomain_other (s : State) (d e : Nat) (h : e ≠ d) : (s.slopeDomain d).nextCeiling e = s.nextCeiling e := by
  rw [State.nextCeiling, s.ceiling_slopeDomain_other d e h]
  rfl

/-! Every domain. -/

theorem State.ceiling_sloped (s : State) (d : Nat) (hd : d < 32) :
    ((List.range 32).foldl State.slopeDomain s).ceiling d = s.nextCeiling d := by
  rw [State.foldl_own_place State.slopeDomain State.ceiling State.nextCeiling _ List.nodup_range State.ceiling_slopeDomain_same
    (fun s d _ e => s.ceiling_slopeDomain_other d e) (fun s d _ e => s.nextCeiling_slopeDomain_other d e), if_pos (List.mem_range.mpr hd)]

/-- Setting ceilings leaves the cores, memory and the slots. -/
theorem State.sloped_keeps (s : State) (l : List Nat) : (l.foldl State.slopeDomain s).cores = s.cores ∧
    (l.foldl State.slopeDomain s).mem = s.mem ∧ (l.foldl State.slopeDomain s).jobs = s.jobs := by
  induction l generalizing s with
  | nil => exact ⟨rfl, rfl, rfl⟩
  | cons d l ih => exact ih (s.slopeDomain d)

theorem State.ballast_keeps (s : State) : s.ballast.cores = s.cores ∧ s.ballast.mem = s.mem ∧ s.ballast.jobs = s.jobs ∧
    s.ballast.pace = s.pace := by
  unfold State.ballast
  split
  · have h := RegsOnly.inc s.free.2 (pgReg 0x38) s.free.1
    exact ⟨h.cores, h.mem, h.jobs, h.pace⟩
  · exact ⟨rfl, rfl, rfl, rfl⟩

theorem State.wantsLevels_keepWaiting (s : State) (d : Nat) :
    s.keepWaiting.wantsLevels d = true ↔ ∃ k ∈ s.pace.waiting, s.stillWaits k = true ∧ k / 32 / 8 = d := by
  simp only [State.wantsLevels, State.keepWaiting, List.any_eq_true, List.mem_filter, decide_eq_true_eq, and_assoc]

/-- Settles O29: a tick gives each core-group domain `State.nextCeiling`, the starts that still wait being those that count. -/
theorem slopeCeilingMovesByOneLevel : Obligations.SlopeCeilingMovesByOneLevel := by
  unfold Obligations.SlopeCeilingMovesByOneLevel
  intro s hao
  obtain ⟨score, smem, sjobs⟩ := s.keepWaiting.sloped_keeps (List.range 32)
  obtain ⟨bcores, bmem, bjobs, bpace⟩ := State.ballast_keeps ((List.range 32).foldl State.slopeDomain s.keepWaiting)
  refine ⟨_, exec_slopeCeilingTick_of_on s hao, bcores.trans score, bmem.trans smem, bjobs.trans sjobs, fun d hd => ?_⟩
  have hceiling : State.ceiling ((List.range 32).foldl State.slopeDomain s.keepWaiting).ballast d = s.keepWaiting.nextCeiling d := by
    rw [State.ceiling, bpace]
    exact s.keepWaiting.ceiling_sloped d hd
  have hquiet : (∀ k ∈ s.pace.waiting, s.stillWaits k = true → k / 32 / 8 ≠ d) → ¬ s.keepWaiting.wantsLevels d = true := fun h hwants => by
    obtain ⟨k, hk, hstill, hdom⟩ := (s.wantsLevels_keepWaiting d).mp hwants
    exact h k hk hstill hdom
  rw [hceiling, State.nextCeiling]
  refine ⟨fun hwaits => ?_, fun hnone hbelow => ?_, fun hnone hheld => ?_⟩
  · exact if_pos ((s.wantsLevels_keepWaiting d).mpr hwaits)
  · exact (if_neg (hquiet hnone)).trans (if_pos hbelow)
  · exact (if_neg (hquiet hnone)).trans (if_neg (Nat.not_lt.mpr hheld))

end Sys2Proof.Machine
end

section
/-! The power limit (17_pace_power_thermal.md R513, R514). O30. -/

namespace Sys2Proof.Machine

open Sys2Proof

theorem exec_powerSample (watts volts : Nat) (s : State) : exec (.powerSample watts volts) s = execPowerSample watts volts s := rfl
theorem exec_powerDecreaseTick (s : State) : exec .powerDecreaseTick s = execPowerDecreaseTick s := rfl
theorem exec_powerIncreaseTick (s : State) : exec .powerIncreaseTick s = execPowerIncreaseTick s := rfl

/-- The last 100 samples with a new one. -/
def State.samplesWith (s : State) (watts : Nat) : List Nat := (s.pace.samples ++ [watts]).drop ((s.pace.samples ++ [watts]).length - 100)

/-- A sample is kept, and the power register shows the average, the voltage and the peak. -/
def State.takeSample (s : State) (watts volts : Nat) : State :=
  let l := s.samplesWith watts
  let s := { s with pace := { s.pace with samples := l } }
  s.setReg (pgReg 0x20) (BitVec.ofNat 64 (s.powerSum / l.length % 65536 + volts % 65536 * 2 ^ 16 + l.foldl max 0 % 65536 * 2 ^ 32))

theorem State.pace_setPow (s : State) (p : Nat) : (s.setPow p).pace = { s.pace with pPow := max 256 p } := (RegsOnly.refreshPace _).pace

theorem State.pace_takeSample (s : State) (watts volts : Nat) :
    (s.takeSample watts volts).pace = { s.pace with samples := s.samplesWith watts } := rfl

theorem State.powerCap_takeSample (s : State) (watts volts : Nat) : (s.takeSample watts volts).powerCap = s.powerCap := by
  refine State.rfld_of_reg ?_ 15 0
  unfold State.takeSample
  dsimp only
  rw [State.reg_setReg, if_neg (by decide)]
  rfl

theorem exec_powerSample_of_on (s : State) (watts volts : Nat) (h : s.start.aoOn = true) : exec (.powerSample watts volts) s =
    .next (if 4 * watts > 5 * s.powerCap then (s.takeSample watts volts).setPow (9 * s.pace.pPow / 10)
      else (s.takeSample watts volts).refreshPace) := by
  have hcond : ¬ (!s.start.aoOn) = true := by simp [h]
  have hpow : (s.takeSample watts volts).pace.pPow = s.pace.pPow := by rw [State.pace_takeSample]
  rw [exec_powerSample, execPowerSample, if_neg hcond, ← s.powerCap_takeSample watts volts, ← hpow]
  rfl

/-- R514: a sample above 1.25 of the cap lowers the limit at once. -/
theorem powerSample_follows (s : State) (hao : s.start.aoOn = true) (watts volts : Nat) : ∃ t, exec (.powerSample watts volts) s = .next t ∧
    t.pace.samples = s.samplesWith watts ∧ (5 * s.powerCap < 4 * watts → t.pace.pPow = max 256 (9 * s.pace.pPow / 10)) ∧
    (4 * watts ≤ 5 * s.powerCap → t.pace.pPow = s.pace.pPow) := by
  refine ⟨_, exec_powerSample_of_on s watts volts hao, ?_⟩
  by_cases hover : 5 * s.powerCap < 4 * watts
  · rw [if_pos hover, State.pace_setPow, State.pace_takeSample]
    exact ⟨rfl, fun _ => rfl, fun hunder => absurd hover (Nat.not_lt.mpr hunder)⟩
  · rw [if_neg hover, (RegsOnly.refreshPace _).pace, State.pace_takeSample]
    exact ⟨rfl, fun h => absurd h hover, fun _ => rfl⟩

theorem exec_powerDecreaseTick_of_on (s : State) (h : s.start.aoOn = true) : exec .powerDecreaseTick s =
    .next (if s.powerCap * s.pace.samples.length < s.powerSum then s.setPow (99 * s.pace.pPow / 100) else s) := by
  rw [exec_powerDecreaseTick, execPowerDecreaseTick, h, Bool.true_and]
  simp only [gt_iff_lt, decide_eq_true_eq]

theorem exec_powerIncreaseTick_of_on (s : State) (h : s.start.aoOn = true) : exec .powerIncreaseTick s =
    .next (if s.powerSum + 25 * s.pace.samples.length < s.powerCap * s.pace.samples.length then
      s.setPow (min s.paceCeiling ((101 * s.pace.pPow + 99) / 100)) else s) := by
  rw [exec_powerIncreaseTick, execPowerIncreaseTick, h, Bool.true_and]
  simp only [decide_eq_true_eq]
  rfl

/-- Settles O30: the sample sets the limit by its own size, the ticks by the average of the samples held. -/
theorem powerLimitFollowsTheSamples : Obligations.PowerLimitFollowsTheSamples := by
  unfold Obligations.PowerLimitFollowsTheSamples
  intro s hao
  have hdown := exec_powerDecreaseTick_of_on s hao
  have hraise := exec_powerIncreaseTick_of_on s hao
  refine ⟨powerSample_follows s hao, fun hover => ?_, fun hunder => ?_, fun hroom => ?_, fun hnone => ?_⟩
  · rw [if_pos hover] at hdown
    exact ⟨_, hdown, by rw [State.pace_setPow], by rw [State.pace_setPow]⟩
  · rw [hdown, if_neg (Nat.not_lt.mpr hunder)]
  · rw [if_pos hroom] at hraise
    exact ⟨_, hraise, by rw [State.pace_setPow], by rw [State.pace_setPow]⟩
  · rw [hraise, if_neg (Nat.not_lt.mpr hnone)]

end Sys2Proof.Machine
end

section
/-! A sensor trips (17_pace_power_thermal.md R518). O33. -/

namespace Sys2Proof.Machine

open Sys2Proof

theorem exec_thermalTrip (d : DomainId) (s : State) : exec (.thermalTrip d) s = execThermalTrip d s := rfl

/-! THERMTRIP# through an error event (R471, R488). -/

theorem State.setRegs_pins (l : List Word) (s : State) (o : Nat) : (s.setRegs o l).pins = s.pins := by
  induction l generalizing s o with
  | nil => rfl
  | cons w l ih => exact ih _ _

theorem State.jqueue_pins (s : State) (e : JEntry) : (s.jqueue e).pins = s.pins := by
  unfold State.jqueue
  dsimp only
  split
  · rfl
  · split <;> rfl

theorem State.raiseInt_pins (s : State) (v : Nat) : (s.raiseInt v).pins = s.pins := by
  unfold State.raiseInt
  dsimp only
  split
  · rfl
  · split <;> rfl

/-- A record sets SMB_ALERT# alone of the pins. -/
theorem State.thermTrip_writeRecord (s : State) (e : ErrInfo) : (s.writeRecord e).pins.thermTrip = s.pins.thermTrip := by
  simp only [State.writeRecord, apply_ite State.pins, apply_ite PinState.thermTrip, State.setFld_pins, State.setBit_pins, State.raiseInt_pins,
    State.jqueue_pins, State.setReg_pins, State.setRegs_pins, ite_self]

/-- R471, R472: an event whose code costs no strike is recorded or only counted. -/
theorem State.thermTrip_raiseError (s : State) (e : ErrInfo) (h : strikeCode e.code = false) :
    (s.raiseError e).pins.thermTrip = s.pins.thermTrip := by
  simp only [State.raiseError, h, if_neg Bool.false_ne_true, apply_ite State.pins, apply_ite PinState.thermTrip, State.inc_pins,
    State.thermTrip_writeRecord, ite_self]

theorem State.thermTrip_raiseOrOwe (s : State) (e : ErrInfo) (h : strikeCode e.code = false) :
    (s.raiseOrOwe e).pins.thermTrip = s.pins.thermTrip := by
  unfold State.raiseOrOwe
  split
  · exact s.thermTrip_raiseError e h
  · rfl

/-! Power leaves the domains. -/

/-- R518: what a trip of domain `d` turns off. -/
def State.tripOff (s : State) (d : Nat) : State := if d = 47 || d = 48 then s.aoOnly else s.dropMain.setStage 0

/-- Of the module `s` a trip of domain `d` has left `t`. -/
structure TrippedOff (s t : State) (d : Nat) : Prop where
  stage : t.stage = 0
  cores : t.cores = []
  mem : t.mem = []
  ports : t.ports = []
  flash0 : t.flash0 = s.flash0
  flash1 : t.flash1 = s.flash1
  pending : t.pending = s.pending
  trips : t.reg (pgReg 0x50) = s.reg (pgReg 0x50)
  service : d = 47 ∨ d = 48 → t.start.domainsOn = [] ∧ t.start.domainsUp = []
  main : d ≠ 47 ∧ d ≠ 48 → t.start.domainsOn = keptOn s.start.domainsOn ∧ t.start.domainsUp = keptOn s.start.domainsUp

theorem domState_ne_trips (d : Nat) : pgReg 0x50 ≠ domState d := by
  unfold domState pgReg
  omega

theorem State.trips_dropMain (s : State) : s.dropMain.reg (pgReg 0x50) = s.reg (pgReg 0x50) :=
  s.reg_dropMain _ domState_ne_trips (by decide) (by decide)

theorem State.trips_aoOnly (s : State) : s.aoOnly.reg (pgReg 0x50) = s.reg (pgReg 0x50) := by
  have hservice : ∀ (t : State) (stage : Nat), (t.withoutService stage).reg (pgReg 0x50) = t.reg (pgReg 0x50) := fun _ _ => rfl
  have hstage : pgReg 0x50 ≠ startStatus := by decide
  rw [State.aoOnly_eq, State.reg_setStage _ _ _ hstage, hservice, State.trips_dropMain, State.reg_domainsOff _ _ _ domState_ne_trips]

/-- Domains 0 to 46 are off. -/
theorem State.trippedOff_dropMain (s : State) (d : Nat) (hd : ¬ (d = 47 ∨ d = 48)) : TrippedOff s (s.dropMain.setStage 0) d := by
  have htrips := (State.reg_setStage s.dropMain 0 (pgReg 0x50) (by decide)).trans s.trips_dropMain
  have hstage := State.stage_setStage s.dropMain 0 (by decide)
  have heq := (RegsOnly.dropMain s).trans (.setFld _ startStatus 3 0 0)
  rw [← State.setStage] at heq
  unfold RegsOnly at heq
  generalize s.dropMain.setStage 0 = t at htrips hstage heq ⊢
  rw [heq] at htrips hstage ⊢
  exact ⟨hstage, rfl, rfl, rfl, rfl, rfl, rfl, htrips, fun h => absurd h hd, fun _ => ⟨rfl, rfl⟩⟩

/-- Domains 47 and 48 are off as well. -/
theorem State.trippedOff_aoOnly (s : State) (d : Nat) (hd : d = 47 ∨ d = 48) : TrippedOff s s.aoOnly d := by
  have h := s.alwaysOnOnly_aoOnly
  exact ⟨h.stage, h.cores, h.mem, h.ports, h.flash0, h.flash1, h.pending, s.trips_aoOnly, fun _ => ⟨h.on, h.up⟩,
    fun hother => absurd hd (not_or.mpr hother)⟩

theorem State.trippedOff_tripOff (s : State) (d : Nat) : TrippedOff s (s.tripOff d) d := by
  unfold State.tripOff
  simp only [Bool.or_eq_true, decide_eq_true_eq]
  split
  · exact s.trippedOff_aoOnly d ‹_›
  · exact s.trippedOff_dropMain d ‹_›

/-! The trip is held, counted and recorded. -/

/-- The record of a trip, with its sensor and its reading. -/
def tripRecord (sensor reading : Nat) : ErrInfo := { code := 0x0903, unit := 14, action := 7, d5 := sensor, d6 := reading }

/-- The trip is held, and THERMTRIP# asserted. -/
def State.holdTrip (s : State) (stage : Nat) : State :=
  { s with start := { s.start with trip := true, prevStage := stage }, pins := { s.pins with thermTrip := true } }

/-- The trip is counted, interrupted for and recorded. -/
def State.reportTrip (s : State) (e : ErrInfo) : State := ((s.inc (pgReg 0x50) 1).raiseInt 9).raiseOrOwe e

/-- The state with the two free values of a trip drawn. -/
def State.tripDrawn (s : State) : State := s.free.2.free.2

theorem exec_thermalTrip_of_on (s : State) (d : DomainId) (h : s.start.aoOn = true) (hd : d.val ≠ 49) : exec (.thermalTrip d) s =
    .next (((s.tripDrawn.tripOff d.val).holdTrip s.lastStage).reportTrip (tripRecord s.free.1 s.free.2.free.1)) := by
  have hcond : ¬ (!s.start.aoOn || decide (d.val = 49)) = true := by simp [h, hd]
  rw [exec_thermalTrip, execThermalTrip, if_neg hcond]
  rfl

theorem EventOnly.pending {s t : State} (h : EventOnly s t) : t.pending = s.pending := by unfold EventOnly at h; rw [h]

theorem EventOnly.reportTrip (s : State) (e : ErrInfo) : EventOnly s (s.reportTrip e) :=
  ((EventOnly.inc _ _ _).trans (.raiseInt _ _)).trans (.raiseOrOwe _ _)

theorem State.thermTrip_reportTrip (s : State) (sensor reading : Nat) :
    (s.reportTrip (tripRecord sensor reading)).pins.thermTrip = s.pins.thermTrip := by
  have hstrike : strikeCode 0x0903 = false := by decide
  rw [State.reportTrip, State.thermTrip_raiseOrOwe _ _ hstrike, State.raiseInt_pins, State.inc_pins]

/-- Of the registers from the pace block on, the report counts the trip and changes no other. -/
theorem State.reg_reportTrip (s : State) (e : ErrInfo) (o : Nat) (h : 0x300000 ≤ o) :
    (s.reportTrip e).reg o = (s.inc (pgReg 0x50) 1).reg o := by
  have hint : o ≠ hlIntStatus := by unfold hlIntStatus; omega
  rw [State.reportTrip, State.reg_raiseOrOwe _ _ _ (.inr h) hint]
  exact (EventKeeps.raiseInt _ 9).1 o (.inr h) hint

theorem State.trips_reportTrip (s : State) (e : ErrInfo) :
    (s.reportTrip e).regN (pgReg 0x50) = min (2 ^ 64 - 1) (s.regN (pgReg 0x50) + 1) := by
  rw [State.regN, s.reg_reportTrip e _ (by decide), State.reg_inc, if_pos rfl, BitVec.toNat_ofNat, State.regN]
  omega

theorem State.stage_reportTrip (s : State) (e : ErrInfo) : (s.reportTrip e).stage = s.stage :=
  State.stage_of_reg ((s.reg_reportTrip e _ (by decide)).trans ((State.reg_inc _ _ _ _).trans (if_neg (by decide))))

/-- Holding and reporting a trip of `s` has led to `t`, whose power and memories are as they were. -/
structure TripReported (s t : State) : Prop where
  stage : t.stage = s.stage
  held : t.start.trip = true
  pin : t.pins.thermTrip = true
  trips : t.regN (pgReg 0x50) = min (2 ^ 64 - 1) (s.regN (pgReg 0x50) + 1)
  on : t.start.domainsOn = s.start.domainsOn
  up : t.start.domainsUp = s.start.domainsUp
  cores : t.cores = s.cores
  mem : t.mem = s.mem
  ports : t.ports = s.ports
  flash0 : t.flash0 = s.flash0
  flash1 : t.flash1 = s.flash1
  pending : t.pending = s.pending

theorem State.tripReported (s : State) (stage sensor reading : Nat) :
    TripReported s ((s.holdTrip stage).reportTrip (tripRecord sensor reading)) := by
  have hevent := EventOnly.reportTrip (s.holdTrip stage) (tripRecord sensor reading)
  exact ⟨State.stage_reportTrip _ _, by rw [hevent.start]; rfl, State.thermTrip_reportTrip _ _ _, State.trips_reportTrip _ _,
    by rw [hevent.start]; rfl, by rw [hevent.start]; rfl, hevent.cores, hevent.mem, hevent.ports, hevent.flash0, hevent.flash1,
    hevent.pending⟩

theorem exec_tripRecovery_of_none (s : State) (h : s.start.trip = false) : exec .tripRecovery s = .next s := by
  have hcond : (!s.start.trip) = true := by simp [h]
  rw [exec_tripRecovery, execTripRecovery, if_pos hcond]

/-- Settles O33: the trip turns off what its domain says, and holding and reporting it touch neither power nor memories. -/
theorem thermalTripDropsTheModule : Obligations.ThermalTripDropsTheModule := by
  unfold Obligations.ThermalTripDropsTheModule
  intro s d
  refine ⟨fun hao hd => ?_, exec_tripRecovery_of_none s⟩
  have hoff := s.tripDrawn.trippedOff_tripOff d.val
  have hrep := (s.tripDrawn.tripOff d.val).tripReported s.lastStage s.free.1 s.free.2.free.1
  refine ⟨_, exec_thermalTrip_of_on s d hao hd, hrep.stage.trans hoff.stage, hrep.held, hrep.pin, hrep.cores.trans hoff.cores,
    hrep.mem.trans hoff.mem, hrep.ports.trans hoff.ports, hrep.flash0.trans hoff.flash0, hrep.flash1.trans hoff.flash1,
    hrep.pending.trans hoff.pending, ?_, fun hservice => ?_, fun hmain => ?_⟩
  · rw [hrep.trips, State.regN, hoff.trips]
    rfl
  · rw [hrep.on, hrep.up]
    exact hoff.service hservice
  · obtain ⟨hon, hup⟩ := hoff.main hmain
    rw [hrep.on, hrep.up, hon, hup]
    exact ⟨mem_keptOn _, mem_keptOn _⟩

end Sys2Proof.Machine
end

section
/-! SUPPORT. Reasoning rules for the SMBus port (18_module_hardware.md R543 to R546): what answers a command, and what a held bus records. -/

namespace Sys2Proof.Machine

open Sys2Proof

theorem exec_smbCapability (s : State) : exec .smbCapability s = execSmbCapability s := rfl
theorem exec_smbFaultSummary (s : State) : exec .smbFaultSummary s = execSmbFaultSummary s := rfl
theorem exec_smbIdent (s : State) : exec .smbIdent s = execSmbIdent s := rfl
theorem exec_smbStart (s : State) : exec .smbStart s = execSmbStart s := rfl
theorem exec_smbTemperature (s : State) : exec .smbTemperature s = execSmbTemperature s := rfl
theorem exec_smbPower (s : State) : exec .smbPower s = execSmbPower s := rfl
theorem exec_smbPace (s : State) : exec .smbPace s = execSmbPace s := rfl
theorem exec_smbRegRead (q : SmbRead) (s : State) : exec (.smbRegRead q) s = execSmbRegRead q s := rfl
theorem exec_smbusOtherCode (code : Nat) (s : State) : exec (.smbusOtherCode code) s = execSmbusOtherCode code s := rfl
theorem exec_sclLowTimeout (s : State) : exec .sclLowTimeout s = execSclLowTimeout s := rfl
theorem exec_sdaLowTimeout (s : State) : exec .sdaLowTimeout s = execSdaLowTimeout s := rfl
theorem exec_busClear (long : Bool) (s : State) : exec (.busClear long) s = execBusClear long s := rfl

/-! Answers (R543, R544). -/

/-- The episode of a held bus has ended. -/
def State.smbFreed (s : State) : State := { s with pins := { s.pins with smbStuck := false } }

/-- The bytes of an answer with the packet error code that follows them (R543). -/
def State.smbAnswered (s : State) (code : Nat) (written : List Byte) (block : Bool) (bs : List Byte) : OutEvent :=
  .smbusBlock bs (crc8 (s.smbBegin code written ++ [BitVec.ofNat 8 (2 * s.pins.smbAddr + 1)] ++
    ((if block then [BitVec.ofNat 8 bs.length] else []) ++ bs)))

theorem State.smbReply_of_on (s : State) (code : Nat) (written : List Byte) (block : Bool) (bs : List Byte) (h : s.start.aoOn = true) :
    s.smbReply code written block bs = s.smbFreed.emit (s.smbAnswered code written block bs) := by
  rw [State.smbReply, if_pos h]
  rfl

theorem State.smbAnswer_of_on (s : State) (code : Nat) (bs : List Byte) (h : s.start.aoOn = true) :
    s.smbAnswer code bs = s.smbFreed.emit (s.smbAnswered code [] true bs) := s.smbReply_of_on code [] true bs h

theorem State.smbNeeds48_of_on (s : State) (code : Nat) (ws : List Word) (h : s.start.aoOn = true) : s.smbNeeds48 code ws =
    s.smbFreed.emit (s.smbAnswered code [] true (if s.domainUp 48 then wordsBytes ws else [])) := s.smbAnswer_of_on code _ h

theorem State.smbRegister_of_on (s : State) (off : Nat) (w : Word) (h : s.start.aoOn = true) : s.smbRegister off w =
    s.smbFreed.emit (s.smbAnswered 0x20 (regReadBytes off) true (if s.domainUp 48 then wordsBytes [w] else [])) :=
  s.smbReply_of_on 0x20 _ true _ h

/-- R543: what is not the code of the bytes written is wrong, and no code at all is not. -/
theorem State.pecWrong_iff (s : State) (code : Nat) (written : List Byte) (pec : Option Byte) :
    s.pecWrong code written pec = true ↔ ∃ x, pec = some x ∧ x ≠ crc8 (s.smbBegin code written) := by
  cases pec with
  | none => simp [State.pecWrong]
  | some x => simp [State.pecWrong]

/-! A bus held low (R546). -/

/-- The record of a held bus, with the number of the partner domain. -/
def smbHeldRecord (domain : Nat) : ErrInfo := { code := 0x0801, unit := 18, d5 := 9, d6 := domain }

/-- The episode counts as recorded, and the free value of its record is drawn. -/
def State.smbNoted (s : State) : State := { s with pins := { s.pins with smbStuck := true }, freeCtr := s.freeCtr + 1 }

theorem State.smbHeld_of_stuck (s : State) (h : s.pins.smbStuck = true) : s.smbHeld = s := by
  have hcond : (!s.start.aoOn || s.pins.smbStuck) = true := by simp [h]
  rw [State.smbHeld, if_pos hcond]

theorem State.smbHeld_of_new (s : State) (hao : s.start.aoOn = true) (h : s.pins.smbStuck = false) :
    s.smbHeld = s.smbNoted.raiseOrOwe (smbHeldRecord s.free.1) := by
  have hcond : ¬ (!s.start.aoOn || s.pins.smbStuck) = true := by simp [hao, h]
  rw [State.smbHeld, if_neg hcond]
  rfl

end Sys2Proof.Machine
end

section
/-! SMBus commands (18_module_hardware.md R543 to R545, Table 18-7). O12. -/

namespace Sys2Proof.Machine

open Sys2Proof

theorem exec_smbFaultSummary_of_on (s : State) (h : s.start.aoOn = true) : exec .smbFaultSummary s = .next (State.emit
    { s with pins := { s.smbFreed.pins with smbAlert := false } }
    (s.smbAnswered 1 [] true (if s.domainUp 48 then wordsBytes [s.readReg (faultReg 0x50)] else []))) := by
  rw [exec_smbFaultSummary, execSmbFaultSummary, if_pos h, State.smbNeeds48_of_on s _ _ h]
  rfl

section
variable (s : State) (off : Nat) (pec : Option Byte) (hao : s.start.aoOn = true)
include hao

theorem exec_smbRegRead_of_register (hpec : s.pecWrong 0x20 (regReadBytes off) pec = false) (halign : off % 8 = 0)
    (hbar : off < 0x04000000) : exec (.smbRegRead ⟨off, pec⟩) s = .next (s.smbFreed.emit (s.smbAnswered 0x20 (regReadBytes off) true
      (if s.domainUp 48 then wordsBytes [s.readReg off] else []))) := by
  have hreg : (decide (off % 8 = 0) && decide (off < 0x04000000)) = true := by simp [halign, hbar]
  rw [exec_smbRegRead, execSmbRegRead, hpec, if_neg Bool.false_ne_true, if_pos hreg, s.smbRegister_of_on off _ hao]

theorem exec_smbRegRead_of_other (hpec : s.pecWrong 0x20 (regReadBytes off) pec = false) (hoff : off % 8 ≠ 0 ∨ 0x04000000 ≤ off) :
    exec (.smbRegRead ⟨off, pec⟩) s = .next (s.free.2.smbFreed.emit (s.smbAnswered 0x20 (regReadBytes off) true
      (if s.domainUp 48 then wordsBytes [BitVec.ofNat 64 s.free.1] else []))) := by
  have hreg : ¬ (decide (off % 8 = 0) && decide (off < 0x04000000)) = true := by
    simp only [Bool.and_eq_true, decide_eq_true_eq]
    omega
  rw [exec_smbRegRead, execSmbRegRead, hpec, if_neg Bool.false_ne_true, if_neg hreg]
  exact congrArg Host.Outcome.next (s.free.2.smbRegister_of_on off _ hao)

theorem exec_smbRegRead_of_pecWrong (hpec : s.pecWrong 0x20 (regReadBytes off) pec = true) :
    exec (.smbRegRead ⟨off, pec⟩) s = .next (s.emit (.smbusPecRefused 0x20)) := by
  rw [exec_smbRegRead, execSmbRegRead, if_pos hpec, if_pos hao]

theorem exec_smbusOtherCode_of_unlisted (code : Nat) (h : code ∉ [0x00, 0x01, 0x02, 0x03, 0x10, 0x11, 0x12, 0x20]) :
    exec (.smbusOtherCode code) s = .next (s.emit (.smbusNotAcknowledged code)) := by
  have hcond : (s.start.aoOn && !([0x00, 0x01, 0x02, 0x03, 0x10, 0x11, 0x12, 0x20] : List Nat).contains code) = true := by
    rw [hao, Bool.true_and, Bool.not_eq_true', ← Bool.not_eq_true, List.contains_iff_mem]
    exact h
  rw [exec_smbusOtherCode, execSmbusOtherCode, if_pos hcond]

end

/-- Settles O12: each command is one reply of the port, and REG_READ is refused, reads a register, or draws a free word. -/
theorem smbusReadsAnswerTheirBlocks : Obligations.SmbusReadsAnswerTheirBlocks := by
  unfold Obligations.SmbusReadsAnswerTheirBlocks
  intro s hao p ans hp hans
  have hans' : ans = s.smbAnswered := hans
  subst hp hans'
  refine ⟨congrArg Host.Outcome.next (s.smbReply_of_on _ _ _ _ hao), congrArg Host.Outcome.next (s.smbAnswer_of_on _ _ hao),
    congrArg Host.Outcome.next (s.smbAnswer_of_on _ _ hao), congrArg Host.Outcome.next (s.smbAnswer_of_on _ _ hao),
    congrArg Host.Outcome.next (s.smbNeeds48_of_on _ _ hao), congrArg Host.Outcome.next (s.smbNeeds48_of_on _ _ hao),
    exec_smbFaultSummary_of_on s hao, fun off pec hpec => ?_, fun off x hx => ?_, exec_smbusOtherCode_of_unlisted s hao⟩
  · have hright : s.pecWrong 0x20 (regReadBytes off) pec = false := by
      rw [← Bool.not_eq_true, State.pecWrong_iff]
      rintro ⟨x, rfl, hx⟩
      simp [hx] at hpec
    exact ⟨exec_smbRegRead_of_register s off pec hao hright, fun hoff => ⟨_, exec_smbRegRead_of_other s off pec hao hright hoff⟩⟩
  · exact exec_smbRegRead_of_pecWrong s off _ hao ((s.pecWrong_iff _ _ _).mpr ⟨x, rfl, hx⟩)

end Sys2Proof.Machine
end

section
/-! A bus held low (18_module_hardware.md R535, R546). O13. -/

namespace Sys2Proof.Machine

open Sys2Proof

/-- R546: the two timeouts do the same, and a bus clear after 25 ms low ends the episode besides. -/
theorem exec_heldBus {c : Instr} (h : c = .sclLowTimeout ∨ c = .sdaLowTimeout ∨ c = .busClear true) (s : State) :
    (c ≠ .busClear true → exec c s = .next s.smbHeld) ∧ (c = .busClear true → exec c s = .next s.smbHeld.smbFreed) := by
  obtain rfl | rfl | rfl := h
  · exact ⟨fun _ => exec_sclLowTimeout s, fun h => nomatch h⟩
  · exact ⟨fun _ => exec_sdaLowTimeout s, fun h => nomatch h⟩
  · exact ⟨fun h => absurd rfl h, fun _ => exec_busClear true s⟩

theorem EventOnly.freeCtr {s t : State} (h : EventOnly s t) : t.freeCtr = s.freeCtr := by unfold EventOnly at h; rw [h]

/-- Settles O13: all three commands ask for the one record of the episode, which is made only while the episode has none. -/
theorem heldSmbusIsRecordedOnce : Obligations.HeldSmbusIsRecordedOnce := by
  unfold Obligations.HeldSmbusIsRecordedOnce
  intro s c hao hc
  obtain ⟨htimeout, hclear⟩ := exec_heldBus hc s
  refine ⟨fun hnew => ?_, fun hstuck hne => ?_, exec_busClear false s, fun hstuck => ?_⟩
  · have hheld := s.smbHeld_of_new hao hnew
    have hctr : s.smbHeld.freeCtr = s.freeCtr + 1 := by rw [hheld, (EventOnly.raiseOrOwe _ _).freeCtr]; rfl
    by_cases hcc : c = .busClear true
    · exact ⟨s.free.1, s.smbHeld.smbFreed, hclear hcc, hctr, fun h => absurd hcc h, fun _ => ⟨s.smbHeld, hheld, rfl⟩⟩
    · exact ⟨s.free.1, s.smbHeld, htimeout hcc, hctr, fun _ => hheld, fun h => absurd h hcc⟩
  · rw [htimeout hne, s.smbHeld_of_stuck hstuck]
  · obtain ⟨-, hends⟩ := exec_heldBus (.inr (.inr rfl)) s
    rw [hends rfl, s.smbHeld_of_stuck hstuck]
    rfl

end Sys2Proof.Machine
end

section
/-! SUPPORT. Reasoning rules for the JTAG port (18_module_hardware.md R547 to R549, Table 18-8): the selection of an instruction, and
what DEBUG reads. -/

namespace Sys2Proof.Machine

open Sys2Proof

theorem exec_idcode (s : State) : exec .idcode s = execIdcode s := rfl
theorem exec_samplePreload (data : Nat) (s : State) : exec (.samplePreload data) s = execSamplePreload data s := rfl
theorem exec_extest (s : State) : exec .extest s = execExtest s := rfl
theorem exec_highz (s : State) : exec .highz s = execHighz s := rfl
theorem exec_clamp (s : State) : exec .clamp s = execClamp s := rfl
theorem exec_jtagDebug (space : DebugSpace) (off : Nat) (s : State) : exec (.jtagDebug space off) s = execJtagDebug space off s := rfl
theorem exec_bypass (code : Nat) (s : State) : exec (.bypass code) s = execBypass code s := rfl
theorem exec_trstAssert (s : State) : exec .trstAssert s = execTrstAssert s := rfl

/-- The instruction `code` is selected, and what the one before drove or floated is released (R547). -/
def State.jtagSelected (s : State) (code : Nat) : State :=
  { s with pins := { s.pins with jtagIr := code, floating := false, driven := none } }

theorem State.jtagSelect_of_up (s : State) (code : Nat) (f : State → State) (h : s.domainUp 48 = true) :
    s.jtagSelect code f = f (s.jtagSelected code) := by
  rw [State.jtagSelect, if_pos h]
  rfl

theorem State.jtagSelect_of_down (s : State) (code : Nat) (f : State → State) (h : s.domainUp 48 = false) :
    s.jtagSelect code f = s := by
  rw [State.jtagSelect, h, if_neg Bool.false_ne_true]

theorem State.scanAllowed_iff (s : State) : s.scanAllowed = true ↔ s.stage = 12 ∨ s.stage = 10 := by simp [State.scanAllowed]

@[simp] theorem State.scanAllowed_jtagSelected (s : State) (code : Nat) : (s.jtagSelected code).scanAllowed = s.scanAllowed := id rfl

theorem exec_bypass_of_unlisted (s : State) (code : Nat) (h : code ∉ [0x01, 0x02, 0x03, 0x04, 0x05, 0x80]) :
    exec (.bypass code) s = .next (s.jtagSelect code State.jtagBypass) := by
  rw [exec_bypass, execBypass, if_neg (mt List.contains_iff_mem.mp h)]

theorem exec_bypass_of_listed (s : State) (code : Nat) (h : code ∈ [0x01, 0x02, 0x03, 0x04, 0x05, 0x80]) :
    exec (.bypass code) s = .next s := by
  rw [exec_bypass, execBypass, if_pos (List.contains_iff_mem.mpr h)]

/-! What DEBUG reads (R549). -/

/-- Of the pins, a register shows MOD_FAULT# alone. -/
theorem State.readReg_pins (s : State) (p : PinState) (o : Nat) (h : p.modFault = s.pins.modFault) :
    State.readReg { s with pins := p } o = s.readReg o := by
  have hsummary : State.faultSummary { s with pins := p } = s.faultSummary := by
    unfold State.faultSummary
    rw [h]
    rfl
  unfold State.readReg
  rw [hsummary]
  rfl

@[simp] theorem State.readReg_jtagSelected (s : State) (code o : Nat) : (s.jtagSelected code).readReg o = s.readReg o :=
  s.readReg_pins _ o rfl

/-- What DEBUG shifts on a locked module: a register of BAR0, and of any other space nothing. -/
def State.lockedWord (s : State) (space : DebugSpace) (off : Nat) : Word := if space = .bar0 then s.readReg off else 0

theorem State.debugRead_of_locked (s : State) (space : DebugSpace) (off : Nat) (h : s.fuses.debugLock = true) :
    s.debugRead space off = (s.lockedWord space off, s) := by
  cases space with
  | bar0 => rfl
  | coreStore c => simp [State.debugRead, State.lockedWord, h]
  | stepTable c => simp [State.debugRead, State.lockedWord, h]
  | moduleMemory => simp [State.debugRead, State.lockedWord, h]
  | fuses => simp [State.debugRead, State.lockedWord, h]

theorem exec_jtagDebug_of_up (s : State) (space : DebugSpace) (off : Nat) (h : s.domainUp 48 = true) :
    exec (.jtagDebug space off) s = .next (((s.jtagSelected 0x80).debugRead space off).2.emit
      (.jtagData 64 ((s.jtagSelected 0x80).debugRead space off).1.toNat)) := by
  rw [exec_jtagDebug, execJtagDebug, s.jtagSelect_of_up _ _ h]

/-- Settles O15: on a locked module DEBUG reads no state outside the registers, and changes none. -/
theorem lockedDebugReadsZero : Obligations.LockedDebugReadsZero := by
  unfold Obligations.LockedDebugReadsZero
  intro s space off hup hlock
  refine ⟨s.lockedWord space off, ?_, fun h => if_neg h, fun h => if_pos h⟩
  have hword : (s.jtagSelected 0x80).lockedWord space off = s.lockedWord space off := by
    simp only [State.lockedWord, State.readReg_jtagSelected]
  rw [exec_jtagDebug_of_up s space off hup, (s.jtagSelected 0x80).debugRead_of_locked space off hlock, hword]
  rfl

end Sys2Proof.Machine
end

section
/-! JTAG instructions (18_module_hardware.md R547 to R549, Table 18-8). O14. -/

namespace Sys2Proof.Machine

open Sys2Proof

theorem exec_jtag_of_down (s : State) (hdown : s.domainUp 48 = false) (c : Instr) (hc : c ∈ [.idcode, .trstAssert, .extest, .highz, .clamp] ∨
    (∃ d, c = .samplePreload d) ∨ (∃ code, c = .bypass code) ∨ (∃ sp off, c = .jtagDebug sp off)) : exec c s = .next s := by
  have hnone (code : Nat) (f : State → State) : Host.Outcome.next (s.jtagSelect code f) = (.next s : Res) :=
    congrArg _ (s.jtagSelect_of_down code f hdown)
  obtain hc | ⟨d, rfl⟩ | ⟨code, rfl⟩ | ⟨sp, off, rfl⟩ := hc
  · simp only [List.mem_cons, List.not_mem_nil, or_false] at hc
    obtain rfl | rfl | rfl | rfl | rfl := hc <;> exact hnone _ _
  · exact hnone _ _
  · by_cases h : code ∈ [0x01, 0x02, 0x03, 0x04, 0x05, 0x80]
    · exact exec_bypass_of_listed s code h
    · rw [exec_bypass_of_unlisted s code h, hnone]
  · exact hnone _ _

section
variable (s : State) (hup : s.domainUp 48 = true)
include hup

/-! Boundary scan (R548). -/

theorem exec_extest_of_up : exec .extest s = .next (if s.scanAllowed then
    { s.jtagSelected 0x03 with pins := { (s.jtagSelected 0x03).pins with driven := some s.pins.scan } }
    else (s.jtagSelected 0x03).jtagBypass) := by
  rw [exec_extest, execExtest, s.jtagSelect_of_up _ _ hup]
  rfl

theorem exec_highz_of_up : exec .highz s = .next (State.jtagBypass (if s.scanAllowed then
    { s.jtagSelected 0x04 with pins := { (s.jtagSelected 0x04).pins with floating := true } } else s.jtagSelected 0x04)) := by
  rw [exec_highz, execHighz, s.jtagSelect_of_up _ _ hup]
  rfl

theorem exec_clamp_of_up : exec .clamp s = .next (State.jtagBypass (if s.scanAllowed then
    { s.jtagSelected 0x05 with pins := { (s.jtagSelected 0x05).pins with driven := some s.pins.scan } }
    else s.jtagSelected 0x05)) := by
  rw [exec_clamp, execClamp, s.jtagSelect_of_up _ _ hup]
  rfl

theorem exec_idcode_of_up : exec .idcode s = .next ((s.jtagSelected 0x01).emit
    (.jtagData 32 (s.fuses.stepping / 16 % 16 * 2 ^ 28 + 0x1296 * 2 ^ 12 + 0x4D3 * 2 + 1))) := by
  rw [exec_idcode, execIdcode, s.jtagSelect_of_up _ _ hup]
  rfl

theorem exec_trstAssert_of_up : exec .trstAssert s = .next (s.jtagSelected 0x01) := by
  rw [exec_trstAssert, execTrstAssert, s.jtagSelect_of_up _ _ hup]

theorem exec_samplePreload_of_up (d : Nat) : exec (.samplePreload d) s = .next (State.emit
    { s.jtagSelected 0x02 with pins := { (s.jtagSelected 0x02).pins with scan := d }, freeCtr := s.freeCtr + 1 }
    (.jtagData 0 s.free.1)) := by
  rw [exec_samplePreload, execSamplePreload, s.jtagSelect_of_up _ _ hup]
  rfl

theorem exec_bypass_of_up (code : Nat) (h : code ∉ [0x01, 0x02, 0x03, 0x04, 0x05, 0x80]) :
    exec (.bypass code) s = .next ((s.jtagSelected code).emit (.jtagData 1 0)) := by
  rw [exec_bypass_of_unlisted s code h, s.jtagSelect_of_up _ _ hup]
  rfl

end

/-- Settles O14: every instruction acts on the state in which it is selected, and boundary scan acts where its stage lets it. -/
theorem jtagInstructionsSelectAndShift : Obligations.JtagInstructionsSelectAndShift := by
  unfold Obligations.JtagInstructionsSelectAndShift
  intro s
  refine ⟨fun hup sel hsel => ?_, exec_jtag_of_down s⟩
  have hsel' : sel = s.jtagSelected := hsel
  subst hsel'
  refine ⟨exec_idcode_of_up s hup, exec_trstAssert_of_up s hup, fun d => ⟨_, exec_samplePreload_of_up s hup d⟩,
    fun hstage => ?_, fun hstopped hrecovery => ?_, exec_bypass_of_up s hup, fun sp off => exec_jtagDebug_of_up s sp off hup⟩
  · have hscan : s.scanAllowed = true := s.scanAllowed_iff.mpr hstage
    rw [exec_extest_of_up s hup, exec_highz_of_up s hup, exec_clamp_of_up s hup, if_pos hscan, if_pos hscan, if_pos hscan]
    exact ⟨rfl, rfl, rfl⟩
  · have hscan : ¬ s.scanAllowed = true := mt s.scanAllowed_iff.mp (not_or.mpr ⟨hstopped, hrecovery⟩)
    rw [exec_extest_of_up s hup, exec_highz_of_up s hup, exec_clamp_of_up s hup, if_neg hscan, if_neg hscan, if_neg hscan]
    exact ⟨rfl, rfl, rfl⟩

end Sys2Proof.Machine
end

section
/-! The step takes the command at the front of the queue, and every command is total (00_scope.md; 95_what_each_step_holds.md).
O1, O2, O3. -/

namespace Sys2Proof.Machine

open Sys2Proof

theorem step_of_pending_cons {s : State} {c : Instr} {rest : List Instr} (h : s.pending = c :: rest) :
    step s = exec c (s.withPending rest) := by
  rw [step, h]

theorem step_of_pending_nil {s : State} (h : s.pending = []) : step s = .next s := by
  rw [step, h]

/-- Whether a result is a next state, and not a fault or a refusal. -/
def answers : Res → Bool
  | .next _ => true
  | .fault _ | .refused _ => false

theorem exists_next_of_answers {r : Res} (h : answers r = true) : ∃ t, r = .next t := by
  cases r with
  | next t => exact ⟨t, rfl⟩
  | fault _ => cases h
  | refused _ => cases h

/-- Each arm of the dispatch is the command's own meaning, and each of these is a next state by its definition: what can fail
(a condition that does not hold, a refused address, an error) is a branch inside that state. -/
theorem answers_exec (c : Instr) (s : State) : answers (exec c s) = true := by
  cases c <;> rfl

/-- Settles O1: the step's equation for a queue with a front. -/
theorem stepRunsFrontCommand : Obligations.StepRunsFrontCommand :=
  fun _ _ _ => step_of_pending_cons

/-- Settles O2: the step's equation for an empty queue. -/
theorem idleStepLeavesTheState : Obligations.IdleStepLeavesTheState :=
  fun _ => step_of_pending_nil

/-- Settles O3: no arm of the dispatch is a fault or a refusal. -/
theorem everyCommandAnswersANextState : Obligations.EveryCommandAnswersANextState :=
  fun c s => exists_next_of_answers (answers_exec c s)

end Sys2Proof.Machine
end
